-- ==== Sys2Proof/Word.lean ====
section
/-! DEFINITION. The word types of the block. -/

namespace Sys2Proof

/-- A byte on the wire, at the mailbox or in a line buffer. -/
abbrev Byte := BitVec 8

/-- A 16-bit frame number (R7) or event counter (R2). -/
abbrev Word16 := BitVec 16

/-- A value of the epoch counter E (R1), or a word of PD. -/
abbrev Word32 := BitVec 32

/-- A plane set: bit p stands for plane p (R198). -/
abbrev PlaneSet := BitVec 4

/-- The key of a service message: kind in bits 11..8, kind-specific bits in 7..0 (R152). -/
abbrev Key := BitVec 12

end Sys2Proof
end

