-- ==== Sys2Proof/Syntax.lean ====
section
/-! DEFINITION. The commands of the block: one constructor for each row of the table of operations and
events. The table gives no operand fields; the operands are what the row's rule needs from outside. -/

namespace Sys2Proof

/-- The two uses of the part, chosen by the ROLE strap (R186). -/
inductive Role
  | head
  | base
  deriving DecidableEq, Repr

/-- How a segment ends (R98). -/
inductive SegEnd
  /-- the end delimiter: a complete segment -/
  | delimiter
  /-- idle fill or another start delimiter before the end delimiter -/
  | truncation
  /-- the 6,165th byte with no end delimiter yet -/
  | overrun
  deriving DecidableEq, Repr

/-- The four kinds of error on the service carrier (R159). -/
inductive CarrierError
  | echo
  | symbol
  | check
  | noAck
  deriving DecidableEq, Repr

/-- How SI received a message: its start stamp (R156), and whether the acknowledge slot was marked (R158, R164). -/
structure Arrival where
  stamp : Word32
  marked : Bool
  deriving DecidableEq, Repr

/-- A STATUS request: its body, and the levels of CP0..CP3 and of PREADY as they stand when the snapshot is taken (R108,
R145). -/
structure StatusRequest where
  body : List Byte
  cp : PlaneSet
  pready : Bool
  deriving DecidableEq, Repr

/-- The commands, in the order of spec/opcode_table.json. -/
inductive Instr
  /-- POWER_ON_RESET (R186): RST_N is released with these levels on the strap pins. -/
  | powerOnReset (role : Role) (plane : BitVec 2) (node : BitVec 4) (adr : BitVec 2)
  /-- RST_N_ASSERTED (R148). -/
  | rstNAsserted
  /-- SETTLE (R188): a write transaction to `addr` with a SETTLE request of this body. -/
  | settle (addr : BitVec 7) (body : List Byte)
  /-- ADJUST (R191). -/
  | adjust (addr : BitVec 7) (body : List Byte)
  /-- SEND (R181). -/
  | send (addr : BitVec 7) (body : List Byte)
  /-- TAKE (R180). -/
  | take (addr : BitVec 7) (body : List Byte)
  /-- STATUS (R193). -/
  | status (addr : BitVec 7) (req : StatusRequest)
  /-- NOTICES (R196). -/
  | notices (addr : BitVec 7) (body : List Byte)
  /-- SOFT_RESET (R197). -/
  | softReset (addr : BitVec 7) (body : List Byte)
  /-- MAILBOX_BAD_REQUEST (R190): all the bytes written after the address byte, up to the end of the transaction. -/
  | mailboxBadRequest (addr : BitVec 7) (bytes : List Byte)
  /-- MAILBOX_READ (R190): a read transaction in which the controller reads `count` bytes. -/
  | mailboxRead (addr : BitVec 7) (count : Nat)
  /-- FRAME_START (R21). -/
  | frameStart
  /-- RUNNING_ENTRY (R187). -/
  | runningEntry
  /-- CANDIDATE_REMOVED (R37). -/
  | candidateRemoved
  /-- HOLDOVER_EXPIRED (R42). -/
  | holdoverExpired
  /-- PROBE_TIMEOUT (R46). -/
  | probeTimeout
  /-- STROBE_FIRE (R66). -/
  | strobeFire
  /-- REFIN_PULSE (R51). -/
  | refinPulse
  /-- REFERENCE_SILENCE (R52). -/
  | referenceSilence
  /-- ANNOUNCE_RECEIVED (R36): key and payload of the message, and how SI received it. -/
  | announceReceived (key : Key) (payload : List Byte) (arrival : Arrival)
  /-- DELAY_PROBE_RECEIVED (R174). -/
  | delayProbeReceived (key : Key) (payload : List Byte) (arrival : Arrival)
  /-- DELAY_REPLY_RECEIVED (R47). -/
  | delayReplyReceived (key : Key) (payload : List Byte) (arrival : Arrival)
  /-- CONTROL_RECEIVED (R176). -/
  | controlReceived (key : Key) (payload : List Byte) (arrival : Arrival)
  /-- CONTROL_REPLY_RECEIVED (R171). -/
  | controlReplyReceived (key : Key) (payload : List Byte) (arrival : Arrival)
  /-- UNUSABLE_KIND (R171). -/
  | unusableKind (key : Key) (payload : List Byte) (arrival : Arrival)
  /-- BAD_FORM (R170). -/
  | badForm (key : Key) (payload : List Byte) (arrival : Arrival)
  /-- USER_MAIL_FILED (R179). -/
  | userMailFiled (key : Key) (payload : List Byte) (arrival : Arrival)
  /-- MESSAGE_START (R173). -/
  | messageStart
  /-- ARBITRATION_LOST (R157). -/
  | arbitrationLost
  /-- MESSAGE_SENT (R158). -/
  | messageSent
  /-- MESSAGE_FAILED (R161). -/
  | messageFailed
  /-- SERVICE_ERROR (R159). -/
  | serviceError (kind : CarrierError)
  /-- GUARDED_WAIT_END (R163). -/
  | guardedWaitEnd
  /-- SILENCED_RECOVERY (R164). -/
  | silencedRecovery
  /-- INTEGRATION_END (R165). -/
  | integrationEnd
  /-- LISTEN_ONLY_EFFECT (R167). -/
  | listenOnlyEffect
  /-- FRAME_BEGIN (R83). -/
  | frameBegin
  /-- LINE_BEGIN (R84). -/
  | lineBegin
  /-- PAYLOAD_WORD (R85): the word on PD with its code on PCTL (R200). -/
  | payloadWord (pctl : BitVec 4) (pd : Word32)
  /-- LINE_END (R86). -/
  | lineEnd
  /-- SEGMENT_LAUNCHED (R89). -/
  | segmentLaunched
  /-- CARRIER_LOSS (R97): the lane's CP input is deasserted. -/
  | carrierLoss (lane : Fin 4)
  /-- START_DELIMITER (R98), with the level of the lane's CP input at it. -/
  | startDelimiter (lane : Fin 4) (cp : Bool)
  /-- SEGMENT_HEADER (R100): the 16 header bytes. -/
  | segmentHeader (lane : Fin 4) (header : List Byte)
  /-- SEGMENT_END (R102): how the segment ended, whether a code violation was seen in it, and the bytes
  received after its header. -/
  | segmentEnd (lane : Fin 4) (how : SegEnd) (violation : Bool) (rest : List Byte)
  /-- SILENCE_TIMEOUT (R106). -/
  | silenceTimeout (lane : Fin 4)
  /-- RECORD_DEADLINE (R118), of the record with this key. -/
  | recordDeadline (frame : BitVec 8) (line : Nat)
  /-- RECORD_END (R144): a PCLK edge with PREADY high takes a record's last word. -/
  | recordEnd
  /-- ABORT_TAKEN (R147): a PCLK edge with PREADY high takes the pending ABORT. -/
  | abortTaken
  /-- WORD_TAKEN (R142): a PCLK edge with PREADY high takes a word other than the record's last. -/
  | wordTaken
  /-- STALL (R145): a PCLK edge with PREADY low while a record's word is presented. -/
  | stall
  deriving DecidableEq, Repr

end Sys2Proof
end

