-- ==== Sys2Proof/WellFormed.lean ====
section
/-! DEFINITION. Which commands the hardware can receive: bounds that the wire, the mailbox or the ports set. -/

namespace Sys2Proof

/-- The kind of a service message: the key's first four bits (R152). -/
def Key.kind (key : Key) : Nat := (key >>> 8).toNat

/-- A mailbox body has a 2-byte length (R201). -/
def bodyFits (body : List Byte) : Bool := body.length ≤ 65535

/-- A service message carries at most 16 payload bytes (R152). -/
def payloadFits (payload : List Byte) : Bool := payload.length ≤ 16

/-- Kinds 1 to 5 with the payload length the table of R170 states. -/
def goodForm (key : Key) (payload : List Byte) : Bool :=
  match key.kind with
  | 1 => payload.length == 14
  | 2 => payload.length == 0
  | 3 => payload.length == 8
  | 4 => 1 ≤ payload.length && payloadFits payload
  | 5 => 1 ≤ payload.length && payloadFits payload
  | _ => false

/-- A command the hardware can receive. -/
def Instr.wellFormed : Instr → Bool
  | .powerOnReset _ _ _ _ => true
  | .rstNAsserted => true
  | .settle _ body => bodyFits body
  | .adjust _ body => bodyFits body
  | .send _ body => bodyFits body
  | .take _ body => bodyFits body
  | .status _ req => bodyFits req.body
  | .notices _ body => bodyFits body
  | .softReset _ body => bodyFits body
  | .mailboxBadRequest _ _ => true
  | .mailboxRead _ count => 1 ≤ count
  | .frameStart => true
  | .runningEntry => true
  | .candidateRemoved => true
  | .holdoverExpired => true
  | .probeTimeout => true
  | .strobeFire => true
  | .refinPulse => true
  | .referenceSilence => true
  | .announceReceived key payload _ => key.kind == 1 && goodForm key payload
  | .delayProbeReceived key payload _ => key.kind == 2 && goodForm key payload
  | .delayReplyReceived key payload _ => key.kind == 3 && goodForm key payload
  | .controlReceived key payload _ => key.kind == 4 && goodForm key payload
  | .controlReplyReceived key payload _ => key.kind == 5 && goodForm key payload
  | .unusableKind key payload _ => key.kind == 0 && payloadFits payload
  | .badForm key payload _ => 1 ≤ key.kind && key.kind ≤ 5 && payloadFits payload && !goodForm key payload
  | .userMailFiled key payload _ => 6 ≤ key.kind && payloadFits payload
  | .messageStart => true
  | .arbitrationLost => true
  | .messageSent => true
  | .messageFailed => true
  | .serviceError _ => true
  | .guardedWaitEnd => true
  | .silencedRecovery => true
  | .integrationEnd => true
  | .listenOnlyEffect => true
  | .frameBegin => true
  | .lineBegin => true
  | .payloadWord pctl _ => 4 ≤ pctl.toNat && pctl.toNat ≤ 7
  | .lineEnd => true
  | .segmentLaunched => true
  | .carrierLoss _ => true
  | .startDelimiter _ _ => true
  | .segmentHeader _ header => header.length == 16
  | .segmentEnd _ how _ rest =>
    match how with
    | .overrun => rest.length == 6149
    | .delimiter => rest.length ≤ 6148
    | .truncation => rest.length ≤ 6148
  | .silenceTimeout _ => true
  | .recordDeadline _ line => line < 4096
  | .recordEnd => true
  | .abortTaken => true
  | .wordTaken => true
  | .stall => true

end Sys2Proof
end

