-- ==== Sys2Proof/Decode.lean ====
section
/-! DEFINITION. The table of operations and events gives no row any bits, so no word spells a command. -/

namespace Sys2Proof

/-- The command a word of the table's bits spells: none, since no row of spec/opcode_table.json gives bits
(log entry 35). -/
def decodeTableWord (_nbits _w : Nat) : Option Instr := none

end Sys2Proof
end

