-- ==== Sys2Proof/Config.lean ====
section
/-! DEFINITION. What the spec leaves open: free values, constants with no body. -/

namespace Sys2Proof

/-- Whether the check of an OVERLONG segment with these header bytes and these bytes after it matches,
where the two readings of "its check" differ (R98 delimits no check for it). Free value, log entry 12. -/
opaque Config.overlongCheck : List Byte → List Byte → Bool

/-- A byte whose value the spec does not state: the level byte of a NOTICES response with no level to
give (R196), and F_cur, N_next and J of a remote stitch summary in IDLE (R201).
Free value, applied to the counter of draws that the state holds; log entries 24 and 25. -/
opaque Config.freeByte : Nat → Byte

end Sys2Proof
end

