-- ==== Sys2Proof/Machine/State.lean ====
section
/-! DEFINITION. The state of the block, block by block, as plain data, and the state after reset. -/

namespace Sys2Proof.Machine

/-! ## Shared shapes -/

/-- An event counter (R2): 16 bits, saturating. -/
abbrev Counter := BitVec 16

/-- Four like things, one for each plane 0..3. -/
structure Four (α : Type) where
  p0 : α
  p1 : α
  p2 : α
  p3 : α
  deriving DecidableEq, Repr

/-- A timecode (R27): each byte two binary-coded-decimal digits, and the pair flag. -/
structure Timecode where
  hours : Byte
  minutes : Byte
  seconds : Byte
  frames : Byte
  pair : Bool
  deriving DecidableEq, Repr

/-! ## The settled configuration (R188, R203) -/

/-- What stands in for a missing plane on a released line (R12). -/
inductive ConcealMode
  | repeatLast
  | fill
  deriving DecidableEq, Repr

/-- The transmit order mode (R173). -/
inductive OrderMode
  | key
  | index
  deriving DecidableEq, Repr

/-- The definition of a mail slot (R178). -/
inductive SlotDef
  | unused
  | receive (key mask : Key)
  | transmit (key : Key)
  deriving DecidableEq, Repr

/-- An entry of a strobe schedule (R64); the line selector EVERY is `none`. -/
structure StrobeEntry where
  line : Option Nat
  tick : Nat
  setMask : BitVec 6
  clearMask : BitVec 6
  deriving DecidableEq, Repr

/-- The accepted SETTLE block. -/
structure Settled where
  lTot : Nat
  aLines : Nat
  tpl : Nat
  x : Nat
  r : Nat
  d : Nat
  m : Nat
  stepLimit : Nat
  lockWindow : Nat
  h : Nat
  rOff : Int
  lead : Nat
  mask : PlaneSet
  w : Nat
  mode : ConcealMode
  pre : Nat
  prop : Nat
  pa : Nat
  pb : Nat
  sjw : Nat
  order : OrderMode
  slots : List SlotDef
  levels : List Nat
  threshold : Nat
  schedule : List StrobeEntry
  deriving DecidableEq, Repr

/-! ## Timebase -/

/-- An entry of the frame-start history (R25). -/
structure HistEntry where
  number : Word16
  e : Word32
  stepped : Bool
  deriving DecidableEq, Repr

/-- What a running frame generator holds and one that is not running has not (R17, R31): the frame start, the next
starts and the step request. -/
structure Gen where
  start : Word32
  unstepped : Word32
  scheduled : Word32
  step : Option Int
  deriving DecidableEq, Repr

/-- The timebase TB (R31). The line, the tick in line and the frame trim stand at 0 until the generator runs. -/
structure Tb where
  e : Word32
  gen : Option Gen
  line : Nat
  tick : Nat
  trim : Int
  frameNo : Word16
  history : List HistEntry
  q : Int
  tc : Timecode
  adoption : Option (Timecode × Word16)
  adoptions : Counter
  deriving DecidableEq, Repr

/-! ## Discipline unit -/

/-- The five timebase states, in the order of R198. -/
inductive TbState
  | selfRef
  | selfHold
  | selfFree
  | followAcq
  | followLock
  deriving DecidableEq, Repr

/-- The reference monitor's states (R51). -/
inductive MonState
  | absent
  | checking
  | locked
  deriving DecidableEq, Repr

/-- An entry of the candidate table (R36). -/
structure Cand where
  node : BitVec 4
  cls : Nat
  age : Nat
  deriving DecidableEq, Repr

/-- The outstanding probe (R46). -/
structure Probe where
  target : BitVec 4
  t1 : Word32
  frames : Nat
  deriving DecidableEq, Repr

/-- The discipline unit DU (R61). -/
structure Du where
  cands : List Cand
  state : TbState
  source : BitVec 4
  cls : Nat
  srcCls : Nat
  dEst : Nat
  dValid : Bool
  probe : Option Probe
  countdown : Nat
  i : Int
  lock : Nat
  tracking : Bool
  credit : Nat
  mon : MonState
  anchor : Option Word32
  validRun : Nat
  invalidRun : Nat
  implausible : Counter
  probeAbandoned : Counter
  replyDiscarded : Counter
  announceIgnored : Counter
  steps : Counter
  deriving DecidableEq, Repr

/-! ## Strobe generator -/

/-- The strobe generator SG (R71). `prior` holds the pin levels from before this tick's position was matched, once it
has been: each tick is matched once, and a frame that ends at this very tick takes the firing back (R65, log entry
6). -/
structure Sg where
  pins : BitVec 6
  active : List StrobeEntry
  holder : Option (List StrobeEntry)
  swaps : Counter
  prior : Option (BitVec 6)
  deriving DecidableEq, Repr

/-! ## Segment store -/

/-- Who fills a FILLING buffer (R73). -/
inductive Owner
  | lane (p : Fin 4)
  | lu
  deriving DecidableEq, Repr

/-- The four states of a line buffer (R73). -/
inductive BufState
  | free
  | filling (owner : Owner)
  | queued
  | referenced (count : Nat)
  deriving DecidableEq, Repr

/-- A line buffer with the bytes written into it. -/
structure Buf where
  state : BufState
  bytes : List Byte
  deriving DecidableEq, Repr

/-- The segment store SS (R81). -/
structure Ss where
  bufs : List Buf
  lowWater : Nat
  grants : Counter
  refusedEmpty : Counter
  refusedReserve : Counter
  deriving DecidableEq, Repr

/-! ## Launch unit -/

/-- The line state, holding the filling buffer in FILLING (R84). -/
inductive LineState
  | outside
  | filling (buf : Nat)
  | discarding
  deriving DecidableEq, Repr

/-- What LU drives on its uplink carrier (R90). -/
inductive Carrier
  | off
  | idleFill
  | sending
  deriving DecidableEq, Repr

/-- What LU asks the front end to send on the uplink carrier (R90). -/
inductive UplinkSymbol
  | idleFill
  | startDelimiter
  | byte (b : Byte)
  | endDelimiter
  deriving DecidableEq, Repr

/-- A finished segment waiting for or in launch (R87); its payload is its buffer's bytes. -/
structure Segment where
  plane : BitVec 2
  frame : BitVec 8
  line : Nat
  length : Nat
  timecode : Option Timecode
  buf : Nat
  deriving DecidableEq, Repr

/-- The launch unit LU (R94). The launch in progress began `beganPart` 125ths of a tick after E stood at `began` (R91,
log entry 29); `uplink` is the model's own view of the last segment sent whole (log entry 31). -/
structure Lu where
  latch : Option (BitVec 8 × Timecode)
  line : LineState
  lineCount : Nat
  lineNo : Nat
  queue : List Segment
  carrier : Carrier
  began : Word32
  beganPart : Nat
  uplink : List UplinkSymbol
  linesLaunched : Counter
  brokenLine : Counter
  noFrame : Counter
  excessLine : Counter
  emptyLine : Counter
  overlongLine : Counter
  launchOverflow : Counter
  unframed : Counter
  deriving DecidableEq, Repr

/-! ## Receive lanes -/

/-- The lane states (R96). -/
inductive LaneState
  | dark
  | locking
  | locked
  deriving DecidableEq, Repr

/-- The header of a received segment (R199). -/
structure SegHeader where
  plane : BitVec 2
  frame : BitVec 8
  line : Nat
  length : Nat
  timecode : Option Timecode
  deriving DecidableEq, Repr

/-- How the segment in progress is received (R100). -/
inductive Disposition
  | checkOnly
  | filling (buf : Nat)
  | refused
  deriving DecidableEq, Repr

/-- The segment a lane is receiving (R98, R99). -/
inductive InProgress
  | none
  /-- its start delimiter has been seen, its header not yet -/
  | started
  /-- its header has been read: the 16 bytes as received, their fields, and the disposition -/
  | body (bytes : List Byte) (header : SegHeader) (disp : Disposition)
  deriving DecidableEq, Repr

/-- A receive lane (R109). -/
structure Lane where
  state : LaneState
  goodRun : Nat
  badRun : Nat
  seg : InProgress
  deadline : Option Word32
  good : Counter
  checkFail : Counter
  malformed : Counter
  noBuffer : Counter
  late : Counter
  duplicate : Counter
  stray : Counter
  unexpectedPlane : Counter
  tableFull : Counter
  flushing : Counter
  lossCarrier : Counter
  lossBad : Counter
  lossSilence : Counter
  deriving DecidableEq, Repr

/-! ## Stitch engine -/

/-- A plane's contribution to an assembly record (R115). -/
structure Contribution where
  buf : Nat
  length : Nat
  deriving DecidableEq, Repr

/-- The states of an assembly record (R117, R118). -/
inductive RecState
  | opened  -- OPEN
  | complete
  | expired
  deriving DecidableEq, Repr

/-- An assembly record (R115). -/
structure Record where
  frame : BitVec 8
  line : Nat
  contribs : Four (Option Contribution)
  first : Word32
  last : Word32
  deadline : Word32
  timecode : Option Timecode
  state : RecState
  deriving DecidableEq, Repr

/-- A hold slot's buffer, and the line it came from (R129). -/
structure Hold where
  buf : Nat
  length : Nat
  frame : BitVec 8
  line : Nat
  deriving DecidableEq, Repr

/-- The tallies of a frame (R14). -/
structure Tallies where
  lines : Nat
  complete : Nat
  concealed : Nat
  gap : Nat
  forced : Nat
  worstSkew : Nat
  contributing : PlaneSet
  joined : PlaneSet
  deriving DecidableEq, Repr

/-- What the engine holds in RUN and FLUSHING (R111). -/
structure FrameCtx where
  fCur : BitVec 8
  nNext : Nat
  mask : PlaneSet
  j : PlaneSet
  tallies : Tallies
  deriving DecidableEq, Repr

/-- The engine state (R111). -/
inductive EngineState
  | idle
  | run (f : FrameCtx)
  | flushing (f : FrameCtx)
  deriving DecidableEq, Repr

/-- The stitch engine SE (R138). -/
structure Se where
  state : EngineState
  lockedSet : PlaneSet
  table : List Record
  holds : Four (Option Hold)
  strayRun : Nat
  lastTallies : Tallies
  framesStarted : Counter
  framesEnded : Counter
  framesFlushed : Counter
  resyncStray : Counter
  resyncEmpty : Counter
  forcedLines : Counter
  contribWithdrawn : Counter
  contribDiscarded : Counter
  deriving DecidableEq, Repr

/-! ## Output unit -/

/-- How a plane stands on a released line (R12). -/
inductive PlaneOut
  | present (buf length : Nat)
  | repeated (buf length : Nat)
  | filled
  | absent
  deriving DecidableEq, Repr

/-- Why a line was released (R13), in the order of R200's codes. -/
inductive Cause
  | complete
  | expired
  | forced
  | gap
  | flush
  deriving DecidableEq, Repr

/-- Why a frame ended (R14). -/
inductive EndCause
  | normal
  | flush
  deriving DecidableEq, Repr

/-- A LINE descriptor (R12). -/
structure LineDesc where
  frame : BitVec 8
  line : Nat
  planes : Four PlaneOut
  timecode : Option Timecode
  skew : Nat
  cause : Cause
  deriving DecidableEq, Repr

/-- A FRAME_END descriptor (R14). -/
structure FrameEndDesc where
  frame : BitVec 8
  cause : EndCause
  tallies : Tallies
  deriving DecidableEq, Repr

/-- A descriptor of the output queue (R140). -/
inductive Descriptor
  | line (d : LineDesc)
  | frameEnd (d : FrameEndDesc)
  deriving DecidableEq, Repr

/-- An ABORT word (R15): which record it closes. -/
inductive AbortWord
  | line (frame : BitVec 8) (line : Nat)
  | frameEnd (frame : BitVec 8)
  deriving DecidableEq, Repr

/-- The output unit OU (R148). `taken` counts the words of the head record taken: started is one or more
(R139), and the presented word follows from the queue, `taken` and the pending ABORT (R143). -/
structure Ou where
  queue : List Descriptor
  taken : Nat
  stalled : Bool
  abort : Option AbortWord
  linesOut : Counter
  framesOut : Counter
  abortsOut : Counter
  stalledRecords : Counter
  queueFull : Counter
  deriving DecidableEq, Repr

/-! ## Service interface -/

/-- The states of SI, in the order of R198. -/
inductive SiState
  | off
  | integrating
  | active
  | guarded
  | silenced
  deriving DecidableEq, Repr

/-- The transmit places of MH (R172). -/
inductive Place
  | announce
  | probe
  | reply
  | controlReply
  | slot (i : Nat)
  deriving DecidableEq, Repr

/-- The node's own message on the carrier (R156, R157); `bits` is what it drives from the start mark
through the end field (R152, R153); `failed` says that an error has been found in it (R159). -/
structure OnCarrier where
  place : Place
  key : Key
  payload : List Byte
  stamp : Word32
  bits : List Bool
  failed : Bool
  deriving DecidableEq, Repr

/-- Where the carrier stands at the node (R155, R160). -/
inductive Phase
  /-- idle -/
  | idle
  /-- in the interspace after a message -/
  | interspace
  /-- in a message, the node's own or another's, from its start mark on -/
  | receiving
  /-- waiting for 10 spaces: integration, and after an error -/
  | recovering
  deriving DecidableEq, Repr

/-- What a node has sampled of the message in progress (R152, R153): the data bits, the start mark first and the stuff
bits removed; the run of equal data bits, 4 where a stuff bit is due; how many bits after the stuffed part; and whether
the acknowledge slot was marked. A space is `true`, a mark `false`. -/
structure Reading where
  data : List Bool
  run : Nat
  tail : Nat
  marked : Bool
  deriving DecidableEq, Repr

/-- What this tick's sample has found (R157 to R159): the event it brings about. -/
inductive Found
  | lost
  | error (kind : CarrierError)
  | sent
  | received (key : Key) (payload : List Byte) (marked : Bool)
  deriving DecidableEq, Repr

/-- The service interface SI (R168). `tx` is the level driven on SVC_TX and `level` the carrier's at the last tick,
`true` a space; `bitNo` counts the bits of the message in progress; `resynced` says that this bit has been
resynchronized (R151); `found` is the model's own mark of what this tick's sample brings about (log entry 15). -/
structure Si where
  state : SiState
  tec : Nat
  recCount : Nat
  recovery : Nat
  recoveryRun : Nat
  spaces : Nat
  listenOnly : Bool
  onCarrier : Option OnCarrier
  rxStamp : Option Word32
  phase : Phase
  guardWait : Option Nat
  burst : Nat
  burstWait : Nat
  bitPos : Nat
  tx : Bool
  level : Bool
  bitNo : Nat
  resynced : Bool
  reading : Reading
  found : Option Found
  acked : Bool
  sentOk : Counter
  sendFailed : Counter
  receivedOk : Counter
  arbitrationLost : Counter
  echoErrors : Counter
  symbolErrors : Counter
  checkErrors : Counter
  noAckErrors : Counter
  deriving DecidableEq, Repr

/-! ## Message handler -/

/-- A DELAY_REPLY in the reply queue (R174). -/
structure Reply where
  requester : BitVec 4
  t2 : Word32
  deriving DecidableEq, Repr

/-- A CONTROL_REPLY in its place (R176). -/
structure ControlReply where
  requester : BitVec 4
  payload : List Byte
  deriving DecidableEq, Repr

/-- A message held in a receive slot (R178). -/
structure RxMail where
  key : Key
  payload : List Byte
  stamp : Word32
  deriving DecidableEq, Repr

/-- A message of a transmit slot (R181). -/
structure TxMail where
  key : Key
  payload : List Byte
  deriving DecidableEq, Repr

/-- The states of a mail slot (R178), in the order of R198. -/
inductive SlotState
  | unused
  | empty
  | full (m : RxMail)
  | overrun (m : RxMail)
  | idle
  | pending (m : TxMail)
  | sending (m : TxMail)
  | done
  | failed
  deriving DecidableEq, Repr

/-- A mail slot. -/
structure Slot where
  defn : SlotDef
  state : SlotState
  deriving DecidableEq, Repr

/-- The message handler MH (R184). The ANNOUNCE place holds no contents of its own: the key follows the
class (R43) and the payload is fixed at the start mark (R156). -/
structure Mh where
  announce : Bool
  probe : Option (BitVec 4)
  replies : List Reply
  controlReply : Option ControlReply
  slots : List Slot
  unusableKind : Counter
  badForm : Counter
  probesUnanswered : Counter
  replyQueueFull : Counter
  controlBusy : Counter
  controlUnreplied : Counter
  mailUnmatched : Counter
  mailOverrun : Counter
  deriving DecidableEq, Repr

/-! ## Request handler -/

/-- The four straps (R186). -/
structure Straps where
  role : Role
  plane : BitVec 2
  node : BitVec 4
  adr : BitVec 2
  deriving DecidableEq, Repr

/-- The lifecycle (R187). -/
inductive Lifecycle
  | unsettled
  | joining
  | running
  deriving DecidableEq, Repr

/-- The runtime set (R189), but for listen-only, which stands in SI, and the schedule, which stands in SG. -/
structure Runtime where
  mask : PlaneSet
  w : Nat
  mode : ConcealMode
  threshold : Nat
  lead : Nat
  deriving DecidableEq, Repr

/-- The pending changes (R192), but for the schedule, which stands in SG's holder. -/
structure PendingSet where
  mask : Option PlaneSet
  w : Option Nat
  mode : Option ConcealMode
  threshold : Option Nat
  lead : Option Nat
  listenOnly : Option Bool
  preset : Option Timecode
  deriving DecidableEq, Repr

/-- The result codes (R201). -/
inductive ResultCode
  | done
  | refusedState
  | refusedRange
  | busy
  | empty
  | unknownKind
  | badLength
  deriving DecidableEq, Repr

/-- A response (R201): result code and body. -/
structure Response where
  code : ResultCode
  body : List Byte
  deriving DecidableEq, Repr

/-- The mailbox (R190). -/
inductive Mailbox
  | idle
  | taking
  | held (r : Response)
  deriving DecidableEq, Repr

/-- What the last read transaction showed on MSDA: the model's own view of the port (log entry 31). -/
inductive BusRead
  | nothing
  | nak
  | bytes (bs : List Byte)
  deriving DecidableEq, Repr

/-- The request handler RH (R197). Bit s of `notices` is source s (1..14), bit 15 SILENCED (R201). -/
structure Rh where
  straps : Straps
  lifecycle : Lifecycle
  joining : Nat
  settled : Option Settled
  runtime : Runtime
  pending : PendingSet
  notices : BitVec 16
  levels : List Nat
  mailbox : Mailbox
  busRead : BusRead
  deriving DecidableEq, Repr

/-! ## The whole -/

/-- Input pins: CP and PREADY, whose level the spec reports, as last seen (R108, R145; log entry 4), and the levels that
the other nodes put on the service carrier at the ticks to come, the next first, a space after the last (log entry
15). -/
structure Pins where
  cp : Four Bool
  pready : Bool
  svc : List Bool
  deriving DecidableEq, Repr

/-- Everything the block holds but the queue of waiting commands. `rstLow` says that RST_N is asserted
(R148); `freeIdx` counts the free bytes drawn (the model's own, log entry 25). -/
structure Node where
  tb : Tb
  du : Du
  sg : Sg
  ss : Ss
  lu : Lu
  rl : Four Lane
  se : Se
  ou : Ou
  si : Si
  mh : Mh
  rh : Rh
  pins : Pins
  rstLow : Bool
  freeIdx : Nat
  deriving DecidableEq, Repr

/-- The block and the commands waiting for it, first in first out. -/
structure State where
  node : Node
  pending : List Instr
  deriving DecidableEq, Repr

/-- The spec names no state in which the part stops: there is no fault. -/
inductive Fault
  deriving DecidableEq, Repr

/-- Why a step has no meaning. -/
inductive Refusal
  /-- Raised by an arm of `exec` that has no meaning yet, by its row's mnemonic. Safe: the run stops. -/
  | notModelled (mnemonic : String)
  deriving DecidableEq, Repr

/-! ## After power-on reset -/

/-- The same thing for each plane. -/
def Four.const {α : Type} (a : α) : Four α := ⟨a, a, a, a⟩

/-- 00:00:00:00 with the pair flag clear. -/
def Timecode.zero : Timecode := ⟨0, 0, 0, 0, false⟩

/-- All tallies zero, both plane sets empty (R14, R138). -/
def Tallies.zero : Tallies := ⟨0, 0, 0, 0, 0, 0, 0, 0⟩

/-- TB after a power-on reset (R31). -/
def Tb.powerOn : Tb := ⟨0, none, 0, 0, 0, 0, [], 0, Timecode.zero, none, 0⟩

/-- DU after a power-on reset (R61); the delay estimate's value is the model's choice (log entry 10). -/
def Du.powerOn (node : BitVec 4) : Du :=
  { cands := [], state := .selfFree, source := node, cls := 2, srcCls := 2, dEst := 0, dValid := false
    probe := none, countdown := 0, i := 0, lock := 0, tracking := false, credit := 0
    mon := .absent, anchor := none, validRun := 0, invalidRun := 0
    implausible := 0, probeAbandoned := 0, replyDiscarded := 0, announceIgnored := 0, steps := 0 }

/-- SG after a power-on reset (R71). -/
def Sg.powerOn : Sg := ⟨0, [], none, 0, none⟩

/-- A FREE buffer. -/
def Buf.free : Buf := ⟨.free, []⟩

/-- SS after a power-on reset (R81). -/
def Ss.powerOn : Ss := ⟨List.replicate 48 Buf.free, 48, 0, 0, 0⟩

/-- LU after a power-on reset (R94). -/
def Lu.powerOn : Lu :=
  { latch := none, line := .outside, lineCount := 0, lineNo := 0, queue := [], carrier := .off
    began := 0, beganPart := 0, uplink := [], linesLaunched := 0, brokenLine := 0, noFrame := 0, excessLine := 0
    emptyLine := 0, overlongLine := 0, launchOverflow := 0, unframed := 0 }

/-- A lane after either reset (R109, R110). -/
def Lane.powerOn : Lane :=
  { state := .dark, goodRun := 0, badRun := 0, seg := .none, deadline := none
    good := 0, checkFail := 0, malformed := 0, noBuffer := 0, late := 0, duplicate := 0, stray := 0
    unexpectedPlane := 0, tableFull := 0, flushing := 0, lossCarrier := 0, lossBad := 0, lossSilence := 0 }

/-- SE after either reset (R138). -/
def Se.powerOn : Se :=
  { state := .idle, lockedSet := 0, table := [], holds := Four.const none, strayRun := 0
    lastTallies := Tallies.zero, framesStarted := 0, framesEnded := 0, framesFlushed := 0
    resyncStray := 0, resyncEmpty := 0, forcedLines := 0, contribWithdrawn := 0, contribDiscarded := 0 }

/-- OU after a power-on reset (R148). -/
def Ou.powerOn : Ou := ⟨[], 0, false, none, 0, 0, 0, 0, 0⟩

/-- Nothing of a message sampled. -/
def Reading.empty : Reading := ⟨[], 0, 0, false⟩

/-- SI after a power-on reset (R168). -/
def Si.powerOn (node : BitVec 4) : Si :=
  { state := .off, tec := 0, recCount := 0, recovery := 0, recoveryRun := 0, spaces := 0
    listenOnly := node == 15, onCarrier := none, rxStamp := none, phase := .recovering
    guardWait := none, burst := 0, burstWait := 0, bitPos := 0, tx := true, level := true, bitNo := 0
    resynced := false, reading := Reading.empty, found := none, acked := false
    sentOk := 0, sendFailed := 0, receivedOk := 0, arbitrationLost := 0
    echoErrors := 0, symbolErrors := 0, checkErrors := 0, noAckErrors := 0 }

/-- MH after a power-on reset (R184): empty places and twelve slots with no definition. -/
def Mh.powerOn : Mh :=
  { announce := false, probe := none, replies := [], controlReply := none
    slots := List.replicate 12 ⟨.unused, .unused⟩
    unusableKind := 0, badForm := 0, probesUnanswered := 0, replyQueueFull := 0
    controlBusy := 0, controlUnreplied := 0, mailUnmatched := 0, mailOverrun := 0 }

/-- Nothing pending (R192). -/
def PendingSet.none : PendingSet := ⟨.none, .none, .none, .none, .none, .none, .none⟩

/-- RH after a power-on reset (R197): threshold 7, every level 0; the other runtime items are placeholders
while there is no runtime set (log entry 32). -/
def Rh.powerOn (straps : Straps) : Rh :=
  { straps := straps, lifecycle := .unsettled, joining := 0, settled := none
    runtime := ⟨0, 0, .repeatLast, 7, 0⟩, pending := PendingSet.none
    notices := 0, levels := List.replicate 14 0, mailbox := .idle, busRead := .nothing }

/-- The block as the release of RST_N leaves it (R186), with these straps, these levels on the input pins
and this count of free bytes drawn. -/
def Node.powerOn (straps : Straps) (pins : Pins) (freeIdx : Nat) : Node :=
  { tb := Tb.powerOn, du := Du.powerOn straps.node, sg := Sg.powerOn, ss := Ss.powerOn
    lu := Lu.powerOn, rl := Four.const Lane.powerOn, se := Se.powerOn, ou := Ou.powerOn
    si := Si.powerOn straps.node, mh := Mh.powerOn, rh := Rh.powerOn straps
    pins := pins, rstLow := false, freeIdx := freeIdx }

/-- The state after reset: the straps are the model's choice (log entry 3), the input pins low (log entry
4), the service carrier quiet, and no command waits. -/
def State.reset : State :=
  ⟨Node.powerOn ⟨.head, 0, 0, 0⟩ ⟨Four.const false, false, []⟩ 0, []⟩

end Sys2Proof.Machine
end

