-- ==== Sys2Proof/Machine/Ops.lean ====
section
/-! DEFINITION. Operations every block uses: time in E, counters, plane sets, and the segment store. -/

namespace Sys2Proof.Machine

/-! ## Time in E (R1, R9) -/

/-- The difference of two E values: modulo 2^32, read as a signed 32-bit number (R1). -/
def sdiff (a b : Word32) : Int := (a - b).toInt

/-- E has passed `v`: E is later than `v` (R9). -/
def passed (e v : Word32) : Bool := 0 < sdiff e v

/-- E has reached `v`: E is `v` or later. -/
def reached (e v : Word32) : Bool := 0 ≤ sdiff e v

/-- An E value moved by a signed number of ticks, modulo 2^32. -/
def eAdd (e : Word32) (t : Int) : Word32 := e + BitVec.ofInt 32 t

/-! ## Counters (R2) -/

/-- One event: adds 1, saturating at 65,535. -/
def Counter.bump (c : Counter) : Counter := if c = 0xFFFF then 0xFFFF else c + 1

/-- `k` events. -/
def Counter.bumps : Nat → Counter → Counter
  | 0, c => c
  | k + 1, c => Counter.bumps k (Counter.bump c)

/-! ## Planes -/

/-- The item of plane `p`. -/
def Four.get {α : Type} (q : Four α) (p : Fin 4) : α :=
  match p with
  | 0 => q.p0
  | 1 => q.p1
  | 2 => q.p2
  | 3 => q.p3

/-- The items with plane `p`'s replaced. -/
def Four.set {α : Type} (q : Four α) (p : Fin 4) (a : α) : Four α :=
  match p with
  | 0 => { q with p0 := a }
  | 1 => { q with p1 := a }
  | 2 => { q with p2 := a }
  | 3 => { q with p3 := a }

/-- The items in increasing plane order. -/
def Four.toList {α : Type} (q : Four α) : List α := [q.p0, q.p1, q.p2, q.p3]

/-- One item computed for each plane. -/
def Four.build {α : Type} (f : Fin 4 → α) : Four α := ⟨f 0, f 1, f 2, f 3⟩

/-- Whether plane `p` is in the set. -/
def PlaneSet.has (s : PlaneSet) (p : Fin 4) : Bool := s.getLsbD p.val

/-- The set of plane `p` alone. -/
def PlaneSet.single (p : Fin 4) : PlaneSet := 1#4 <<< p.val

/-- The set with plane `p` added. -/
def PlaneSet.add (s : PlaneSet) (p : Fin 4) : PlaneSet := s ||| PlaneSet.single p

/-- The set with plane `p` taken out. -/
def PlaneSet.remove (s : PlaneSet) (p : Fin 4) : PlaneSet := s &&& ~~~ PlaneSet.single p

/-! ## What the blocks look up in RH -/

/-- The settled nominal frame period P (R3). -/
def Settled.period (c : Settled) : Nat := c.lTot * c.tpl + c.x

/-- The settled configuration of a working head node: the blocks LU and its port work. -/
def Node.headCfg (n : Node) : Option Settled :=
  match n.rh.straps.role with
  | .head => n.rh.settled
  | .base => none

/-- The settled configuration of a working base node: RL, SE and OU work. -/
def Node.baseCfg (n : Node) : Option Settled :=
  match n.rh.straps.role with
  | .head => none
  | .base => n.rh.settled

/-! ## The segment store (R73 to R81) -/

/-- Buffer `b`. -/
def Ss.buf (ss : Ss) (b : Nat) : Buf := ss.bufs.getD b Buf.free

/-- The store with buffer `b` replaced. -/
def Ss.setBuf (ss : Ss) (b : Nat) (x : Buf) : Ss := { ss with bufs := ss.bufs.set b x }

/-- A buffer is FREE. -/
def Buf.isFree (x : Buf) : Bool := x.state == .free

/-- The free count: the number of FREE buffers (R73). -/
def Ss.freeCount (ss : Ss) : Nat := ss.bufs.countP Buf.isFree

/-- The number of the lowest-numbered FREE buffer of the list. -/
def firstFree : List Buf → Option Nat
  | [] => none
  | x :: xs => if x.isFree then some 0 else (firstFree xs).map (· + 1)

/-- Who asks for a grant (R75). -/
inductive Requester
  | lane (p : Fin 4) (frame : BitVec 8) (line : Nat)
  | lu
  deriving DecidableEq, Repr

/-- The owner a requester becomes. -/
def Requester.owner : Requester → Owner
  | .lane p _ _ => .lane p
  | .lu => .lu

/-- A key is the head line (the table of R76). -/
def EngineState.isHeadLine (s : EngineState) (frame : BitVec 8) (line : Nat) : Bool :=
  match s with
  | .idle => line == 0
  | .run f => frame == f.fCur && line == f.nNext
  | .flushing _ => false

/-- The head-line reserve refuses a request at this free count (R76). -/
def Requester.reserved (r : Requester) (s : EngineState) (freeCount : Nat) : Bool :=
  match r with
  | .lane _ frame line => freeCount ≤ 4 && !s.isHeadLine frame line
  | .lu => false

/-- A grant request (R75, R76, R80): the store with its counters, and the buffer granted, if any. -/
def Ss.grant (ss : Ss) (s : EngineState) (r : Requester) : Ss × Option Nat :=
  match firstFree ss.bufs with
  | none => ({ ss with refusedEmpty := Counter.bump ss.refusedEmpty }, none)
  | some b =>
    if r.reserved s ss.freeCount then
      ({ ss with refusedReserve := Counter.bump ss.refusedReserve }, none)
    else
      ({ ss with
          bufs := ss.bufs.set b ⟨.filling r.owner, []⟩
          grants := Counter.bump ss.grants
          lowWater := min ss.lowWater (ss.freeCount - 1) }, some b)

/-- A buffer given back FREE (R78). -/
def Ss.release (ss : Ss) (b : Nat) : Ss := ss.setBuf b Buf.free

/-- Bytes written into a buffer after those it holds (R85, R101). -/
def Ss.write (ss : Ss) (b : Nat) (bs : List Byte) : Ss :=
  ss.setBuf b ⟨(ss.buf b).state, (ss.buf b).bytes ++ bs⟩

/-- A buffer's new state, its bytes kept (R78). -/
def Ss.mark (ss : Ss) (b : Nat) (s : BufState) : Ss := ss.setBuf b ⟨s, (ss.buf b).bytes⟩

/-- The soft reset of the store (R81): all buffers FREE, the low-water mark 48, the counters 0. -/
def Ss.softReset : Ss := Ss.powerOn

/-! ## References (R74, R79) -/

/-- Whether an optional contribution names buffer `b`. -/
def namesContrib (b : Nat) : Option Contribution → Bool
  | some c => c.buf == b
  | none => false

/-- Whether an optional hold names buffer `b`. -/
def namesHold (b : Nat) : Option Hold → Bool
  | some h => h.buf == b
  | none => false

/-- Whether a plane of a released line names buffer `b`. -/
def namesOut (b : Nat) : PlaneOut → Bool
  | .present k _ => k == b
  | .repeated k _ => k == b
  | .filled => false
  | .absent => false

/-- How often a descriptor names buffer `b`. -/
def Descriptor.names (b : Nat) : Descriptor → Nat
  | .line d => d.planes.toList.countP (namesOut b)
  | .frameEnd _ => 0

/-- The assembly records, descriptors and hold slots that name buffer `b` (R73, R74). -/
def refCount (se : Se) (ou : Ou) (b : Nat) : Nat :=
  (se.table.map fun r => r.contribs.toList.countP (namesContrib b)).sum
    + (ou.queue.map (Descriptor.names b)).sum
    + se.holds.toList.countP (namesHold b)

/-- A REFERENCED buffer's count after an event: FREE at 0 (R74). -/
def Buf.recount (x : Buf) (k : Nat) : Buf :=
  match x.state with
  | .referenced _ => if k = 0 then Buf.free else ⟨.referenced k, x.bytes⟩
  | _ => x

/-- The buffers from number `b` on, recounted. -/
def recountFrom (se : Se) (ou : Ou) : Nat → List Buf → List Buf
  | _, [] => []
  | b, x :: xs => x.recount (refCount se ou b) :: recountFrom se ou (b + 1) xs

/-- The end of an event that took or dropped references: every REFERENCED buffer takes the count of its
holders, all changes of the event together (R74, R79). -/
def Node.settleRefs (n : Node) : Node :=
  { n with ss := { n.ss with bufs := recountFrom n.se n.ou 0 n.ss.bufs } }

/-! ## One step of the block -/

/-- The block takes no command while RST_N is asserted (R148, log entry 28); else the command acts. -/
def Node.awake (n : Node) (f : Node → Node) : Node := if n.rstLow then n else f n

/-- An operation under the settled configuration; nothing happens without one. -/
def Node.withCfg (n : Node) (f : Settled → Node → Node) : Node :=
  match n.rh.settled with
  | none => n
  | some c => f c n

/-- The next state: the block changed, the queue as it stands. -/
def State.next (s : State) (n : Node) : Host.Outcome State Fault Refusal := .next { s with node := n }

end Sys2Proof.Machine
end

