-- ==== Sys2Proof/Machine/Flags.lean ====
section
/-! DEFINITION. The notice sources, the notice line and the carrier-side error flags (R195, R196). -/

namespace Sys2Proof.Machine

/-- The notice sources of R195; SILENCED is bit 15 (R201). -/
inductive Source
  | sourceChanged
  | lockGained
  | lockLost
  | referenceLost
  | holdoverExpired
  | step
  | renumbered
  | delayMargin
  | laneChange
  | stitchResync
  | segmentLoss
  | serviceState
  | mailReceived
  | mailSent
  | silenced
  deriving DecidableEq, Repr

/-- The number of a source (R195), 15 for SILENCED. -/
def Source.num : Source → Nat
  | .sourceChanged => 1
  | .lockGained => 2
  | .lockLost => 3
  | .referenceLost => 4
  | .holdoverExpired => 5
  | .step => 6
  | .renumbered => 7
  | .delayMargin => 8
  | .laneChange => 9
  | .stitchResync => 10
  | .segmentLoss => 11
  | .serviceState => 12
  | .mailReceived => 13
  | .mailSent => 14
  | .silenced => 15

/-- The notice set with a source raised: pending, and it stays so (R195). -/
def raiseBit (set : BitVec 16) (k : Nat) : BitVec 16 := set ||| (1#16 <<< k)

/-- A block raises a source (R195). -/
def Node.raise (n : Node) (src : Source) : Node :=
  { n with rh := { n.rh with notices := raiseBit n.rh.notices src.num } }

/-- A block raises a source if the condition holds. -/
def Node.raiseIf (n : Node) (c : Bool) (src : Source) : Node := if c then n.raise src else n

/-- Source `k` is pending. -/
def Rh.isPending (rh : Rh) (k : Nat) : Bool := rh.notices.getLsbD k

/-- The level of source `k`, 1..14. -/
def Rh.level (rh : Rh) (k : Nat) : Nat := rh.levels.getD (k - 1) 0

/-- The sources 1 to 14. -/
def sourceNumbers : List Nat := [1, 2, 3, 4, 5, 6, 7, 8, 9, 10, 11, 12, 13, 14]

/-- NOTE_N is driven low: a pending source has a level above the threshold, or SILENCED is pending (R195). -/
def Rh.noteLow (rh : Rh) : Bool :=
  rh.isPending 15 || sourceNumbers.any fun k => rh.isPending k && rh.runtime.threshold < rh.level k

/-- Of two sources, the one of higher level, the lower-numbered of equals (R196). -/
def Rh.higher (rh : Rh) (best : Option Nat) (k : Nat) : Option Nat :=
  match best with
  | none => some k
  | some b => if rh.level b < rh.level k then some k else some b

/-- The pending source of highest level among 1 to 14 (R196). -/
def Rh.topSource (rh : Rh) : Option Nat :=
  (sourceNumbers.filter rh.isPending).foldl rh.higher none

end Sys2Proof.Machine
end

