-- ==== Sys2Proof/Machine/Operands.lean ====
section
/-! DEFINITION. The byte formats of the commands' operands and of what the block answers (R198 to R203). -/

namespace Sys2Proof.Machine

/-! ## Numbers and bytes (R198: most significant byte first) -/

/-- The number a list of bytes spells, most significant byte first. -/
def beNat (bs : List Byte) : Nat := bs.foldl (fun a b => a * 256 + b.toNat) 0

/-- The number in `len` bytes from offset `off`. -/
def field (bs : List Byte) (off len : Nat) : Nat := beNat ((bs.drop off).take len)

/-- A number as one byte. -/
def u8 (k : Nat) : List Byte := [BitVec.ofNat 8 k]

/-- A number as two bytes. -/
def u16 (k : Nat) : List Byte := [BitVec.ofNat 8 (k / 256), BitVec.ofNat 8 k]

/-- A number as four bytes. -/
def u32 (k : Nat) : List Byte :=
  [BitVec.ofNat 8 (k / 16777216), BitVec.ofNat 8 (k / 65536), BitVec.ofNat 8 (k / 256), BitVec.ofNat 8 k]

/-- A signed number in one byte, two's complement. -/
def s8 (k : Int) : List Byte := [BitVec.ofInt 8 k]

/-- A signed number in two bytes, two's complement. -/
def s16 (k : Int) : List Byte := u16 (BitVec.ofInt 16 k).toNat

/-- A flag or yes/no item. -/
def flagByte (b : Bool) : List Byte := if b then [1] else [0]

/-- A value that may be absent: a presence byte, then its fields (R202). -/
def optBytes {α : Type} (f : α → List Byte) : Option α → List Byte
  | none => [0]
  | some a => 1 :: f a

/-- A list whose length varies: a count byte, then its entries (R202). -/
def listBytes {α : Type} (f : α → List Byte) (l : List α) : List Byte := u8 l.length ++ l.flatMap f

/-- A signed 32-bit number read from its two's complement. -/
def signed32 (k : Nat) : Int := (BitVec.ofNat 32 k).toInt

/-! ## Timecode (R27, R198) -/

/-- The high four bits of a byte: its tens digit. -/
def tens (b : Byte) : Nat := b.toNat / 16

/-- The low four bits of a byte: its units digit. -/
def units (b : Byte) : Nat := b.toNat % 16

/-- The number two binary-coded-decimal digits stand for. -/
def bcdVal (b : Byte) : Nat := 10 * tens b + units b

/-- A number below 100 as two binary-coded-decimal digits. -/
def toBcd (k : Nat) : Byte := BitVec.ofNat 8 (16 * (k / 10) + k % 10)

/-- Both digits are 0..9. -/
def isBcd (b : Byte) : Bool := tens b ≤ 9 && units b ≤ 9

/-- A timecode value is legal for frame count R and divider D (R27). -/
def Timecode.legal (t : Timecode) (r d : Nat) : Bool :=
  isBcd t.hours && isBcd t.minutes && isBcd t.seconds && isBcd t.frames
    && tens t.minutes ≤ 5 && tens t.seconds ≤ 5 && bcdVal t.hours ≤ 23 && bcdVal t.frames < r
    && (d != 1 || !t.pair)

/-- The timecode of four bytes; the pair flag is bit 7 of the hours byte. -/
def Timecode.ofBytes (bs : List Byte) : Timecode :=
  let h := bs.getD 0 0
  { hours := h &&& 0x7F, minutes := bs.getD 1 0, seconds := bs.getD 2 0, frames := bs.getD 3 0
    pair := h.getLsbD 7 }

/-- The four bytes of a timecode. -/
def Timecode.bytes (t : Timecode) : List Byte :=
  [if t.pair then t.hours ||| 0x80 else t.hours, t.minutes, t.seconds, t.frames]

/-! ## Keys of service messages (R170, R201) -/

/-- The key of a kind with its 8 kind-specific bits. -/
def makeKey (kind bits : Nat) : Key := BitVec.ofNat 12 (kind * 256 + bits % 256)

/-- The first node of a key's kind-specific bits: target, or requester of a reply. -/
def Key.first (key : Key) : BitVec 4 := (key >>> 4).setWidth 4

/-- The second node of a key's kind-specific bits: requester of a probe, replier, or sender. -/
def Key.second (key : Key) : BitVec 4 := key.setWidth 4

/-- The key of a message between two nodes. -/
def nodesKey (kind : Nat) (first second : BitVec 4) : Key := makeKey kind (first.toNat * 16 + second.toNat)

/-- The key of an ANNOUNCE: class, node, two bits sent as 0. -/
def announceKey (cls : Nat) (node : BitVec 4) : Key := makeKey 1 (cls * 64 + node.toNat * 4)

/-- The class of an ANNOUNCE's key. -/
def announceClass (key : Key) : Nat := key.toNat / 64 % 4

/-- The node of an ANNOUNCE's key; the two spare bits are not tested (R170). -/
def announceNode (key : Key) : BitVec 4 := (key >>> 2).setWidth 4

/-- The payload of an ANNOUNCE (R201). -/
structure AnnounceBody where
  t3 : Word32
  s : Word32
  nSrc : Word16
  timecode : Timecode
  deriving DecidableEq, Repr

/-- Reading an ANNOUNCE's 14 payload bytes. -/
def AnnounceBody.ofBytes (bs : List Byte) : AnnounceBody :=
  { t3 := BitVec.ofNat 32 (field bs 0 4), s := BitVec.ofNat 32 (field bs 4 4)
    nSrc := BitVec.ofNat 16 (field bs 8 2), timecode := Timecode.ofBytes (bs.drop 10) }

/-- Writing an ANNOUNCE's 14 payload bytes. -/
def AnnounceBody.bytes (a : AnnounceBody) : List Byte :=
  u32 a.t3.toNat ++ u32 a.s.toNat ++ u16 a.nSrc.toNat ++ a.timecode.bytes

/-! ## The segment header (R199) -/

/-- Reading the 16 header bytes. -/
def SegHeader.ofBytes (bs : List Byte) : SegHeader :=
  let b0 := bs.getD 0 0
  { plane := b0.setWidth 2, frame := bs.getD 1 0, line := field bs 2 2, length := field bs 4 2
    timecode := if b0.getLsbD 7 then some (Timecode.ofBytes (bs.drop 6)) else none }

/-- Writing the 16 header bytes. -/
def SegHeader.bytes (h : SegHeader) : List Byte :=
  let tc := match h.timecode with
    | some t => t.bytes
    | none => [0, 0, 0, 0]
  let b0 : Byte := (if h.timecode.isSome then 0x80 else 0) ||| h.plane.setWidth 8
  [b0, h.frame] ++ u16 h.line ++ u16 h.length ++ tc ++ [0, 0, 0, 0, 0, 0]

/-! ## Strobe schedules (R64, R203) -/

/-- A schedule entry's six bytes as numbers. -/
structure RawStrobe where
  line : Nat
  tick : Nat
  setMask : Nat
  clearMask : Nat
  deriving DecidableEq, Repr

/-- Reading one entry. -/
def RawStrobe.ofBytes (bs : List Byte) : RawStrobe := ⟨field bs 0 2, field bs 2 2, field bs 4 1, field bs 5 1⟩

/-- Reading `k` entries. -/
def readStrobes : Nat → List Byte → List RawStrobe
  | 0, _ => []
  | k + 1, bs => RawStrobe.ofBytes bs :: readStrobes k (bs.drop 6)

/-- An entry is legal: selector EVERY or a line below L_tot, no pin beyond STB5 (R64, R203). -/
def RawStrobe.legal (lTot : Nat) (s : RawStrobe) : Bool :=
  (s.line == 0xFFFF || s.line < lTot) && s.setMask < 64 && s.clearMask < 64

/-- A schedule is legal (R64). -/
def scheduleLegal (lTot : Nat) (l : List RawStrobe) : Bool := l.length ≤ 12 && l.all (RawStrobe.legal lTot)

/-- The entry that the numbers stand for. -/
def RawStrobe.entry (s : RawStrobe) : StrobeEntry :=
  { line := if s.line = 0xFFFF then none else some s.line, tick := s.tick
    setMask := BitVec.ofNat 6 s.setMask, clearMask := BitVec.ofNat 6 s.clearMask }

/-- Writing one entry. -/
def StrobeEntry.bytes (s : StrobeEntry) : List Byte :=
  (match s.line with
    | none => u16 0xFFFF
    | some l => u16 l) ++ u16 s.tick ++ u8 s.setMask.toNat ++ u8 s.clearMask.toNat

/-! ## The SETTLE block (R203) -/

/-- A slot definition's five bytes as numbers. -/
structure RawSlot where
  type : Nat
  key : Nat
  mask : Nat
  deriving DecidableEq, Repr

/-- Reading `k` slot definitions. -/
def readSlots : Nat → List Byte → List RawSlot
  | 0, _ => []
  | k + 1, bs => ⟨field bs 0 1, field bs 1 2, field bs 3 2⟩ :: readSlots k (bs.drop 5)

/-- A slot definition is legal (R178, R203). -/
def RawSlot.legal (s : RawSlot) : Bool :=
  s.type ≤ 2 && s.key < 4096 && s.mask < 4096 && (s.type != 2 || 6 ≤ s.key / 256)

/-- The definition that the numbers stand for. -/
def RawSlot.defn (s : RawSlot) : SlotDef :=
  match s.type with
  | 1 => .receive (BitVec.ofNat 12 s.key) (BitVec.ofNat 12 s.mask)
  | 2 => .transmit (BitVec.ofNat 12 s.key)
  | _ => .unused

/-- The five bytes of a definition as the SETTLE block lays it out, 0 for what the definition lacks (the model's choice,
log entry 50). -/
def SlotDef.bytes : SlotDef → List Byte
  | .unused => u8 0 ++ u16 0 ++ u16 0
  | .receive key mask => u8 1 ++ u16 key.toNat ++ u16 mask.toNat
  | .transmit key => u8 2 ++ u16 key.toNat ++ u16 0

/-- The 180 bytes as numbers. -/
structure SettleBlock where
  lTot : Nat
  aLines : Nat
  tpl : Nat
  x : Nat
  r : Nat
  d : Nat
  m : Nat
  stepLimit : Nat
  lockWindow : Nat
  h : Nat
  rOff : Int
  lead : Nat
  mask : Nat
  w : Nat
  mode : Nat
  pre : Nat
  prop : Nat
  pa : Nat
  pb : Nat
  sjw : Nat
  order : Nat
  slots : List RawSlot
  levels : List Nat
  threshold : Nat
  count : Nat
  schedule : List RawStrobe
  deriving DecidableEq, Repr

/-- Reading the block at the offsets of R203. Entries beyond the count are not read. -/
def SettleBlock.ofBytes (bs : List Byte) : SettleBlock :=
  let count := field bs 107 1
  { lTot := field bs 0 2, aLines := field bs 2 2, tpl := field bs 4 2, x := field bs 6 2
    r := field bs 8 1, d := field bs 9 1
    m := field bs 10 1, stepLimit := field bs 11 2, lockWindow := field bs 13 1, h := field bs 14 2
    rOff := signed32 (field bs 16 4), lead := field bs 20 2
    mask := field bs 22 1, w := field bs 23 2, mode := field bs 25 1
    pre := field bs 26 1, prop := field bs 27 1, pa := field bs 28 1, pb := field bs 29 1
    sjw := field bs 30 1, order := field bs 31 1
    slots := readSlots 12 (bs.drop 32)
    levels := ((bs.drop 92).take 14).map (·.toNat)
    threshold := field bs 106 1
    count := count
    schedule := readStrobes (min count 12) (bs.drop 108) }

/-- P of the block. -/
def SettleBlock.period (b : SettleBlock) : Nat := b.lTot * b.tpl + b.x

/-- The checks of R188, row by row of its table (R3, R27, R150, R178, R64 for the items they give). -/
def SettleBlock.rows (b : SettleBlock) : List Bool :=
  [ 16 ≤ b.lTot && b.lTot ≤ 4095 && 1 ≤ b.aLines && b.aLines ≤ b.lTot && 128 ≤ b.tpl && b.x < b.lTot
      && b.period ≤ 268435456,
    (b.r == 24 || b.r == 25 || b.r == 30) && (b.d == 1 || b.d == 2),
    b.m == 4 || b.m == 8 || b.m == 16 || b.m == 32 || b.m == 64,
    1 ≤ b.stepLimit && b.stepLimit ≤ 4095,
    1 ≤ b.lockWindow,
    true,
    -(b.period : Int) ≤ 2 * b.rOff && 2 * b.rOff ≤ b.period,
    b.lead < b.period,
    true,
    1 ≤ b.w,
    b.mode ≤ 1,
    b.pre ≤ 63 && 1 ≤ b.prop && b.prop ≤ 64 && 1 ≤ b.pa && b.pa ≤ 16 && 1 ≤ b.pb && b.pb ≤ 16
      && 1 ≤ b.sjw && b.sjw ≤ 4 && b.sjw ≤ b.pa && b.sjw ≤ b.pb,
    b.order ≤ 1,
    b.slots.all RawSlot.legal,
    b.levels.all (· ≤ 7),
    b.threshold ≤ 7,
    b.count ≤ 12 && scheduleLegal b.lTot b.schedule ]

/-- The number, from 1, of the first row that fails. -/
def firstFailing : Nat → List Bool → Option Nat
  | _, [] => none
  | k, ok :: rest => if ok then firstFailing (k + 1) rest else some k

/-- The first failing item's row number in R188's table (R201), or none. -/
def SettleBlock.failing (b : SettleBlock) : Option Nat := firstFailing 1 b.rows

/-- A concealment mode from its code (R203). -/
def concealMode (k : Nat) : ConcealMode := if k = 0 then .repeatLast else .fill

/-- The configuration that a legal block gives. -/
def SettleBlock.settled (b : SettleBlock) : Settled :=
  { lTot := b.lTot, aLines := b.aLines, tpl := b.tpl, x := b.x, r := b.r, d := b.d, m := b.m
    stepLimit := b.stepLimit, lockWindow := b.lockWindow, h := b.h, rOff := b.rOff, lead := b.lead
    mask := BitVec.ofNat 4 b.mask, w := b.w, mode := concealMode b.mode
    pre := b.pre, prop := b.prop, pa := b.pa, pb := b.pb, sjw := b.sjw
    order := if b.order = 0 then .key else .index
    slots := b.slots.map RawSlot.defn, levels := b.levels, threshold := b.threshold
    schedule := b.schedule.map RawStrobe.entry }

/-! ## ADJUST items (R191, R203) -/

/-- An item of an ADJUST body, its value not yet checked. -/
inductive AdjustItem
  | mask (v : Nat)
  | w (v : Nat)
  | mode (v : Nat)
  | threshold (v : Nat)
  | lead (v : Nat)
  | listenOnly (v : Nat)
  | preset (t : Timecode)
  | schedule (count : Nat) (l : List RawStrobe)
  deriving DecidableEq, Repr

/-- The item code (R203). -/
def AdjustItem.code : AdjustItem → Nat
  | .mask _ => 1
  | .w _ => 2
  | .mode _ => 3
  | .threshold _ => 4
  | .lead _ => 5
  | .listenOnly _ => 6
  | .preset _ => 7
  | .schedule _ _ => 8

/-- How many bytes the value of an item with this code has, the value beginning with these bytes; none for
a code that names no item. -/
def itemLength (code : Nat) (value : List Byte) : Option Nat :=
  match code with
  | 1 => some 1
  | 2 => some 2
  | 3 => some 1
  | 4 => some 1
  | 5 => some 2
  | 6 => some 1
  | 7 => some 4
  | 8 => some (1 + 6 * field value 0 1)
  | _ => none

/-- The item with this code and value. -/
def itemOf (code : Nat) (value : List Byte) : AdjustItem :=
  match code with
  | 1 => .mask (field value 0 1)
  | 2 => .w (field value 0 2)
  | 3 => .mode (field value 0 1)
  | 4 => .threshold (field value 0 1)
  | 5 => .lead (field value 0 2)
  | 6 => .listenOnly (field value 0 1)
  | 7 => .preset (Timecode.ofBytes value)
  | _ => .schedule (field value 0 1) (readStrobes (field value 0 1) (value.drop 1))

/-- Reading an ADJUST body item by item: a body that ends within an item's value is BAD_LENGTH, a code that
names no item REFUSED_RANGE (log entry 21). `fuel` bounds the number of items. -/
def readItems : Nat → List Byte → Except ResultCode (List AdjustItem)
  | 0, _ => .ok []
  | _ + 1, [] => .ok []
  | fuel + 1, c :: rest =>
    match itemLength c.toNat rest with
    | none => .error .refusedRange
    | some k =>
      if rest.length < k then .error .badLength
      else
        match readItems fuel (rest.drop k) with
        | .error r => .error r
        | .ok l => .ok (itemOf c.toNat (rest.take k) :: l)

/-- Item `i` refuses no ADJUST under configuration `c` (the table of R191). -/
def AdjustItem.legal (c : Settled) : AdjustItem → Bool
  | .mask _ => true
  | .w _ => true
  | .mode v => v ≤ 1
  | .threshold _ => true
  | .lead _ => true
  | .listenOnly v => v ≤ 1
  | .preset t => t.legal c.r c.d
  | .schedule _ l => scheduleLegal c.lTot l

/-- The item is clamped when it is accepted (R191). -/
def AdjustItem.clamped (c : Settled) : AdjustItem → Bool
  | .w v => v == 0
  | .threshold v => 7 < v
  | .lead v => c.period ≤ v
  | _ => false

/-- No item code stands twice (R191). -/
def distinctItems : List AdjustItem → Bool
  | [] => true
  | i :: rest => !(rest.any fun k => k.code == i.code) && distinctItems rest

/-! ## Requests and responses (R190, R201) -/

/-- The byte of a result code. -/
def ResultCode.byte : ResultCode → Byte
  | .done => 0
  | .refusedState => 1
  | .refusedRange => 2
  | .busy => 3
  | .empty => 4
  | .unknownKind => 5
  | .badLength => 6

/-- A response as it is read back: result code, body length, body. -/
def Response.bytes (r : Response) : List Byte := r.code.byte :: (u16 r.body.length ++ r.body)

/-- An answer with no body. -/
def Response.plain (c : ResultCode) : Response := ⟨c, []⟩

/-- The body length is one its kind allows (R190, R201). ADJUST and SEND are judged with their contents. -/
def lengthAllowed (kind len : Nat) : Bool :=
  match kind with
  | 1 => len == 180
  | 2 => true
  | 3 => true
  | 4 => len == 1
  | 5 => len == 2
  | 6 => len == 2
  | 7 => len == 0
  | _ => false

/-- The kind byte names a request (R201). -/
def kindKnown (kind : Nat) : Bool := 1 ≤ kind && kind ≤ 7

/-- What a write transaction of these bytes is answered if it is no whole request (R190): `none` if it ends
before its kind and length bytes, BAD_LENGTH if it ends before its body is complete, UNKNOWN_KIND for a kind
that names no request, BAD_LENGTH for a body length its kind does not allow. The last case is a whole
request. Bytes after the body are ignored. -/
inductive WriteFate
  | short
  | bad (c : ResultCode)
  | whole
  deriving DecidableEq, Repr

/-- The fate of a write transaction. -/
def writeFate (bytes : List Byte) : WriteFate :=
  if bytes.length < 3 then .short
  else
    let kind := field bytes 0 1
    let len := field bytes 1 2
    if bytes.length - 3 < len then .bad .badLength
    else if !kindKnown kind then .bad .unknownKind
    else if !lengthAllowed kind len then .bad .badLength
    else .whole

end Sys2Proof.Machine
end

