-- ==== Sys2Proof/Machine/Stitch.lean ====
section
/-! DEFINITION. The stitch engine SE (R8, R9, R12 to R14, R111 to R138), its descriptors, and RECORD_DEADLINE. -/

namespace Sys2Proof.Machine

/-! ## Keys (R8) -/

/-- The distance of a frame from F_cur (R8). -/
def frameDistance (fCur frame : BitVec 8) : Nat := (frame - fCur).toNat

/-- A key as one number: distance first, then line (R8). A line has 16 bits (R199). -/
def keyRank (fCur frame : BitVec 8) (line : Nat) : Nat := frameDistance fCur frame * 65536 + line

/-- A record's key under F_cur. -/
def Record.rank (fCur : BitVec 8) (r : Record) : Nat := keyRank fCur r.frame r.line

/-- The record has this key. -/
def Record.isAt (frame : BitVec 8) (line : Nat) (r : Record) : Bool := r.frame == frame && r.line == line

/-- Of two records the one with the lower key. -/
def lowerRecord (fCur : BitVec 8) (best : Option Record) (r : Record) : Option Record :=
  match best with
  | none => some r
  | some b => if r.rank fCur < b.rank fCur then some r else some b

/-- The head record: the one with the lowest key (R115). -/
def headRecord (fCur : BitVec 8) (l : List Record) : Option Record := l.foldl (lowerRecord fCur) none

/-- The record with this key. -/
def findRecord (frame : BitVec 8) (line : Nat) (l : List Record) : Option Record :=
  l.find? (Record.isAt frame line)

/-! ## Contributions and completeness (R117) -/

/-- The planes that contribute to a record. -/
def contribPlanes (q : Four (Option Contribution)) : PlaneSet :=
  (if q.p0.isSome then 1#4 else 0) ||| (if q.p1.isSome then 2#4 else 0)
    ||| (if q.p2.isSome then 4#4 else 0) ||| (if q.p3.isSome then 8#4 else 0)

/-- How many contributions a record holds. -/
def contribCount (q : Four (Option Contribution)) : Nat := q.toList.countP Option.isSome

/-- A record holds a contribution for every plane of J (R117). -/
def Record.covers (j : PlaneSet) (r : Record) : Bool := j &&& ~~~ contribPlanes r.contribs == 0

/-- A record's state re-evaluated against J at E (the table of R117). -/
def Record.evaluate (j : PlaneSet) (e : Word32) (r : Record) : Record :=
  match r.state with
  | .opened => if r.covers j then { r with state := .complete } else r
  | .complete =>
    if r.covers j then r else { r with state := if passed e r.deadline then .expired else .opened }
  | .expired => r

/-- A record that may be released: COMPLETE or EXPIRED (R126). -/
def Record.releasable (r : Record) : Bool :=
  match r.state with
  | .opened => false
  | .complete => true
  | .expired => true

/-! ## Planes on a released line (R12) -/

/-- A plane without a contribution (R12). -/
def concealed (mode : ConcealMode) (mask : PlaneSet) (holds : Four (Option Hold)) (p : Fin 4) : PlaneOut :=
  if PlaneSet.has mask p then
    match mode, holds.get p with
    | .repeatLast, some h => .repeated h.buf h.length
    | .repeatLast, none => .filled
    | .fill, _ => .filled
  else .absent

/-- A plane on a line with these contributions (R12). -/
def planeOut (mode : ConcealMode) (mask : PlaneSet) (holds : Four (Option Hold))
    (q : Four (Option Contribution)) (p : Fin 4) : PlaneOut :=
  match q.get p with
  | some k => .present k.buf k.length
  | none => concealed mode mask holds p

/-- A hold slot after a line with this contribution (R129). -/
def holdAfter (frame : BitVec 8) (line : Nat) (k : Option Contribution) (h : Option Hold) : Option Hold :=
  match k with
  | some c => some ⟨c.buf, c.length, frame, line⟩
  | none => h

/-- The skew of a record, saturated (R9). -/
def Record.skew (r : Record) : Nat := min 65535 (sdiff r.last r.first).toNat

/-! ## Tallies (R130) -/

/-- A plane is PRESENT. -/
def PlaneOut.isPresent : PlaneOut → Bool
  | .present _ _ => true
  | .repeated _ _ => false
  | .filled => false
  | .absent => false

/-- The planes PRESENT on a line. -/
def presentSet (q : Four PlaneOut) : PlaneSet :=
  (if q.p0.isPresent then 1#4 else 0) ||| (if q.p1.isPresent then 2#4 else 0)
    ||| (if q.p2.isPresent then 4#4 else 0) ||| (if q.p3.isPresent then 8#4 else 0)

/-- A line on which every plane of the frame mask is PRESENT (R130). -/
def isCompleteLine (mask : PlaneSet) (d : LineDesc) : Bool := mask &&& ~~~ presentSet d.planes == 0

/-- A line with no PRESENT plane, no complete line (R130). -/
def isGapLine (mask : PlaneSet) (d : LineDesc) : Bool := !isCompleteLine mask d && presentSet d.planes == 0

/-- The tallies with a released line taken (R130). -/
def Tallies.take (mask : PlaneSet) (d : LineDesc) (t : Tallies) : Tallies :=
  { t with
    lines := t.lines + 1
    complete := if isCompleteLine mask d then t.complete + 1 else t.complete
    gap := if isGapLine mask d then t.gap + 1 else t.gap
    concealed := if isCompleteLine mask d || isGapLine mask d then t.concealed else t.concealed + 1
    forced := if d.cause = .forced then t.forced + 1 else t.forced
    worstSkew := max t.worstSkew d.skew
    contributing := t.contributing ||| presentSet d.planes }

/-! ## The output queue (R140) -/

/-- The free places of the output queue (R140). -/
def Ou.freePlaces (ou : Ou) : Nat := 4 - ou.queue.length

/-- A descriptor placed at the tail; the last free place taken counts QUEUE_FULL (R140). -/
def Ou.enqueue (d : Descriptor) (ou : Ou) : Ou :=
  { ou with
    queue := ou.queue ++ [d]
    queueFull := if ou.queue.length + 1 = 4 then Counter.bump ou.queueFull else ou.queueFull }

/-! ## Releases (R127, R128, R133, R136) -/

/-- The context after a release of the line N_next. -/
def FrameCtx.took (d : LineDesc) (f : FrameCtx) : FrameCtx :=
  { f with nNext := f.nNext + 1, tallies := f.tallies.take f.mask d }

/-- The LINE descriptor of N_next with these contributions (R12, R127). -/
def Node.lineDesc (f : FrameCtx) (q : Four (Option Contribution)) (timecode : Option Timecode) (skew : Nat)
    (cause : Cause) (n : Node) : LineDesc :=
  { frame := f.fCur, line := f.nNext
    planes := Four.build (planeOut n.rh.runtime.mode f.mask n.se.holds q)
    timecode := if f.nNext = 0 then timecode else none, skew := skew, cause := cause }

/-- A line goes out (R127 to R130): queued, hold slots updated, FORCED_LINES counted (R134). The engine state
is the caller's to set. -/
def Node.putLine (q : Four (Option Contribution)) (d : LineDesc) (n : Node) : Node :=
  { n with
    ou := n.ou.enqueue (.line d)
    se := { n.se with
      holds := Four.build fun p => holdAfter d.frame d.line (q.get p) (n.se.holds.get p)
      forcedLines := if d.cause = .forced then Counter.bump n.se.forcedLines else n.se.forcedLines } }

/-- The engine's state replaced. -/
def Node.setEngine (e : EngineState) (n : Node) : Node := { n with se := { n.se with state := e } }

/-- No contribution. -/
def noContribs : Four (Option Contribution) := Four.const none

/-- A line of RUN goes out. -/
def Node.releaseLine (f : FrameCtx) (q : Four (Option Contribution)) (timecode : Option Timecode) (skew : Nat)
    (cause : Cause) (n : Node) : Node :=
  let d := n.lineDesc f q timecode skew cause
  (n.putLine q d).setEngine (.run (f.took d))

/-- The head record is released (R127). -/
def Node.releaseRecord (f : FrameCtx) (r : Record) (cause : Cause) (n : Node) : Node :=
  Node.releaseLine f r.contribs r.timecode r.skew cause
    { n with se := { n.se with table := n.se.table.erase r } }

/-- Line N_next goes out as a gap line (R128). -/
def Node.releaseGap (f : FrameCtx) (n : Node) : Node := n.releaseLine f noContribs none 0 .gap

/-- The cause of a release by R126. -/
def Record.cause (r : Record) : Cause :=
  match r.state with
  | .opened => .forced
  | .complete => .complete
  | .expired => .expired

/-! ## IDLE and FLUSHING (R135, R136) -/

/-- The engine enters IDLE (R136). -/
def Se.enterIdle (se : Se) : Se :=
  { se with state := .idle, table := [], holds := Four.const none, strayRun := 0 }

/-- All contributions of the table are discarded, with their count and notice (R135, R131). -/
def Node.discardTable (n : Node) : Node :=
  let k := (n.se.table.map fun r => contribCount r.contribs).sum
  Node.raiseIf
    { n with se := { n.se with table := [], contribDiscarded := Counter.bumps k n.se.contribDiscarded } }
    (k != 0) .segmentLoss

/-- The engine enters FLUSHING, with its cause counted by the caller (R135). -/
def Node.enterFlushing (f : FrameCtx) (n : Node) : Node :=
  let n := n.discardTable
  Node.raise { n with se := { n.se with state := .flushing f, strayRun := 0 } } .stitchResync

/-- A FRAME_END of F_cur is queued; its tallies become the last ones (R130). -/
def Node.putFrameEnd (f : FrameCtx) (cause : EndCause) (n : Node) : Node :=
  { n with
    ou := n.ou.enqueue (.frameEnd ⟨f.fCur, cause, f.tallies⟩)
    se := { n.se with lastTallies := f.tallies } }

/-- A flush step (R136). -/
def Node.flushStep (c : Settled) (f : FrameCtx) (n : Node) : Node :=
  if f.nNext < c.aLines then
    let d := n.lineDesc f noContribs none 0 .flush
    (n.putLine noContribs d).setEngine (.flushing (f.took d))
  else
    let n := n.putFrameEnd f .flush
    { n with se := { n.se.enterIdle with framesFlushed := Counter.bump n.se.framesFlushed } }

/-! ## The frame advance (R114, R131) -/

/-- The contributions of a record within a mask. -/
def keepPlanes (mask : PlaneSet) (q : Four (Option Contribution)) : Four (Option Contribution) :=
  Four.build fun p => if PlaneSet.has mask p then q.get p else none

/-- A record with the contributions outside the mask withdrawn (R114). -/
def Record.withdraw (mask : PlaneSet) (r : Record) : Record := { r with contribs := keepPlanes mask r.contribs }

/-- Contributions outside the new frame mask are withdrawn (R114). -/
def Node.withdraw (mask : PlaneSet) (n : Node) : Node :=
  let before := (n.se.table.map fun r => contribCount r.contribs).sum
  let table := n.se.table.map (Record.withdraw mask)
  let k := before - (table.map fun r => contribCount r.contribs).sum
  Node.raiseIf
    { n with se := { n.se with
        table := table.filter fun r => contribCount r.contribs != 0
        contribWithdrawn := Counter.bumps k n.se.contribWithdrawn } }
    (k != 0) .segmentLoss

/-- Every record re-evaluated against J (R117). -/
def Node.reevaluate (j : PlaneSet) (n : Node) : Node :=
  { n with se := { n.se with table := n.se.table.map (Record.evaluate j n.tb.e) } }

/-- The context a frame begins with (R122, R131). -/
def FrameCtx.begin (frame : BitVec 8) (mask locked : PlaneSet) : FrameCtx :=
  { fCur := frame, nNext := 0, mask := mask, j := mask &&& locked
    tallies := { Tallies.zero with joined := mask &&& locked } }

/-- The end of F_cur (R131): its FRAME_END, then the next frame, or IDLE if no plane would join it. -/
def Node.advanceFrame (f : FrameCtx) (n : Node) : Node :=
  let n := n.putFrameEnd f .normal
  let n := { n with se := { n.se with framesEnded := Counter.bump n.se.framesEnded } }
  let mask := n.rh.runtime.mask
  let g := FrameCtx.begin (f.fCur + 1) mask n.se.lockedSet
  let n := (n.withdraw mask).reevaluate g.j
  if g.j = 0 then
    let n := n.discardTable
    Node.raise
      { n with se := { n.se.enterIdle with resyncEmpty := Counter.bump n.se.resyncEmpty } } .stitchResync
  else
    { n with se := { n.se with state := .run g, framesStarted := Counter.bump n.se.framesStarted } }

/-! ## Release steps (R126, R136) -/

/-- The next release step of RUN, if there is one (the table of R126). -/
def Node.releaseStep (c : Settled) (f : FrameCtx) (n : Node) : Option Node :=
  if c.aLines ≤ f.nNext then some (n.advanceFrame f)
  else
    match headRecord f.fCur n.se.table with
    | none => none
    | some r =>
      if r.releasable then
        if r.isAt f.fCur f.nNext then some (n.releaseRecord f r r.cause) else some (n.releaseGap f)
      else none

/-- The next step the engine may take, one output place being free (R126, R136). -/
def Node.engineStep (c : Settled) (n : Node) : Option Node :=
  if n.ou.freePlaces = 0 then none
  else
    match n.se.state with
    | .idle => none
    | .run f => n.releaseStep c f
    | .flushing f => some (n.flushStep c f)

/-- Steps one after another while one is possible; each takes a place, so four are enough. -/
def Node.engineSteps (c : Settled) : Nat → Node → Node
  | 0, n => n
  | k + 1, n =>
    match n.engineStep c with
    | none => n
    | some n' => Node.engineSteps c k n'

/-- The engine takes every step that is possible (R126, R136). -/
def Node.runEngine (c : Settled) (n : Node) : Node := n.engineSteps c 4

/-! ## Classification (R113, R119, R121, R122, R123) -/

/-- The engine's answers (R119). -/
inductive Answer
  | accept
  | unexpectedPlane
  | stray
  | late
  | duplicate
  | tableFull
  | flushing
  deriving DecidableEq, Repr

/-- A plane has a contribution in the record with this key. -/
def holdsPlane (frame : BitVec 8) (line : Nat) (p : Fin 4) (l : List Record) : Bool :=
  match findRecord frame line l with
  | none => false
  | some r => (r.contribs.get p).isSome

/-- The governing mask in RUN (R113). -/
def governingMask (applied : PlaneSet) (f : FrameCtx) (frame : BitVec 8) : PlaneSet :=
  if frame = f.fCur then f.mask else applied

/-- The first four tests of R119, in RUN. -/
def Node.judgeRun (f : FrameCtx) (p : Fin 4) (frame : BitVec 8) (line : Nat) (n : Node) : Answer :=
  if !PlaneSet.has (governingMask n.rh.runtime.mask f frame) p then .unexpectedPlane
  else if 1 < frameDistance f.fCur frame then .stray
  else if frame = f.fCur && line < f.nNext then .late
  else if holdsPlane frame line p n.se.table then .duplicate
  else .accept

/-- The answer at a header or to a presentation: no test for a full table (R121, R124). -/
def Node.judge (p : Fin 4) (frame : BitVec 8) (line : Nat) (n : Node) : Answer :=
  match n.se.state with
  | .idle =>
    if !PlaneSet.has n.rh.runtime.mask p then .unexpectedPlane
    else if line = 0 then .accept
    else .stray
  | .run f => n.judgeRun f p frame line
  | .flushing _ => .flushing

/-! ## Strays (R125) -/

/-- A STRAY answer in RUN raises the stray run; at 8 the engine flushes (R125). -/
def Node.raiseStray (c : Settled) (n : Node) : Node :=
  match n.se.state with
  | .run f =>
    if n.se.strayRun + 1 < 8 then { n with se := { n.se with strayRun := n.se.strayRun + 1 } }
    else
      Node.runEngine c
        (Node.enterFlushing f { n with se := { n.se with resyncStray := Counter.bump n.se.resyncStray } })
  | _ => n

/-- A presentation without payload (R124). -/
def Node.present (c : Settled) (p : Fin 4) (frame : BitVec 8) (line : Nat) (n : Node) : Node × Answer :=
  (if n.judge p frame line = .stray then n.raiseStray c else n, n.judge p frame line)

/-! ## Deliveries (R119, R120, R122, R132, R133) -/

/-- A delivered segment: its key, length, timecode, buffer and arrival E. -/
structure Delivery where
  plane : Fin 4
  frame : BitVec 8
  line : Nat
  length : Nat
  timecode : Option Timecode
  buf : Nat
  arrival : Word32
  deriving DecidableEq, Repr

/-- The delivery as a contribution, its plane's alone. -/
def Delivery.contribs (d : Delivery) : Four (Option Contribution) :=
  (Four.const none).set d.plane (some ⟨d.buf, d.length⟩)

/-- The record an accepted delivery creates (R115, R120). -/
def Delivery.record (w : Nat) (d : Delivery) : Record :=
  { frame := d.frame, line := d.line, contribs := d.contribs, first := d.arrival, last := d.arrival
    deadline := d.arrival + BitVec.ofNat 32 w
    timecode := if d.line = 0 then d.timecode else none, state := .opened }

/-- A record joined by an accepted delivery (R120). -/
def Record.join (d : Delivery) (r : Record) : Record :=
  { r with
    contribs := r.contribs.set d.plane (some ⟨d.buf, d.length⟩)
    last := d.arrival
    timecode := r.timecode.or (if d.line = 0 then d.timecode else none) }

/-- The table after an accepted delivery, the touched record re-evaluated (R117, R120). -/
def tableWith (j : PlaneSet) (e : Word32) (w : Nat) (d : Delivery) (l : List Record) : List Record :=
  match findRecord d.frame d.line l with
  | none => l ++ [(d.record w).evaluate j e]
  | some _ => l.map fun r => if r.isAt d.frame d.line then (r.join d).evaluate j e else r

/-- The acceptance (R120): buffer REFERENCED with count 1, stray run 0, then every possible release. -/
def Node.accept (c : Settled) (f : FrameCtx) (d : Delivery) (n : Node) : Node :=
  Node.runEngine c
    { n with
      ss := n.ss.mark d.buf (.referenced 1)
      se := { n.se with
        table := tableWith f.j n.tb.e n.rh.runtime.w d n.se.table
        strayRun := 0 } }

/-- The engine starts on a line-0 delivery (R122). -/
def Node.startEngine (c : Settled) (d : Delivery) (n : Node) : Node :=
  let f := FrameCtx.begin d.frame n.rh.runtime.mask n.se.lockedSet
  Node.accept c f d
    { n with se := { n.se with state := .run f, framesStarted := Counter.bump n.se.framesStarted } }

/-- A delivery in IDLE (R122). -/
def Node.deliverIdle (c : Settled) (d : Delivery) (n : Node) : Node × Answer :=
  if !PlaneSet.has n.rh.runtime.mask d.plane then (n, .unexpectedPlane)
  else if d.line = 0 then (n.startEngine c d, .accept)
  else (n, .stray)

/-- The places from N_next up to the line with this key, that line included (R132, R133). -/
def placesTo (c : Settled) (f : FrameCtx) (frame : BitVec 8) (line : Nat) : Nat :=
  if frame = f.fCur then (line - f.nNext) + 1 else (c.aLines - f.nNext) + 1 + line + 1

/-- A release step with the head record releasable whatever its state (R132). -/
def Node.forceStep (c : Settled) (f : FrameCtx) (r : Record) (n : Node) : Node :=
  if c.aLines ≤ f.nNext then n.advanceFrame f
  else if r.isAt f.fCur f.nNext then n.releaseRecord f r .forced
  else n.releaseGap f

/-- The force of R132: steps until a record has left the table or the engine is IDLE. -/
def Node.force (c : Settled) : Nat → Node → Node
  | 0, n => n
  | k + 1, n =>
    match n.se.state with
    | .run f =>
      if n.se.table.length < 16 || n.ou.freePlaces = 0 then n
      else
        match headRecord f.fCur n.se.table with
        | none => n
        | some r => Node.force c k (n.forceStep c f r)
    | _ => n

/-- The gap lines and the advance before a line of its own, each leaving a place for that line (R133). -/
def Node.walkTo (c : Settled) (frame : BitVec 8) (line : Nat) : Nat → Node → Node
  | 0, n => n
  | k + 1, n =>
    match n.se.state with
    | .run f =>
      if (f.fCur = frame && f.nNext = line) || n.ou.freePlaces < 2 then n
      else if c.aLines ≤ f.nNext then Node.walkTo c frame line k (n.advanceFrame f)
      else Node.walkTo c frame line k (n.releaseGap f)
    | _ => n

/-- A line of its own (R133): the segment goes out at once, FORCED, without its record entering the table. -/
def Node.ownLine (c : Settled) (f : FrameCtx) (d : Delivery) (n : Node) : Node :=
  Node.runEngine c
    (Node.releaseLine f d.contribs d.timecode 0 .forced
      { n with ss := n.ss.mark d.buf (.referenced 1), se := { n.se with strayRun := 0 } })

/-- A delivery that needs a new record on a full table (R132, R133, R134), its head record given. The force has the
places it needs, so it leaves fewer than 16 records or an engine in IDLE. A line of its own goes out also where its
frame advance has withdrawn a record (the model's choice, log entry 55). -/
def Node.deliverFull (c : Settled) (f : FrameCtx) (r : Record) (d : Delivery) (n : Node) : Node × Answer :=
  if keyRank f.fCur d.frame d.line < r.rank f.fCur then
    if n.ou.freePlaces < placesTo c f d.frame d.line then (n, .tableFull)
    else
      let n := n.walkTo c d.frame d.line 4
      match n.se.state with
      | .run g => (n.ownLine c g d, .accept)
      | _ => n.deliverIdle c d
  else if n.ou.freePlaces < placesTo c f r.frame r.line then (n, .tableFull)
  else
    let n := n.force c 4
    match n.se.state with
    | .run g => if n.se.table.length < 16 then (n.accept c g d, .accept) else (n, .tableFull)
    | _ => n.deliverIdle c d

/-- A delivery in RUN that passed the first four tests of R119. -/
def Node.deliverRun (c : Settled) (f : FrameCtx) (d : Delivery) (n : Node) : Node × Answer :=
  match findRecord d.frame d.line n.se.table, headRecord f.fCur n.se.table with
  | none, some r => if 16 ≤ n.se.table.length then n.deliverFull c f r d else (n.accept c f d, .accept)
  | _, _ => (n.accept c f d, .accept)

/-- A delivery with its buffer: the final classification and its effect (R119, R122, R123). -/
def Node.deliver (c : Settled) (d : Delivery) (n : Node) : Node × Answer :=
  match n.se.state with
  | .idle => n.deliverIdle c d
  | .run f =>
    match n.judgeRun f d.plane d.frame d.line with
    | .accept => n.deliverRun c f d
    | .stray => (n.raiseStray c, .stray)
    | a => (n, a)
  | .flushing _ => (n, .flushing)

/-! ## Reports of the lanes (R112) -/

/-- A lane reports that its plane has entered LOCKED (R112). -/
def Node.planeLocked (p : Fin 4) (n : Node) : Node :=
  { n with se := { n.se with lockedSet := PlaneSet.add n.se.lockedSet p } }

/-- A lane reports that its plane has left LOCKED (R112). Where that empties J in RUN the engine flushes at once, and
records that would be complete against the empty J are discarded with the others, not released first (the model's
choice, log entry 44). -/
def Node.planeLost (c : Settled) (p : Fin 4) (n : Node) : Node :=
  let n := { n with se := { n.se with lockedSet := PlaneSet.remove n.se.lockedSet p } }
  match n.se.state with
  | .idle => n
  | .flushing f => n.setEngine (.flushing { f with j := PlaneSet.remove f.j p })
  | .run f =>
    let g := { f with j := PlaneSet.remove f.j p }
    if g.j = 0 then
      Node.runEngine c
        (Node.enterFlushing g { n with se := { n.se with resyncEmpty := Counter.bump n.se.resyncEmpty } })
    else ((n.setEngine (.run g)).reevaluate g.j).runEngine c

/-! ## Reset and clearing -/

/-- The eight counters set to 0 (R137). -/
def Se.clearCounters (se : Se) : Se :=
  { se with
    framesStarted := 0, framesEnded := 0, framesFlushed := 0, resyncStray := 0, resyncEmpty := 0
    forcedLines := 0, contribWithdrawn := 0, contribDiscarded := 0 }

/-! ## RECORD_DEADLINE -/

/-- The operations of the base role from the first accepted SETTLE (R96, R111, R139). -/
def Node.asBase (n : Node) (f : Settled → Node → Node) : Node :=
  match n.baseCfg with
  | none => n
  | some c => f c n

/-- A record is OPEN and E has passed its deadline. -/
def Record.expires (e : Word32) (r : Record) : Bool := r.state == .opened && passed e r.deadline

/-- The record with this key expires if it is OPEN and past its deadline (R118). -/
def expireAt (frame : BitVec 8) (line : Nat) (e : Word32) (r : Record) : Record :=
  if r.isAt frame line && r.expires e then { r with state := .expired } else r

/-- RECORD_DEADLINE for the record with this key (R118), with the releases it allows. -/
def Node.recordDeadline (c : Settled) (frame : BitVec 8) (line : Nat) (n : Node) : Node :=
  if n.se.table.any (fun r => r.isAt frame line && r.expires n.tb.e) then
    Node.settleRefs (Node.runEngine c
      { n with se := { n.se with table := n.se.table.map (expireAt frame line n.tb.e) } })
  else n

/-- RECORD_DEADLINE (R118). -/
def execRecordDeadline (frame : BitVec 8) (line : Nat) (s : State) : Host.Outcome State Fault Refusal :=
  s.next (s.node.awake fun n => n.asBase fun c n => n.recordDeadline c frame line)

end Sys2Proof.Machine
end

