-- ==== Sys2Proof/Machine/Wire.lean ====
section
/-! DEFINITION. Checks, bit stuffing and bit timing: what goes on the uplink and on the service carrier. -/

namespace Sys2Proof.Machine

/-- The bits of the number `k` in `w` bits, most significant first. A space is a 1 bit, a mark a 0 bit. -/
def bitsMsb : Nat → Nat → List Bool
  | 0, _ => []
  | w + 1, k => k.testBit w :: bitsMsb w k

/-- The bits of bytes, each most significant bit first. -/
def byteBits (bs : List Byte) : List Bool := bs.flatMap fun b => bitsMsb 8 b.toNat

/-! ## The segment check (R199) -/

/-- One bit through the CRC-32 register. -/
def crc32Bit (r : Word32) (b : Bool) : Word32 :=
  if r.msb != b then (r <<< 1) ^^^ 0x04C11DB7 else r <<< 1

/-- The check of header and payload: register from all ones, sent inverted (R199). -/
def crc32 (bs : List Byte) : Word32 := ~~~ (byteBits bs).foldl crc32Bit 0xFFFFFFFF

/-- The check's four bytes, most significant first. -/
def crc32Bytes (bs : List Byte) : List Byte := u32 (crc32 bs).toNat

/-- The bytes of a segment on the uplink, between the delimiters: header, payload, check (R90, R199). -/
def segmentBytes (h : SegHeader) (payload : List Byte) : List Byte :=
  h.bytes ++ payload ++ crc32Bytes (h.bytes ++ payload)

/-! ## The service message (R152 to R154) -/

/-- One bit through the CRC-16 register. -/
def crc16Bit (r : BitVec 16) (b : Bool) : BitVec 16 :=
  if r.msb != b then (r <<< 1) ^^^ 0x1021 else r <<< 1

/-- The check over the key, length and payload bits, not inverted (R154). -/
def crc16 (bits : List Bool) : BitVec 16 := bits.foldl crc16Bit 0xFFFF

/-- The key, length and payload bits (R152). -/
def contentBits (key : Key) (payload : List Byte) : List Bool :=
  bitsMsb 12 key.toNat ++ bitsMsb 5 payload.length ++ byteBits payload

/-- The bits that are stuffed: start mark, content and check (R153). -/
def stuffedPart (key : Key) (payload : List Byte) : List Bool :=
  let c := contentBits key payload
  false :: (c ++ bitsMsb 16 (crc16 c).toNat)

/-- Bit stuffing (R153): `run` counts the equal data bits so far, the last of them being `last`; after four
a stuff bit of the opposite level follows and the count begins afresh. -/
def stuff : Nat → Bool → List Bool → List Bool
  | _, _, [] => []
  | run, last, b :: rest =>
    let k := if run != 0 && b == last then run + 1 else 1
    if k = 4 then b :: (!b) :: stuff 0 b rest else b :: stuff k b rest

/-- The bits of a message on the carrier: the stuffed part, the acknowledge slot, marked or not, then the delimiter and
the end field as spaces (R152). -/
def carrierBits (key : Key) (payload : List Byte) (marked : Bool) : List Bool :=
  stuff 0 true (stuffedPart key payload) ++ (!marked) :: List.replicate 8 true

/-- The bits a sender drives: its own acknowledge slot is a space. -/
def messageBits (key : Key) (payload : List Byte) : List Bool := carrierBits key payload false

/-- Removing stuff bits (R153): none if a stuff bit is not of the opposite level or does not come. -/
def unstuff : Nat → Bool → List Bool → Option (List Bool)
  | _, _, [] => some []
  | run, last, b :: rest =>
    let k := if run != 0 && b == last then run + 1 else 1
    if k = 4 then
      match rest with
      | [] => none
      | s :: rest' => if s == b then none else (unstuff 0 b rest').map (b :: ·)
    else (unstuff k b rest).map (b :: ·)

/-- The number bits spell, most significant first. -/
def natOfBits (bs : List Bool) : Nat := bs.foldl (fun a b => a * 2 + b.toNat) 0

/-- `k` bytes from bits. -/
def readBytes : Nat → List Bool → List Byte
  | 0, _ => []
  | k + 1, bs => BitVec.ofNat 8 (natOfBits (bs.take 8)) :: readBytes k (bs.drop 8)

/-- Key and payload of the data bits after the start mark, or the error a receiver finds in them: a length above 16, or
a check that does not match (R152, R154). -/
def readContent (d : List Bool) : Except CarrierError (Key × List Byte) :=
  let len := natOfBits ((d.drop 12).take 5)
  if 16 < len then .error .symbol
  else
    let c := d.take (17 + 8 * len)
    if natOfBits ((d.drop (17 + 8 * len)).take 16) == (crc16 c).toNat && d.length == 33 + 8 * len then
      .ok (BitVec.ofNat 12 (natOfBits (d.take 12)), readBytes len (d.drop 17))
    else .error .check

/-- A receiver's reading of the stuffed part, stuff bits included (R152 to R154): key and payload, or the
error it finds. -/
def receiveBits (bits : List Bool) : Except CarrierError (Key × List Byte) :=
  match unstuff 0 true bits with
  | none => .error .symbol
  | some [] => .error .symbol
  | some (_ :: d) => readContent d

/-! ## A message sampled bit by bit (R152 to R154, R159) -/

/-- The number of payload bytes the length field gives. -/
def Reading.payloadLength (r : Reading) : Nat := natOfBits ((r.data.drop 13).take 5)

/-- The next bit is a stuff bit (R153). -/
def Reading.stuffDue (r : Reading) : Bool := r.run == 4

/-- The stuffed part has been sampled, any stuff bit due after it included. -/
def Reading.isWhole (r : Reading) : Bool := r.data.length == 34 + 8 * r.payloadLength && !r.stuffDue

/-- The next bit is one of the 12 key bits (R157). -/
def Reading.atKeyBit (r : Reading) : Bool := !r.stuffDue && 1 ≤ r.data.length && r.data.length ≤ 12

/-- The next bit is the acknowledge slot (R158). -/
def Reading.atSlot (r : Reading) : Bool := r.isWhole && r.tail == 0

/-- Key and payload of a message sampled whole. -/
def Reading.content (r : Reading) : Except CarrierError (Key × List Byte) := readContent (r.data.drop 1)

/-- The errors that show as soon as their last bit is there: a length above 16 at the fifth length bit, the check at the
end of the stuffed part (R152, R154). -/
def Reading.judge (r : Reading) : Except CarrierError Reading :=
  if r.data.length = 18 && 16 < r.payloadLength then .error .symbol
  else if r.isWhole then r.content.map fun _ => r
  else .ok r

/-- One more bit of the message, or the error a receiver finds in it (R153, R159): within the stuffed part a data bit
or a stuff bit, then the acknowledge slot, then spaces. -/
def Reading.take (level : Bool) (r : Reading) : Except CarrierError Reading :=
  if r.isWhole then
    if r.tail = 0 then .ok { r with tail := 1, marked := !level }
    else if level then .ok { r with tail := r.tail + 1 }
    else .error .symbol
  else if r.stuffDue then
    if r.data.getLast? = some level then .error .symbol else Reading.judge { r with run := 0 }
  else
    Reading.judge { r with
      data := r.data ++ [level]
      run := if r.run != 0 && r.data.getLast? == some level then r.run + 1 else 1 }

/-! ## Bit timing (R150, R151) -/

/-- A time quantum in ticks (R150). -/
def Settled.tq (c : Settled) : Nat := c.pre + 1

/-- The bit time in ticks (R150). -/
def Settled.bitTicks (c : Settled) : Nat := (1 + c.prop + c.pa + c.pb) * c.tq

/-- The sample point: the end of PA (R150). -/
def Settled.sampleTicks (c : Settled) : Nat := (1 + c.prop + c.pa) * c.tq

/-- The propagation segment in ticks (R49, R150). -/
def Settled.propTicks (c : Settled) : Nat := c.prop * c.tq

/-- The bit's length in tq after an edge from space to mark at quantum `q` of the bit (R151): an edge in the
sync segment changes nothing, one in PROP or PA lengthens PA, one in PB shortens PB, by at most SJW. -/
def Settled.resyncTq (c : Settled) (q : Nat) : Nat :=
  let nominal := 1 + c.prop + c.pa + c.pb
  if q < 1 then nominal
  else if q < 1 + c.prop + c.pa then nominal + min (q - 1) c.sjw
  else nominal - min (nominal - q) c.sjw

/-- The time a segment of this payload length takes on the uplink, in 125ths of a tick: 20 + length bytes at 125/9 bytes
per tick (R91). -/
def launchTime (length : Nat) : Nat := (20 + length) * 9

end Sys2Proof.Machine
end

