-- ==== Sys2Proof/Machine/Lanes.lean ====
section
/-! DEFINITION. The receive lanes RL (R96 to R110) and their commands. -/

namespace Sys2Proof.Machine

/-! ## A lane within the node, and its counters (R108) -/

/-- Lane `p`. -/
def Node.lane (p : Fin 4) (n : Node) : Lane := n.rl.get p

/-- Lane `p` changed. -/
def Node.onLane (p : Fin 4) (f : Lane → Lane) (n : Node) : Node := { n with rl := n.rl.set p (f (n.lane p)) }

/-- The counters of a lane (R108). -/
inductive LaneCount
  | good
  | checkFail
  | malformed
  | noBuffer
  | late
  | duplicate
  | stray
  | unexpectedPlane
  | tableFull
  | flushing
  | lossCarrier
  | lossBad
  | lossSilence
  deriving DecidableEq, Repr

/-- One event counted. -/
def Lane.count (k : LaneCount) (l : Lane) : Lane :=
  match k with
  | .good => { l with good := Counter.bump l.good }
  | .checkFail => { l with checkFail := Counter.bump l.checkFail }
  | .malformed => { l with malformed := Counter.bump l.malformed }
  | .noBuffer => { l with noBuffer := Counter.bump l.noBuffer }
  | .late => { l with late := Counter.bump l.late }
  | .duplicate => { l with duplicate := Counter.bump l.duplicate }
  | .stray => { l with stray := Counter.bump l.stray }
  | .unexpectedPlane => { l with unexpectedPlane := Counter.bump l.unexpectedPlane }
  | .tableFull => { l with tableFull := Counter.bump l.tableFull }
  | .flushing => { l with flushing := Counter.bump l.flushing }
  | .lossCarrier => { l with lossCarrier := Counter.bump l.lossCarrier }
  | .lossBad => { l with lossBad := Counter.bump l.lossBad }
  | .lossSilence => { l with lossSilence := Counter.bump l.lossSilence }

/-- The counts that raise SEGMENT_LOSS (R108). -/
def LaneCount.isSegmentLoss : LaneCount → Bool
  | .good => false
  | .lossCarrier => false
  | .lossBad => false
  | .lossSilence => false
  | _ => true

/-- One event counted by lane `p`, with its notice (R108). -/
def Node.countLane (p : Fin 4) (k : LaneCount) (n : Node) : Node :=
  (n.onLane p (Lane.count k)).raiseIf k.isSegmentLoss .segmentLoss

/-- The counter of an answer of the engine; an ACCEPT without a buffer is NO_BUFFER (R105). -/
def Answer.count : Answer → LaneCount
  | .accept => .noBuffer
  | .unexpectedPlane => .unexpectedPlane
  | .stray => .stray
  | .late => .late
  | .duplicate => .duplicate
  | .tableFull => .tableFull
  | .flushing => .flushing

/-- The thirteen counters set to 0 (R108). -/
def Lane.clearCounters (l : Lane) : Lane :=
  { l with
    good := 0, checkFail := 0, malformed := 0, noBuffer := 0, late := 0, duplicate := 0, stray := 0
    unexpectedPlane := 0, tableFull := 0, flushing := 0, lossCarrier := 0, lossBad := 0, lossSilence := 0 }

/-! ## The header and the check (R98, R99, R199) -/

/-- The header conditions of R11 for lane `p` (R99). -/
def headerGood (c : Settled) (p : Fin 4) (h : SegHeader) : Bool :=
  h.plane.toNat == p.val && h.line < c.aLines && 1 ≤ h.length && h.length ≤ 6144
    && h.timecode.isSome == (h.line == 0)

/-- These 4 bytes are the check of header and payload (R199). -/
def checkMatches (header payload check : List Byte) : Bool := crc32Bytes (header ++ payload) == check

/-- The check of an overlong segment, its two readings agreeing or not (R98, log entry 12): the last 4 bytes
received, or the 4 bytes after 6,144 payload bytes. -/
def overlongMatches (header rest : List Byte) : Bool :=
  let byLast := checkMatches header (rest.take (rest.length - 4)) (rest.drop (rest.length - 4))
  let byPlace := checkMatches header (rest.take 6144) ((rest.drop 6144).take 4)
  if byLast = byPlace then byLast else Config.overlongCheck header rest

/-- A segment ends beyond 6,164 bytes: it is overlong (R98). -/
def isOverlong (how : SegEnd) (rest : List Byte) : Bool :=
  match how with
  | .overrun => true
  | .delimiter => 6148 < rest.length
  | .truncation => false

/-- The payload of a segment ended by its delimiter: all but the last 4 bytes (R98). -/
def payloadOf (rest : List Byte) : List Byte := rest.take (rest.length - 4)

/-- The segment's check matches (R98, R102; log entries 12 and 13). -/
def segmentCheck (how : SegEnd) (violation : Bool) (header rest : List Byte) : Bool :=
  if violation || how == .truncation then false
  else if isOverlong how rest then overlongMatches header rest
  else 4 ≤ rest.length && checkMatches header (payloadOf rest) (rest.drop (rest.length - 4))

/-- The segment meets every condition of R11 (R103). -/
def segmentGood (c : Settled) (p : Fin 4) (how : SegEnd) (violation : Bool) (bytes : List Byte) (h : SegHeader)
    (rest : List Byte) : Bool :=
  segmentCheck how violation bytes rest && !isOverlong how rest && headerGood c p h
    && (payloadOf rest).length == h.length

/-! ## Losing a lane (R97, R107) -/

/-- The segment in progress holds a buffer. -/
def InProgress.buffer : InProgress → Option Nat
  | .body _ _ (.filling b) => Option.some b
  | _ => Option.none

/-- A buffer given back FREE, if there is one (R78). -/
def Node.giveBack (b : Option Nat) (n : Node) : Node :=
  match b with
  | none => n
  | some k => { n with ss := n.ss.release k }

/-- The lane without its segment, its buffer given back (R97). -/
def Node.abandon (p : Fin 4) (n : Node) : Node :=
  (n.giveBack (n.lane p).seg.buffer).onLane p fun l => { l with seg := .none }

/-- The lane in DARK (R97). -/
def Lane.toDark (l : Lane) : Lane :=
  { l with state := .dark, goodRun := 0, badRun := 0, seg := .none, deadline := none }

/-- A lane leaves LOCKED for DARK (R107), with all that the engine does of it. -/
def Node.loseLane (c : Settled) (p : Fin 4) (cause : LaneCount) (n : Node) : Node :=
  let n := ((n.abandon p).onLane p Lane.toDark).countLane p cause
  ((n.raise .laneChange).planeLost c p).settleRefs

/-- The level of CPp as seen. -/
def Node.seeCarrier (p : Fin 4) (level : Bool) (n : Node) : Node :=
  { n with pins := { n.pins with cp := n.pins.cp.set p level } }

/-- CPp is deasserted (R97). -/
def Node.carrierLoss (c : Settled) (p : Fin 4) (n : Node) : Node :=
  let n := n.seeCarrier p false
  match (n.lane p).state with
  | .dark => n
  | .locking => (n.abandon p).onLane p Lane.toDark
  | .locked => n.loseLane c p .lossCarrier

/-! ## The end of a segment (R102 to R105) -/

/-- The silence limit after a good segment of this line (R106). -/
def Settled.silenceLimit (c : Settled) (line : Nat) : Nat :=
  if line + 4 < c.aLines then 4 * c.tpl else (c.lTot - c.aLines + 4) * c.tpl

/-- A bad segment (R102). -/
def Node.badSegment (c : Settled) (p : Fin 4) (cause : LaneCount) (n : Node) : Node :=
  let n := (n.abandon p).countLane p cause
  match (n.lane p).state with
  | .dark => n
  | .locking => n.onLane p fun l => { l with goodRun := 0 }
  | .locked =>
    let n := n.onLane p fun l => { l with badRun := l.badRun + 1 }
    if 4 ≤ (n.lane p).badRun then n.loseLane c p .lossBad else n

/-- The delivery of a good segment (R105). -/
def Node.delivery (p : Fin 4) (h : SegHeader) (b : Nat) (n : Node) : Delivery :=
  { plane := p, frame := h.frame, line := h.line, length := h.length, timecode := h.timecode, buf := b
    arrival := n.tb.e }

/-- A delivery with its buffer, and what the lane does with the answer (R105, R78). -/
def Node.handBuffer (c : Settled) (p : Fin 4) (h : SegHeader) (b : Nat) (payload : List Byte) (n : Node) : Node :=
  let n := { n with ss := n.ss.write b payload }
  match n.deliver c (n.delivery p h b) with
  | (n', .accept) => n'
  | (n', a) => ({ n' with ss := n'.ss.release b }).countLane p a.count

/-- A good segment handed on, by its disposition (the table of R105). -/
def Node.handOn (c : Settled) (p : Fin 4) (h : SegHeader) (disp : Disposition) (payload : List Byte) (n : Node) :
    Node :=
  match disp with
  | .filling b => (n.handBuffer c p h b payload).settleRefs
  | .refused => (n.present c p h.frame h.line).1.settleRefs
  | .checkOnly =>
    ((n.present c p h.frame h.line).1.countLane p (n.present c p h.frame h.line).2.count).settleRefs

/-- The lane enters LOCKED (R104). -/
def Node.lockLane (p : Fin 4) (n : Node) : Node :=
  Node.raise ((n.onLane p fun l => { l with state := .locked, goodRun := 0, badRun := 0 }).planeLocked p) .laneChange

/-- A good segment (R103, R104, R106), its buffer not yet handed on. -/
def Node.goodSegment (c : Settled) (p : Fin 4) (h : SegHeader) (disp : Disposition) (payload : List Byte)
    (n : Node) : Node :=
  let n := (n.countLane p .good).onLane p fun l =>
    { l with deadline := some (eAdd n.tb.e (c.silenceLimit h.line)) }
  match (n.lane p).state with
  | .dark => n.abandon p
  | .locking =>
    if (n.lane p).goodRun = 0 then (n.abandon p).onLane p fun l => { l with goodRun := 1 }
    else ((n.onLane p fun l => { l with seg := .none }).lockLane p).handOn c p h disp payload
  | .locked =>
    (n.onLane p fun l => { l with seg := .none, badRun := 0 }).handOn c p h disp payload

/-- A segment ends (R98, R102, R103); one whose header was not read fails its check (log entry 13). -/
def Node.segmentEnd (c : Settled) (p : Fin 4) (how : SegEnd) (violation : Bool) (rest : List Byte) (n : Node) :
    Node :=
  match (n.lane p).seg with
  | .none => n
  | .started => n.badSegment c p .checkFail
  | .body bytes h disp =>
    if segmentGood c p how violation bytes h rest then n.goodSegment c p h disp (payloadOf rest)
    else if segmentCheck how violation bytes rest then n.badSegment c p .malformed
    else n.badSegment c p .checkFail

/-! ## The start of a segment (R96, R98 to R100) -/

/-- A segment begins, the lane listening from here on if it was DARK (R96). -/
def Lane.start (l : Lane) : Lane :=
  match l.state with
  | .dark => { l with state := .locking, goodRun := 0, seg := .started }
  | _ => { l with seg := .started }

/-- A start delimiter (R96, R98): it first ends a segment in progress as truncated. -/
def Node.startDelimiter (c : Settled) (p : Fin 4) (cp : Bool) (n : Node) : Node :=
  if cp then ((n.seeCarrier p true).segmentEnd c p .truncation false []).onLane p Lane.start
  else n.carrierLoss c p

/-- A grant asked for lane `p` (R100): the disposition, and NO_BUFFER counted at a refusal. -/
def Node.askGrant (p : Fin 4) (bytes : List Byte) (h : SegHeader) (n : Node) : Node :=
  match n.ss.grant n.se.state (.lane p h.frame h.line) with
  | (ss, some b) => { n with ss := ss }.onLane p fun l => { l with seg := .body bytes h (.filling b) }
  | (ss, none) =>
    Node.countLane p .noBuffer
      ({ n with ss := ss }.onLane p fun l => { l with seg := .body bytes h .refused })

/-- The lane asks the engine about a segment whose header is good (R100). -/
def Lane.asks (l : Lane) : Bool :=
  match l.state with
  | .dark => false
  | .locking => l.goodRun != 0
  | .locked => true

/-- The 16th header byte has arrived (R99, R100). -/
def Node.segmentHeader (c : Settled) (p : Fin 4) (bytes : List Byte) (n : Node) : Node :=
  let h := SegHeader.ofBytes bytes
  if (n.lane p).seg = .started && bytes.length = 16 then
    if headerGood c p h && (n.lane p).asks && n.judge p h.frame h.line == .accept then n.askGrant p bytes h
    else n.onLane p fun l => { l with seg := .body bytes h .checkOnly }
  else n

/-! ## Silence (R106) -/

/-- E has passed the lane's silence deadline (R106, R9). -/
def Lane.isSilent (e : Word32) (l : Lane) : Bool :=
  match l.deadline with
  | none => false
  | some d => passed e d

/-- The silence timer has run out (the table of R106). -/
def Node.silenceTimeout (c : Settled) (p : Fin 4) (n : Node) : Node :=
  if (n.lane p).isSilent n.tb.e then
    match (n.lane p).state with
    | .dark => n
    | .locking => n.onLane p fun l => { l with goodRun := 0, deadline := none }
    | .locked => n.loseLane c p .lossSilence
  else n

/-! ## The commands -/

/-- CARRIER_LOSS (R97). -/
def execCarrierLoss (lane : Fin 4) (s : State) : Host.Outcome State Fault Refusal :=
  s.next (s.node.awake fun n => n.asBase fun c n => n.carrierLoss c lane)

/-- START_DELIMITER (R98). -/
def execStartDelimiter (lane : Fin 4) (cp : Bool) (s : State) : Host.Outcome State Fault Refusal :=
  s.next (s.node.awake fun n => n.asBase fun c n => n.startDelimiter c lane cp)

/-- SEGMENT_HEADER (R100). -/
def execSegmentHeader (lane : Fin 4) (header : List Byte) (s : State) : Host.Outcome State Fault Refusal :=
  s.next (s.node.awake fun n => n.asBase fun c n => n.segmentHeader c lane header)

/-- SEGMENT_END (R102). -/
def execSegmentEnd (lane : Fin 4) (how : SegEnd) (violation : Bool) (rest : List Byte) (s : State) :
    Host.Outcome State Fault Refusal :=
  s.next (s.node.awake fun n => n.asBase fun c n => n.segmentEnd c lane how violation rest)

/-- SILENCE_TIMEOUT (R106). -/
def execSilenceTimeout (lane : Fin 4) (s : State) : Host.Outcome State Fault Refusal :=
  s.next (s.node.awake fun n => n.asBase fun c n => n.silenceTimeout c lane)

end Sys2Proof.Machine
end

