-- ==== Sys2Proof/Machine/Launch.lean ====
section
/-! DEFINITION. The launch unit LU (R82 to R95) and the commands of the plane port and the uplink. -/

namespace Sys2Proof.Machine

/-! ## Dropped lines (R92) -/

/-- The causes for which LU drops a line, each a counter of R92. -/
inductive LineDrop
  | broken
  | noFrame
  | excess
  | empty
  | overlong
  | overflow
  deriving DecidableEq, Repr

/-- One dropped line counted under its cause. -/
def Lu.count (d : LineDrop) (lu : Lu) : Lu :=
  match d with
  | .broken => { lu with brokenLine := Counter.bump lu.brokenLine }
  | .noFrame => { lu with noFrame := Counter.bump lu.noFrame }
  | .excess => { lu with excessLine := Counter.bump lu.excessLine }
  | .empty => { lu with emptyLine := Counter.bump lu.emptyLine }
  | .overlong => { lu with overlongLine := Counter.bump lu.overlongLine }
  | .overflow => { lu with launchOverflow := Counter.bump lu.launchOverflow }

/-- A dropped line: counted, and SEGMENT_LOSS raised (R92). -/
def Node.dropLine (d : LineDrop) (n : Node) : Node := Node.raise { n with lu := n.lu.count d } .segmentLoss

/-- A dropped line that held a buffer, which goes back FREE (R78); the line state becomes `after`. -/
def Node.dropFilling (d : LineDrop) (b : Nat) (after : LineState) (n : Node) : Node :=
  Node.dropLine d { n with ss := n.ss.release b, lu := { n.lu with line := after } }

/-- A line in FILLING is abandoned by FRAME_BEGIN or LINE_BEGIN (R83, R84); a discard simply ends. -/
def Node.endLine (n : Node) : Node :=
  match n.lu.line with
  | .outside => n
  | .filling b => n.dropFilling .broken b .outside
  | .discarding => { n with lu := { n.lu with line := .outside } }

/-! ## Words of the plane port -/

/-- The command that a PCTL code of the plane port and PD give; none for a code that is no word (R200). -/
def portCommand (pctl : BitVec 4) (pd : Word32) : Option Instr :=
  match pctl.toNat with
  | 1 => some .frameBegin
  | 2 => some .lineBegin
  | 3 => some .lineEnd
  | 4 => some (.payloadWord pctl pd)
  | 5 => some (.payloadWord pctl pd)
  | 6 => some (.payloadWord pctl pd)
  | 7 => some (.payloadWord pctl pd)
  | _ => none

/-- FRAME_BEGIN (R83): TB's frame number and timecode are latched, the line count becomes 0. -/
def Node.frameBegin (n : Node) : Node :=
  let n := n.endLine
  { n with lu := { n.lu with latch := some (n.tb.frameNo.setWidth 8, n.tb.tc), lineCount := 0 } }

/-- The new line takes its number and asks for a buffer (R84, R75). -/
def Node.numberLine (n : Node) : Node :=
  let lu := { n.lu with lineNo := n.lu.lineCount, lineCount := min 65535 (n.lu.lineCount + 1) }
  match n.ss.grant n.se.state .lu with
  | (ss, some b) => { n with ss := ss, lu := { lu with line := .filling b } }
  | (ss, none) => Node.dropLine .overflow { n with ss := ss, lu := { lu with line := .discarding } }

/-- LINE_BEGIN (R84). -/
def Node.lineBegin (n : Node) : Node :=
  match n.lu.latch with
  | none => Node.dropLine .noFrame { n with lu := { n.lu with line := .discarding } }
  | some _ => n.endLine.numberLine

/-- The bytes of a payload word: codes 0x4 to 0x7 say 1 to 4 bytes, the most significant of PD (R200). -/
def payloadBytes (pctl : BitVec 4) (pd : Word32) : List Byte :=
  if 4 ≤ pctl.toNat && pctl.toNat ≤ 7 then (u32 pd.toNat).take (pctl.toNat - 3) else []

/-- A word or LINE_END outside any line (R85, R86). -/
def Node.unframedWord (n : Node) : Node :=
  { n with lu := { n.lu with unframed := Counter.bump n.lu.unframed } }

/-- A payload word (R85). -/
def Node.payload (bs : List Byte) (n : Node) : Node :=
  match n.lu.line with
  | .outside => n.unframedWord
  | .filling b =>
    if (n.ss.buf b).bytes.length + bs.length ≤ 6144 then { n with ss := n.ss.write b bs }
    else n.dropFilling .overlong b .discarding
  | .discarding => n

/-- The segment built of the finished line (R87). -/
def Node.segmentOf (b : Nat) (n : Node) : Segment :=
  let latch := n.lu.latch.getD (0, Timecode.zero)
  { plane := n.rh.straps.plane, frame := latch.1, line := n.lu.lineNo
    length := (n.ss.buf b).bytes.length
    timecode := if n.lu.lineNo = 0 then some latch.2 else none, buf := b }

/-- The finished segment joins the launch queue (R87, R90): the first of an empty queue begins at once. -/
def Node.queueSegment (b : Nat) (n : Node) : Node :=
  { n with
    ss := n.ss.mark b .queued
    lu := { n.lu with
      line := .outside
      queue := n.lu.queue ++ [n.segmentOf b]
      carrier := .sending
      began := if n.lu.queue.isEmpty then n.tb.e else n.lu.began
      beganPart := if n.lu.queue.isEmpty then 0 else n.lu.beganPart } }

/-- LINE_END (R86): the tests in their order. -/
def Node.lineEnd (c : Settled) (n : Node) : Node :=
  match n.lu.line with
  | .outside => n.unframedWord
  | .discarding => { n with lu := { n.lu with line := .outside } }
  | .filling b =>
    if c.aLines ≤ n.lu.lineNo then n.dropFilling .excess b .outside
    else if (n.ss.buf b).bytes.isEmpty then n.dropFilling .empty b .outside
    else if 8 ≤ n.lu.queue.length then n.dropFilling .overflow b .outside
    else n.queueSegment b

/-! ## The uplink carrier -/

/-- The header of a queued segment. -/
def Segment.header (g : Segment) : SegHeader :=
  { plane := g.plane, frame := g.frame, line := g.line, length := g.length, timecode := g.timecode }

/-- The 125ths of a tick from the beginning of the launch in progress to the present E (R91, log entry 29). -/
def Node.launchElapsed (n : Node) : Nat := (sdiff n.tb.e n.lu.began).toNat * 125 - n.lu.beganPart

/-- The oldest segment has had its time on the carrier (R91). -/
def Node.launchDue (n : Node) : Bool :=
  match n.lu.queue with
  | [] => false
  | g :: _ => launchTime g.length ≤ n.launchElapsed

/-- A queued segment with its buffer's bytes, as it goes out between the delimiters (R90). -/
def Node.segmentOut (g : Segment) (n : Node) : List Byte := segmentBytes g.header (n.ss.buf g.buf).bytes

/-- The launch that follows begins at once, back to back, at the exact time at which this one ends (R90, R91). -/
def Lu.beginNext (length : Nat) (lu : Lu) : Lu :=
  { lu with
    began := lu.began + BitVec.ofNat 32 ((lu.beganPart + launchTime length) / 125)
    beganPart := (lu.beganPart + launchTime length) % 125 }

/-- The last byte of the oldest segment has been sent (R89, R90): its buffer is FREE and the next begins. -/
def Node.launched (n : Node) : Node :=
  match n.lu.queue with
  | [] => n
  | g :: rest =>
    { n with
      ss := n.ss.release g.buf
      lu := { n.lu.beginNext g.length with
        queue := rest
        carrier := if rest.isEmpty then .idleFill else .sending
        uplink := .startDelimiter :: (n.segmentOut g).map .byte ++ [.endDelimiter]
        linesLaunched := Counter.bump n.lu.linesLaunched } }

/-- What LU has asked of the front end for the segment in launch by the present E: its start delimiter and the bytes
sent so far, or idle fill with none in launch (R90, R91). -/
def Node.uplinkNow (n : Node) : List UplinkSymbol :=
  match n.lu.queue with
  | [] => [.idleFill]
  | g :: _ => .startDelimiter :: ((n.segmentOut g).take (n.launchElapsed / 9)).map .byte

/-- The uplink output of plane `p` (R90): undriven but for the node's own plane, and that one undriven while the
carrier is OFF. -/
def Node.uplinkOutput (p : Fin 4) (n : Node) : Option (List UplinkSymbol) :=
  if n.lu.carrier != .off && p.val == n.rh.straps.plane.toNat then some n.uplinkNow else none

/-! ## SETTLE, reset, clearing -/

/-- The carrier in IDLE_FILL from the first accepted SETTLE in the head role (R90). -/
def Lu.settle (role : Role) (lu : Lu) : Lu :=
  match role with
  | .head => { lu with carrier := .idleFill }
  | .base => lu

/-- The eight counters set to 0 (R92). -/
def Lu.clearCounters (lu : Lu) : Lu :=
  { lu with
    linesLaunched := 0, brokenLine := 0, noFrame := 0, excessLine := 0, emptyLine := 0, overlongLine := 0
    launchOverflow := 0, unframed := 0 }

/-- LU's part of a soft reset (R95): the carrier stays driven. -/
def Lu.softReset (lu : Lu) : Lu :=
  { Lu.powerOn with
    carrier := if lu.carrier = .off then .off else .idleFill
    uplink := lu.uplink }

/-! ## The commands -/

/-- An operation of the head role from the first accepted SETTLE (R82). -/
def Node.asHead (n : Node) (f : Settled → Node → Node) : Node :=
  match n.headCfg with
  | none => n
  | some c => f c n

/-- FRAME_BEGIN (R83). -/
def execFrameBegin (s : State) : Host.Outcome State Fault Refusal :=
  s.next (s.node.awake fun n => n.asHead fun _ n => n.frameBegin)

/-- LINE_BEGIN (R84). -/
def execLineBegin (s : State) : Host.Outcome State Fault Refusal :=
  s.next (s.node.awake fun n => n.asHead fun _ n => n.lineBegin)

/-- PAYLOAD_WORD (R85): a code other than 0x4 to 0x7 is no payload word (R200). -/
def execPayloadWord (pctl : BitVec 4) (pd : Word32) (s : State) : Host.Outcome State Fault Refusal :=
  s.next (s.node.awake fun n => n.asHead fun _ n =>
    if (payloadBytes pctl pd).isEmpty then n else n.payload (payloadBytes pctl pd))

/-- LINE_END (R86). -/
def execLineEnd (s : State) : Host.Outcome State Fault Refusal :=
  s.next (s.node.awake fun n => n.asHead Node.lineEnd)

/-- SEGMENT_LAUNCHED (R89), once the segment has had its time (R91). -/
def execSegmentLaunched (s : State) : Host.Outcome State Fault Refusal :=
  s.next (s.node.awake fun n => n.asHead fun _ n => if n.launchDue then n.launched else n)

end Sys2Proof.Machine
end

