-- ==== Sys2Proof/Machine/Timebase.lean ====
section
/-! DEFINITION. The timebase TB: trim, frames, lines, history, renumbering, timecode (R16 to R33). -/

namespace Sys2Proof.Machine

/-! ## Trim and line lengths -/

/-- The trim of the frame with this number (R19); `/` of an `Int` by 16 is the floor. -/
def trimOf (q : Int) (number : Word16) : Int :=
  if ((number.toNat % 16 : Nat) : Int) < q - 16 * (q / 16) then q / 16 + 1 else q / 16

/-- The length of a timebase line in a frame with this trim (R4, R67); the last line carries the trim. -/
def Settled.lineLength (c : Settled) (line : Nat) (trim : Int) : Nat :=
  if line + 1 = c.lTot then ((c.tpl : Int) + trim).toNat
  else if line < c.x then c.tpl + 1
  else c.tpl

/-! ## The frame in progress -/

/-- A frame beginning at this E with this number (R19, R21). -/
def Gen.begin (c : Settled) (e : Word32) (trim : Int) : Gen :=
  { start := e, unstepped := eAdd e (c.period + trim), scheduled := eAdd e (c.period + trim), step := none }

/-- TB at the beginning of a frame of its present number (R17, R19, R21). -/
def Tb.beginFrame (c : Settled) (tb : Tb) : Tb :=
  { tb with
    line := 0, tick := 0, trim := trimOf tb.q tb.frameNo
    gen := some (Gen.begin c tb.e (trimOf tb.q tb.frameNo)) }

/-- One tick within the frame (R18): a line that has run its length gives way to the next, but for the last
line, which lasts until the scheduled next start. -/
def Tb.advance (c : Settled) (tb : Tb) : Tb :=
  if tb.line + 1 < c.lTot && c.lineLength tb.line tb.trim ≤ tb.tick + 1 then
    { tb with line := tb.line + 1, tick := 0 }
  else { tb with tick := tb.tick + 1 }

/-- A step request carrying `e` (R23, R24): the last one of a frame counts, against the unstepped next start. -/
def Gen.stepBy (g : Gen) (e : Int) : Gen := { g with scheduled := eAdd g.unstepped (-e), step := some e }

/-- The tick lies beyond the trimmed length of the last line, in a line that a step stretched (R67). -/
def Tb.isStretched (c : Settled) (tb : Tb) : Bool :=
  tb.line + 1 == c.lTot && c.lineLength tb.line tb.trim ≤ tb.tick

/-- A frame start is due: E has reached the scheduled next start of the running generator (R21). -/
def Tb.frameDue (tb : Tb) : Bool :=
  match tb.gen with
  | none => false
  | some g => reached tb.e g.scheduled

/-! ## Timecode (R28 to R30) -/

/-- One more frame count, with carries into seconds, minutes and hours (R28). -/
def Timecode.countUp (r : Nat) (t : Timecode) : Timecode :=
  if bcdVal t.frames + 1 < r then { t with frames := toBcd (bcdVal t.frames + 1) }
  else if bcdVal t.seconds + 1 < 60 then { t with frames := 0, seconds := toBcd (bcdVal t.seconds + 1) }
  else if bcdVal t.minutes + 1 < 60 then
    { t with frames := 0, seconds := 0, minutes := toBcd (bcdVal t.minutes + 1) }
  else if bcdVal t.hours + 1 < 24 then
    { t with frames := 0, seconds := 0, minutes := 0, hours := toBcd (bcdVal t.hours + 1) }
  else { t with frames := 0, seconds := 0, minutes := 0, hours := 0 }

/-- The timecode one frame on, for frame count R and divider D (R28). -/
def Timecode.advance (r d : Nat) (t : Timecode) : Timecode :=
  if d = 2 then
    if t.pair then Timecode.countUp r { t with pair := false } else { t with pair := true }
  else Timecode.countUp r t

/-- The timecode `k` frames on. -/
def Timecode.advanceBy (r d : Nat) : Nat → Timecode → Timecode
  | 0, t => t
  | k + 1, t => Timecode.advanceBy r d k (Timecode.advance r d t)

/-- The timecode of a new frame without adoption: the preset if one is pending (R29), else the advance. -/
def Tb.plainTimecode (c : Settled) (preset : Option Timecode) (tb : Tb) : Timecode :=
  match preset with
  | some t => t
  | none => tb.tc.advance c.r c.d

/-- The adopted value for the frame with this number, if it differs from the plain one (R30). -/
def Tb.adopted (c : Settled) (preset : Option Timecode) (number : Word16) (tb : Tb) : Option Timecode :=
  match tb.adoption with
  | none => none
  | some (t, nSrc) =>
    if Timecode.advanceBy c.r c.d (number - nSrc).toNat t = tb.plainTimecode c preset then none
    else some (Timecode.advanceBy c.r c.d (number - nSrc).toNat t)

/-- DU hands over an announced timecode (R30): kept if it is legal for the node. -/
def Tb.handOff (c : Settled) (t : Timecode) (nSrc : Word16) (tb : Tb) : Tb :=
  if t.legal c.r c.d then { tb with adoption := some (t, nSrc) } else tb

/-! ## Frame starts -/

/-- The last four entries of a history (R25). -/
def lastFour {α : Type} (l : List α) : List α := l.drop (l.length - 4)

/-- The frame in progress carries a step request. -/
def Tb.isStepped (tb : Tb) : Bool :=
  match tb.gen with
  | none => false
  | some g => g.step.isSome

/-- What a frame start does to TB (R21, R25, R28 to R30), at the present E. -/
def Tb.frameStart (c : Settled) (preset : Option Timecode) (tb : Tb) : Tb :=
  Tb.beginFrame c { tb with
    frameNo := tb.frameNo + 1
    history := lastFour (tb.history ++ [⟨tb.frameNo + 1, tb.e, tb.isStepped⟩])
    tc := (tb.adopted c preset (tb.frameNo + 1)).getD (tb.plainTimecode c preset)
    adoption := none
    adoptions := if (tb.adopted c preset (tb.frameNo + 1)).isSome then Counter.bump tb.adoptions else tb.adoptions }

/-- The start of a frame 0, made by SETTLE or by a soft reset (R17, R32): not recorded, timecode kept. -/
def Tb.frameZero (c : Settled) (tb : Tb) : Tb :=
  Tb.beginFrame c { tb with frameNo := 0, history := [], adoption := none }

/-- TB's part of a soft reset (R32), with DU's kept integral. The count of adoptions clears too (R2). -/
def Tb.softReset (c : Settled) (i : Int) (tb : Tb) : Tb :=
  Tb.frameZero c { tb with q := i, adoptions := 0 }

/-- One tick of the 27 MHz clock (R16, R18). -/
def Tb.onTick (settled : Option Settled) (tb : Tb) : Tb :=
  match settled, tb.gen with
  | some c, some _ => Tb.advance c { tb with e := tb.e + 1 }
  | _, _ => { tb with e := tb.e + 1 }

/-! ## Steps and renumbering -/

/-- TB takes a step request (R23); a generator that is not running takes none (R24). -/
def Tb.requestStep (e : Int) (tb : Tb) : Tb := { tb with gen := tb.gen.map (·.stepBy e) }

/-- An entry's number moved by a shift (R26). -/
def HistEntry.shift (s : Word16) (h : HistEntry) : HistEntry := { h with number := h.number + s }

/-- TB carries out a renumbering: the start with this label is to carry `nSrc` (R26). -/
def Tb.renumber (label nSrc : Word16) (tb : Tb) : Tb :=
  { tb with
    frameNo := tb.frameNo + (nSrc - label)
    history := tb.history.map (HistEntry.shift (nSrc - label)) }

/-- The history entry with this number (R53). -/
def Tb.entry (number : Word16) (tb : Tb) : Option HistEntry := tb.history.find? fun h => h.number == number

/-- The starts a measurement chooses among: label and E of every history entry, then the scheduled next
start under its present label (R54). -/
def Tb.starts (tb : Tb) : List (Word16 × Word32) :=
  tb.history.map (fun h => (h.number, h.e)) ++
    (match tb.gen with
      | none => []
      | some g => [(tb.frameNo + 1, g.scheduled)])

/-- Of two starts the one nearer the target, the earlier of equals (R54). -/
def nearer (t : Word32) (best : Option (Word16 × Word32)) (s : Word16 × Word32) : Option (Word16 × Word32) :=
  match best with
  | none => some s
  | some b => if (sdiff s.2 t).natAbs < (sdiff b.2 t).natAbs then some s else some b

/-- The start nearest the target (R54). -/
def Tb.nearest (t : Word32) (tb : Tb) : Option (Word16 × Word32) := tb.starts.foldl (nearer t) none

end Sys2Proof.Machine
end

