-- ==== Sys2Proof/Machine/Strobes.lean ====
section
/-! DEFINITION. The strobe generator SG (R63 to R72), and STROBE_FIRE. -/

namespace Sys2Proof.Machine

/-- An entry matches this position (R65). -/
def StrobeEntry.isAt (line tick : Nat) (s : StrobeEntry) : Bool :=
  (match s.line with
    | none => true
    | some l => l == line) && s.tick == tick

/-- The pin levels after an entry has fired (R66): set, cleared, or inverted where both masks name a pin. -/
def StrobeEntry.fire (pins : BitVec 6) (s : StrobeEntry) : BitVec 6 :=
  ((pins ||| (s.setMask &&& ~~~ s.clearMask)) &&& ~~~ (s.clearMask &&& ~~~ s.setMask))
    ^^^ (s.setMask &&& s.clearMask)

/-- The pin levels after every matching entry has fired, in index order (R66). -/
def firePosition (line tick : Nat) (schedule : List StrobeEntry) (pins : BitVec 6) : BitVec 6 :=
  (schedule.filter (StrobeEntry.isAt line tick)).foldl StrobeEntry.fire pins

/-- A pending schedule comes into place (R70, R72). -/
def Sg.swap (sg : Sg) : Sg :=
  match sg.holder with
  | none => sg
  | some l => { sg with active := l, holder := none, swaps := Counter.bump sg.swaps }

/-- SG at a frame start: the position of the line being ended does not occur at this tick, so its firing is taken back
(R65, R67), and the new position is yet to match; a pending schedule comes into place. -/
def Sg.frameStart (sg : Sg) : Sg := Sg.swap { sg with pins := sg.prior.getD sg.pins, prior := none }

/-- SG takes the settled schedule at an accepted SETTLE (R68). -/
def Sg.settle (schedule : List StrobeEntry) (sg : Sg) : Sg := { sg with active := schedule, prior := none }

/-- SG's part of a soft reset (R71): pins low, holder vacant, settled schedule in place, counter 0. -/
def Sg.softReset (schedule : List StrobeEntry) : Sg :=
  { pins := 0, active := schedule, holder := none, swaps := 0, prior := none }

/-- SG keeps a schedule for the next frame start (R69). -/
def Sg.hold (schedule : List StrobeEntry) (sg : Sg) : Sg := { sg with holder := some schedule }

/-- A position is to be matched at this tick: the generator runs, the tick has not been matched yet, no
frame start is due at it (R65) and its line is not stretched (R67). -/
def Node.strobeReady (c : Settled) (n : Node) : Bool :=
  n.tb.gen.isSome && n.sg.prior.isNone && !n.tb.frameDue && !n.tb.isStretched c

/-- STROBE_FIRE (R66): the entries that match this tick's position fire, once per tick (log entry 6). -/
def Node.strobeFire (c : Settled) (n : Node) : Node :=
  if n.strobeReady c then
    { n with sg := { n.sg with
      pins := firePosition n.tb.line n.tb.tick n.sg.active n.sg.pins, prior := some n.sg.pins } }
  else n

/-- STROBE_FIRE. -/
def execStrobeFire (s : State) : Host.Outcome State Fault Refusal :=
  s.next (s.node.awake fun n => n.withCfg Node.strobeFire)

end Sys2Proof.Machine
end

