-- ==== Sys2Proof/Machine/Discipline.lean ====
section
/-! DEFINITION. The discipline unit DU (R34 to R62), the frame start as all blocks take it (R21, R22, R192,
R187), and the timebase events. -/

namespace Sys2Proof.Machine

/-! ## Class and rank (R34, R35) -/

/-- A SELF_* state: the node is its own source. -/
def TbState.isSelf : TbState → Bool
  | .selfRef => true
  | .selfHold => true
  | .selfFree => true
  | .followAcq => false
  | .followLock => false

/-- The node's own class (R34). -/
def Du.ownClass (d : Du) : Nat :=
  if d.mon = .locked then 0
  else
    match d.state with
    | .selfHold => if 0 < d.credit then 1 else 2
    | .followLock => if d.srcCls ≤ 1 then 1 else 2
    | _ => 2

/-- A rank as one number: class first, node number second; lower is better (R35). -/
def rankOf (cls : Nat) (node : BitVec 4) : Nat := cls * 16 + node.toNat

/-- A candidate's rank. -/
def Cand.rank (k : Cand) : Nat := rankOf k.cls k.node

/-- Of two candidates the better-ranked. -/
def betterCand (best : Option Cand) (k : Cand) : Option Cand :=
  match best with
  | none => some k
  | some b => if k.rank < b.rank then some k else some b

/-- The best-ranked candidate. -/
def bestCand (l : List Cand) : Option Cand := l.foldl betterCand none

/-- Of two candidates the worse-ranked. -/
def worseCand (worst : Option Cand) (k : Cand) : Option Cand :=
  match worst with
  | none => some k
  | some b => if b.rank < k.rank then some k else some b

/-- The worst-ranked candidate (R36). -/
def worstCand (l : List Cand) : Option Cand := l.foldl worseCand none

/-! ## The places DU fills (R40, R44, R60) -/

/-- SI has this place's message on the carrier: it has started (R44, R172), from the first tick of its start-mark bit on
(the model's choice, log entry 54). -/
def Node.started (n : Node) (p : Place) : Bool :=
  match n.si.onCarrier with
  | none => false
  | some o => o.place == p

/-- An ANNOUNCE that has not started is withdrawn (R44). -/
def Node.withdrawAnnounce (n : Node) : Node :=
  if n.started .announce then n else { n with mh := { n.mh with announce := false } }

/-- The PROBE place gives up a probe not yet started (R40, R172). -/
def Node.emptyProbe (n : Node) : Node :=
  if n.started .probe then n else { n with mh := { n.mh with probe := none } }

/-! ## Selection and the timebase states (R38 to R42) -/

/-- The state R39 brings a node that chooses itself. -/
def Du.selfState (h : Nat) (d : Du) : TbState :=
  if d.mon = .locked then .selfRef
  else
    match d.state with
    | .selfRef => if h = 0 then .selfFree else .selfHold
    | .followLock => if h = 0 then .selfFree else .selfHold
    | .selfHold => .selfHold
    | .selfFree => .selfFree
    | .followAcq => .selfFree

/-- The holdover credit a node would have in the state R39 brings it. -/
def Du.selfCredit (h : Nat) (d : Du) : Nat :=
  match d.state with
  | .selfHold => d.credit
  | _ => h

/-- The class a selection takes for the node itself (R38). -/
def Du.selfClass (h : Nat) (d : Du) : Nat :=
  if d.mon = .locked then 0
  else if d.selfState h = .selfHold && 0 < d.selfCredit h then 1
  else 2

/-- The change is the entry to FOLLOW_LOCK from FOLLOW_ACQ, which keeps Q and the lock count (R41). -/
def isLockEntry (before after : TbState) : Bool := before == .followAcq && after == .followLock

/-- DU's own part of a change of timebase state or source (R41, R42). -/
def Du.enter (h : Nat) (state : TbState) (source : BitVec 4) (d : Du) : Du :=
  { d with
    state := state
    source := source
    lock := if isLockEntry d.state state then d.lock else 0
    tracking := if d.state = .selfRef then false else d.tracking
    credit := if state = .selfHold then h else if d.state = .selfHold then 0 else d.credit
    dValid := if source = d.source then d.dValid else false
    probe := if source = d.source then d.probe else none }

/-- TB's part of the change: Q becomes I, and leaving FOLLOW_LOCK drops a pending adoption (R41, R30). -/
def Tb.enter (d : Du) (state : TbState) (tb : Tb) : Tb :=
  { tb with
    q := if isLockEntry d.state state then tb.q else d.i
    adoption := if d.state = .followLock && state != .followLock then none else tb.adoption }

/-- LOCK_LOST is raised by this change (R41). -/
def Du.losesLock (state : TbState) (d : Du) : Bool :=
  (d.state == .followLock && state != .followLock) || (d.state == .selfRef && state != .selfRef && d.tracking)

/-- MH's part: leaving the SELF_* states withdraws an unstarted ANNOUNCE (R44), and a change of source
empties the PROBE place of an unstarted probe (R172). -/
def Node.leavePlaces (d : Du) (state : TbState) (source : BitVec 4) (n : Node) : Node :=
  let n := if d.state.isSelf && !state.isSelf then n.withdrawAnnounce else n
  if source = d.source then n else n.emptyProbe

/-- A change of timebase state or source (R41); none if neither changes. -/
def Node.enter (c : Settled) (state : TbState) (source : BitVec 4) (n : Node) : Node :=
  let d := n.du
  if state = d.state && source = d.source then n
  else
    let n := { n with du := d.enter c.h state source, tb := n.tb.enter d state }
    let n := (n.raiseIf (source != d.source) .sourceChanged).raiseIf (d.losesLock state) .lockLost
    n.leavePlaces d state source

/-- The node chooses itself (R39). -/
def Node.chooseSelf (c : Settled) (n : Node) : Node := n.enter c (n.du.selfState c.h) n.rh.straps.node

/-- The node follows this source already. -/
def Du.follows (d : Du) (source : BitVec 4) : Bool := !d.state.isSelf && d.source == source

/-- The node chooses a peer (R40). -/
def Node.choosePeer (c : Settled) (k : Cand) (n : Node) : Node :=
  if n.du.follows k.node then n
  else
    let n := n.enter c .followAcq k.node
    Node.emptyProbe
      { n with du := { n.du with srcCls := k.cls, dValid := false, probe := none, countdown := 0 } }

/-- The class as the state has it (R34); a node that is its own source has its own class as source class
(log entry 9). -/
def Du.recompute (d : Du) : Du :=
  { d with cls := d.ownClass, srcCls := if d.state.isSelf then d.ownClass else d.srcCls }

/-- A selection (R38). The class change it causes starts no other. -/
def Node.select (c : Settled) (n : Node) : Node :=
  let own := rankOf (n.du.selfClass c.h) n.rh.straps.node
  let n := match bestCand n.du.cands with
    | none => n.chooseSelf c
    | some k => if k.rank < own then n.choosePeer c k else n.chooseSelf c
  { n with du := n.du.recompute }

/-- The class is recomputed, and a change of it starts a selection (R34). -/
def Node.refreshClass (c : Settled) (n : Node) : Node :=
  if n.du.ownClass = n.du.cls then n else n.select c

/-! ## Frame starts (R22) -/

/-- The holdover credit has run out (R42). -/
def Node.expireHoldover (c : Settled) (n : Node) : Node :=
  ((n.enter c .selfFree n.du.source).raise .holdoverExpired).refreshClass c

/-- HOLDOVER_SPEND (R42), with the expiry that follows at 0. -/
def Node.spendCredit (c : Settled) (n : Node) : Node :=
  if n.du.state = .selfHold then
    let n := { n with du := { n.du with credit := n.du.credit - 1 } }
    if n.du.credit = 0 then n.expireHoldover c else n
  else n

/-- The entries that have not aged out (R37). -/
def youngCands (m : Nat) (l : List Cand) : List Cand := l.filter fun k => k.age < 3 * m

/-- The removal of every entry whose age has reached 3 M, and the one selection it starts (R37, log entry 8). -/
def Node.removeAged (c : Settled) (n : Node) : Node :=
  if (youngCands c.m n.du.cands).length = n.du.cands.length then n
  else Node.select c { n with du := { n.du with cands := youngCands c.m n.du.cands } }

/-- CANDIDATE_AGEING (R37), with the removals that follow. -/
def Node.ageCands (c : Settled) (n : Node) : Node :=
  Node.removeAged c
    { n with du := { n.du with cands := n.du.cands.map fun k => { k with age := k.age + 1 } } }

/-- The probe is abandoned (R46). -/
def Du.abandonProbe (d : Du) : Du := { d with probe := none, probeAbandoned := Counter.bump d.probeAbandoned }

/-- The outstanding probe's timeout falls by 1 and runs out at 0 (R46). -/
def Du.lowerProbe (d : Du) : Du :=
  match d.probe with
  | none => d
  | some p => if p.frames ≤ 1 then d.abandonProbe else { d with probe := some { p with frames := p.frames - 1 } }

/-- A probe is called for, the countdown having been lowered (R45). -/
def Node.wantsProbe (n : Node) : Bool :=
  !n.du.state.isSelf && !n.si.listenOnly && n.mh.probe.isNone && n.du.probe.isNone
    && (!n.du.dValid || n.du.countdown == 0)

/-- PROBE_QUEUE (R45). -/
def Node.queueProbe (c : Settled) (n : Node) : Node :=
  let n := { n with du := { n.du with countdown := n.du.countdown - 1 } }
  if n.wantsProbe then
    { n with mh := { n.mh with probe := some n.du.source }, du := { n.du with countdown := 4 * c.m } }
  else n

/-- The node may announce: a SELF_* state, RUNNING and not listen-only (R43). -/
def Node.mayAnnounce (n : Node) : Bool :=
  n.du.state.isSelf && n.rh.lifecycle == .running && !n.si.listenOnly

/-- ANNOUNCE_QUEUE (R43). -/
def Node.queueAnnounce (c : Settled) (n : Node) : Node :=
  if n.tb.frameNo.toNat % c.m = 0 && n.mayAnnounce then { n with mh := { n.mh with announce := true } } else n

/-- RUNTIME_APPLY (R192): pending items but for listen-only move into the runtime set; a preset is used up
or discarded at this start (R29). -/
def Rh.applyRuntime (rh : Rh) : Rh :=
  { rh with
    runtime :=
      { mask := rh.pending.mask.getD rh.runtime.mask, w := rh.pending.w.getD rh.runtime.w
        mode := rh.pending.mode.getD rh.runtime.mode
        threshold := rh.pending.threshold.getD rh.runtime.threshold
        lead := rh.pending.lead.getD rh.runtime.lead }
    pending := { PendingSet.none with listenOnly := rh.pending.listenOnly } }

/-- JOINING_COUNT (R187), with the entry to RUNNING at 0. -/
def Rh.countJoining (rh : Rh) : Rh :=
  match rh.lifecycle with
  | .joining => if rh.joining ≤ 1 then { rh with joining := 0, lifecycle := .running }
    else { rh with joining := rh.joining - 1 }
  | _ => rh

/-- What TB, SG and RH do at a frame start (R21, R70, R192, R187). -/
def Node.frameStartTb (c : Settled) (n : Node) : Node :=
  { n with
    tb := n.tb.frameStart c n.rh.pending.preset
    sg := n.sg.frameStart
    rh := n.rh.applyRuntime.countJoining }

/-- What DU does at a frame start, in the order of R22. -/
def Node.frameStartDu (c : Settled) (n : Node) : Node :=
  let n := (n.spendCredit c).ageCands c
  Node.queueAnnounce c (Node.queueProbe c { n with du := n.du.lowerProbe })

/-- A frame start (R21, R22). -/
def Node.frameStart (c : Settled) (n : Node) : Node := (n.frameStartTb c).frameStartDu c

/-! ## Step or slew (R56 to R58) -/

/-- The phase error reduced into (−P/2, +P/2] (R56). -/
def reduceError (p : Nat) (e : Int) : Int := if (p : Int) < 2 * (e % p) then e % p - p else e % p

/-- A value clamped to ±1023 (R57). -/
def clamp (k : Int) : Int := max (-1023) (min 1023 k)

/-- Qp, for measurements every `m` frames (R57); `tdiv` truncates. -/
def propTerm (m : Nat) (e : Int) : Int := clamp ((-8 * e).tdiv m)

/-- The new I (R57). -/
def newIntegral (m : Nat) (e i : Int) : Int := clamp (i + (propTerm m e).tdiv 8)

/-- The new Q (R57). -/
def newTrim (m : Nat) (e i : Int) : Int := clamp (newIntegral m e i + propTerm m e)

/-- A step (R56, R23): TB moves the next frame start, Q becomes I, a locked follower goes back to FOLLOW_ACQ,
and a frame whose moved start is not later than the present E ends at once (R24). -/
def Node.stepBy (c : Settled) (e : Int) (n : Node) : Node :=
  let isRef := n.du.state == .selfRef
  let lost := isRef && n.du.tracking
  let n := { n with
    tb := { n.tb.requestStep e with q := n.du.i }
    du := { n.du with
      lock := 0, tracking := !isRef && n.du.tracking, steps := Counter.bump n.du.steps } }
  let n := (n.raise .step).raiseIf lost .lockLost
  let n := if n.du.state = .followLock then (n.enter c .followAcq n.du.source).refreshClass c else n
  if n.tb.frameDue then n.frameStart c else n

/-- The lock count reaches 4 (R58). -/
def Node.gainLock (c : Settled) (n : Node) : Node :=
  match n.du.state with
  | .followAcq => ((n.enter c .followLock n.du.source).raise .lockGained).refreshClass c
  | .selfRef => Node.raise { n with du := { n.du with tracking := true } } .lockGained
  | _ => n

/-- A slew's error was outside LOCK_WINDOW (R58). -/
def Node.loseTracking (n : Node) : Node :=
  if n.du.state = .selfRef && n.du.tracking then
    Node.raise { n with du := { n.du with tracking := false } } .lockLost
  else n

/-- A slew (R57, R58). -/
def Node.slew (c : Settled) (m : Nat) (e : Int) (n : Node) : Node :=
  let before := n.du.lock
  let n := { n with
    tb := { n.tb with q := newTrim m e n.du.i }
    du := { n.du with
      i := newIntegral m e n.du.i
      lock := if e.natAbs ≤ c.lockWindow then min 4 (before + 1) else 0 } }
  if e.natAbs ≤ c.lockWindow then
    if n.du.lock = 4 && before != 4 then n.gainLock c else n
  else n.loseTracking

/-- The correction of a phase error measured every `m` frames (R56). -/
def Node.correct (c : Settled) (m : Nat) (e : Int) (n : Node) : Node :=
  if c.stepLimit < (reduceError c.period e).natAbs then n.stepBy c (reduceError c.period e)
  else n.slew c m (reduceError c.period e)

/-! ## Phase from an ANNOUNCE (R36, R53, R54, R59) -/

/-- The candidate table after an ANNOUNCE, and whether it changed; none if the ANNOUNCE is ignored (R36). A refreshed
entry keeps its place and a new one goes to the end, which is the order in which STATUS lists them: R37 names none (the
model's choice, log entry 43). -/
def tableAfter (node : BitVec 4) (cls : Nat) (l : List Cand) : Option (List Cand × Bool) :=
  match l.find? (fun k => k.node == node) with
  | some k => some (l.map (fun k => if k.node = node then ⟨node, cls, 0⟩ else k), k.cls != cls)
  | none =>
    if l.length < 4 then some (l ++ [⟨node, cls, 0⟩], true)
    else
      match worstCand l with
      | none => none
      | some w => if rankOf cls node < w.rank then some (l.erase w ++ [⟨node, cls, 0⟩], true) else none

/-- The advance A (R53). -/
def Node.advanceA (n : Node) : Nat :=
  match n.rh.straps.role with
  | .head => n.du.dEst + n.rh.runtime.lead
  | .base => 0

/-- The target T of an ANNOUNCE (R53), modulo 2^32. -/
def Node.target (a : AnnounceBody) (stamp : Word32) (n : Node) : Word32 :=
  stamp - BitVec.ofNat 32 n.du.dEst - a.s - BitVec.ofNat 32 n.advanceA

/-- The four conditions of a measurement from an ANNOUNCE (R53). -/
def Node.canMeasure (sender : BitVec 4) (n : Node) : Bool :=
  n.du.follows sender && n.du.dValid && !n.tb.history.isEmpty

/-- TB relabels a start at DU's request, unless the start carries the number already (R54, R26). -/
def Node.relabel (label nSrc : Word16) (n : Node) : Node :=
  if label = nSrc then n else Node.raise { n with tb := n.tb.renumber label nSrc } .renumbered

/-- The measurement (R53, R54) and its correction. -/
def Node.measureAnnounce (c : Settled) (a : AnnounceBody) (stamp : Word32) (n : Node) : Node :=
  match n.tb.entry a.nSrc with
  | some h => n.correct c c.m (sdiff h.e (n.target a stamp))
  | none =>
    match n.tb.nearest (n.target a stamp) with
    | none => n
    | some (label, e) => (n.relabel label a.nSrc).correct c c.m (sdiff e (n.target a stamp))

/-- Phase and hand-off, if the conditions hold (R53, R59). -/
def Node.followAnnounce (c : Settled) (sender : BitVec 4) (a : AnnounceBody) (stamp : Word32) (n : Node) : Node :=
  if n.canMeasure sender then
    let n := n.measureAnnounce c a stamp
    if n.du.state = .followLock then { n with tb := n.tb.handOff c a.timecode a.nSrc } else n
  else n

/-- An ANNOUNCE that changes nothing but the counter (R36). -/
def Node.ignoreAnnounce (n : Node) : Node :=
  { n with du := { n.du with announceIgnored := Counter.bump n.du.announceIgnored } }

/-- DU takes an updated table (R36), and with it, before the selection, the class that the selected source announces
(R34, R36; when it takes this class is the model's choice, log entry 63). -/
def Du.takeTable (sender : BitVec 4) (cls : Nat) (l : List Cand) (d : Du) : Du :=
  { d with cands := l, srcCls := if d.follows sender then cls else d.srcCls }

/-- DU deals with an ANNOUNCE, in the order of R36; the source class, to which R36 gives no place in that order, is set
with the table, and a class of the node's own that differs then starts the selection (the model's choice, log entry
63). -/
def Node.announced (c : Settled) (key : Key) (payload : List Byte) (stamp : Word32) (n : Node) : Node :=
  let sender := announceNode key
  let cls := announceClass key
  if sender = n.rh.straps.node || cls = 3 then n.ignoreAnnounce
  else
    match tableAfter sender cls n.du.cands with
    | none => n.ignoreAnnounce
    | some (l, changed) =>
      let n := { n with du := n.du.takeTable sender cls l }
      let n := if changed then n.select c else n.refreshClass c
      let n := if rankOf cls sender < rankOf n.du.cls n.rh.straps.node then n.withdrawAnnounce else n
      n.followAnnounce c sender (AnnounceBody.ofBytes payload) stamp

/-! ## Delay (R47 to R49) -/

/-- The raw delay of a round trip (R48); `/` of an `Int` by 2 is the floor. -/
def rawDelay (t1 t2 t3 t4 : Word32) : Int := (sdiff t2 t1 + sdiff t4 t3) / 2

/-- The delay estimate after an accepted measurement (R48). -/
def Du.filterDelay (dNew : Nat) (d : Du) : Du :=
  { d with
    dEst := if d.dValid then ((d.dEst : Int) + ((dNew : Int) - d.dEst).tdiv 4).toNat else dNew
    dValid := true }

/-- DELAY_ESTIMATE and DELAY_MARGIN (R48, R49). -/
def Node.takeDelay (c : Settled) (dNew : Int) (n : Node) : Node :=
  if dNew < 0 || 4095 < dNew then
    { n with du := { n.du with implausible := Counter.bump n.du.implausible } }
  else
    let n := { n with du := n.du.filterDelay dNew.toNat }
    n.raiseIf (c.propTicks < 2 * n.du.dEst) .delayMargin

/-- A reply addressed to the node that it cannot use (R47). -/
def Node.discardReply (n : Node) : Node :=
  { n with du := { n.du with replyDiscarded := Counter.bump n.du.replyDiscarded } }

/-- DU takes a DELAY_REPLY (R47). -/
def Node.delayReply (c : Settled) (key : Key) (payload : List Byte) (stamp : Word32) (n : Node) : Node :=
  if Key.first key = n.rh.straps.node then
    match n.du.probe with
    | none => n.discardReply
    | some p =>
      if n.du.follows (Key.second key) && p.target == n.du.source then
        Node.takeDelay c
          (rawDelay p.t1 (BitVec.ofNat 32 (field payload 0 4)) (BitVec.ofNat 32 (field payload 4 4)) stamp)
          { n with du := { n.du with probe := none } }
      else n.discardReply
  else n

/-! ## The reference monitor (R51, R52, R55) -/

/-- A pulse at this E is valid (R51). -/
def Du.pulseValid (c : Settled) (e : Word32) (d : Du) : Bool :=
  match d.mon, d.anchor with
  | .absent, _ => true
  | _, none => true
  | _, some a => (sdiff e (eAdd a c.period)).natAbs ≤ c.period / 64

/-- The monitor's state after a valid pulse that makes the valid count `k` (R51). -/
def MonState.afterValid (k : Nat) : MonState → MonState
  | .absent => .checking
  | .checking => if 4 ≤ k then .locked else .checking
  | .locked => .locked

/-- The monitor takes a valid pulse (R51). -/
def Du.takeValid (e : Word32) (d : Du) : Du :=
  { d with
    mon := d.mon.afterValid (d.validRun + 1), anchor := some e
    validRun := d.validRun + 1, invalidRun := 0 }

/-- The monitor returns to ABSENT (R52). -/
def Node.loseReference (c : Settled) (n : Node) : Node :=
  let wasLocked := n.du.mon == .locked
  let n := { n with du := { n.du with mon := .absent, anchor := none, validRun := 0, invalidRun := 0 } }
  (n.raiseIf wasLocked .referenceLost).refreshClass c

/-- PHASE_MEASURE_REFIN (R55), in SELF_REF with the monitor LOCKED and a history. -/
def Node.measurePulse (c : Settled) (n : Node) : Node :=
  if n.du.state = .selfRef && n.du.mon = .locked && !n.tb.history.isEmpty then
    match n.tb.nearest (eAdd n.tb.e c.rOff) with
    | none => n
    | some (_, e) => n.correct c 1 (sdiff e (eAdd n.tb.e c.rOff))
  else n

/-- An invalid pulse (R51, R52). -/
def Node.invalidPulse (c : Settled) (n : Node) : Node :=
  let n := { n with du := { n.du with invalidRun := n.du.invalidRun + 1, validRun := 0 } }
  if 3 ≤ n.du.invalidRun then n.loseReference c else n

/-- A REFIN pulse at the present E (R51). -/
def Node.pulse (c : Settled) (n : Node) : Node :=
  if n.du.pulseValid c n.tb.e then
    Node.measurePulse c (Node.refreshClass c { n with du := n.du.takeValid n.tb.e })
  else n.invalidPulse c

/-- 3 × P ticks have passed after the anchor with no valid pulse (R52, log entry 33). -/
def Node.silenceDue (c : Settled) (n : Node) : Bool :=
  match n.du.mon, n.du.anchor with
  | .absent, _ => false
  | _, none => false
  | _, some a => (3 * c.period : Int) ≤ sdiff n.tb.e a

/-! ## DU's part of SETTLE and of a soft reset (R62) -/

/-- DU after a soft reset (R62): the monitor and I are kept. -/
def Du.softReset (node : BitVec 4) (d : Du) : Du :=
  { Du.powerOn node with
    state := if d.mon = .locked then .selfRef else .selfFree
    cls := if d.mon = .locked then 0 else 2
    srcCls := if d.mon = .locked then 0 else 2
    dEst := d.dEst
    i := d.i
    mon := d.mon, anchor := d.anchor, validRun := d.validRun, invalidRun := d.invalidRun }

/-! ## The commands -/

/-- FRAME_START (R21), when one is due. -/
def execFrameStart (s : State) : Host.Outcome State Fault Refusal :=
  s.next (s.node.awake fun n => n.withCfg fun c n => if n.tb.frameDue then n.frameStart c else n)

/-- The move to RUNNING by itself, when the joining count stands at 0 (R187, log entry 5), with the check of
R43 at this frame start. -/
def Node.enterRunning (c : Settled) (n : Node) : Node :=
  if n.rh.lifecycle = .joining && n.rh.joining = 0 then
    Node.queueAnnounce c { n with rh := { n.rh with lifecycle := .running } }
  else n

/-- RUNNING_ENTRY (R187). -/
def execRunningEntry (s : State) : Host.Outcome State Fault Refusal :=
  s.next (s.node.awake fun n => n.withCfg Node.enterRunning)

/-- CANDIDATE_REMOVED (R37): entries whose age has reached 3 M (log entry 5). -/
def execCandidateRemoved (s : State) : Host.Outcome State Fault Refusal :=
  s.next (s.node.awake fun n => n.withCfg Node.removeAged)

/-- HOLDOVER_EXPIRED (R42): the credit stands at 0 in SELF_HOLD (log entry 5). -/
def execHoldoverExpired (s : State) : Host.Outcome State Fault Refusal :=
  s.next (s.node.awake fun n => n.withCfg fun c n =>
    if n.du.state = .selfHold && n.du.credit = 0 then n.expireHoldover c else n)

/-- The outstanding probe's timeout has run out. -/
def Du.probeExpired (d : Du) : Bool :=
  match d.probe with
  | none => false
  | some p => p.frames == 0

/-- PROBE_TIMEOUT (R46): the timeout stands at 0 (log entry 5). -/
def execProbeTimeout (s : State) : Host.Outcome State Fault Refusal :=
  s.next (s.node.awake fun n => if n.du.probeExpired then { n with du := n.du.abandonProbe } else n)

/-- REFIN_PULSE (R51); ignored before the first accepted SETTLE. -/
def execRefinPulse (s : State) : Host.Outcome State Fault Refusal :=
  s.next (s.node.awake fun n => n.withCfg Node.pulse)

/-- REFERENCE_SILENCE (R52), when the silence timer has run out. -/
def execReferenceSilence (s : State) : Host.Outcome State Fault Refusal :=
  s.next (s.node.awake fun n => n.withCfg fun c n => if n.silenceDue c then n.loseReference c else n)

end Sys2Proof.Machine
end

