-- ==== Sys2Proof/Machine/Service.lean ====
section
/-! DEFINITION. The service interface SI (R150 to R169) and its commands, with MH's choice of a message and its
reports to the owners (R172, R173, R175, R177, R182). -/

namespace Sys2Proof.Machine

/-! ## States and counts (R162, R163) -/

/-- SI takes part in messages: settled and past integration. -/
def SiState.isOn : SiState → Bool
  | .off => false
  | .integrating => false
  | .active => true
  | .guarded => true
  | .silenced => true

/-- The state TEC and REC call for (R163). -/
def Si.countState (si : Si) : SiState :=
  if 192 ≤ si.tec then .silenced
  else if 96 ≤ si.tec || 96 ≤ si.recCount then .guarded
  else .active

/-- SI in the state its counts call for; the guarded wait ends with GUARDED, and SILENCED begins its
recovery (R163, R164). -/
def Si.moveTo (t : SiState) (si : Si) : Si :=
  { si with
    state := t
    guardWait := if t = .guarded then si.guardWait else none
    recovery := if t = .silenced then 0 else si.recovery
    recoveryRun := if t = .silenced then 0 else si.recoveryRun }

/-- In ACTIVE and GUARDED the state follows the counts, with its notices (R163, R166). -/
def Node.followCounts (n : Node) : Node :=
  if (n.si.state = .active || n.si.state = .guarded) && n.si.countState != n.si.state then
    let t := n.si.countState
    (Node.raise { n with si := n.si.moveTo t } .serviceState).raiseIf (t == .silenced) .silenced
  else n

/-! ## Listen-only (R60, R167) -/

/-- A new value of the flag takes effect at an idle point (R167): a node strapped as 15 keeps it set; setting it
empties the ANNOUNCE and PROBE places of messages not yet started (R60). -/
def Node.setListenOnly (v : Bool) (n : Node) : Node :=
  let flag := v || n.rh.straps.node == 15
  let n := { n with
    si := { n.si with listenOnly := flag }
    rh := { n.rh with pending := { n.rh.pending with listenOnly := none } } }
  if flag then n.withdrawAnnounce.emptyProbe else n

/-- A pending value takes effect (R167, R192). -/
def Node.takeListenOnly (n : Node) : Node :=
  match n.rh.pending.listenOnly with
  | none => n
  | some v => n.setListenOnly v

/-- The carrier is idle at the node (R155), up to the sample of the next start mark (the model's choice, log entry 56).
-/
def Node.isIdle (n : Node) : Bool := n.si.state.isOn && n.si.onCarrier.isNone && n.si.phase == .idle

/-! ## MH's choice (R173, R181, R182) -/

/-- A message a place offers. -/
structure Offer where
  place : Place
  key : Key
  payload : List Byte
  deriving DecidableEq, Repr

/-- The message of a PENDING slot. -/
def Slot.pendingMail (s : Slot) : Option TxMail :=
  match s.state with
  | .pending m => some m
  | _ => none

/-- The offers of the PENDING slots from index `i` on. -/
def slotOffers : Nat → List Slot → List Offer
  | _, [] => []
  | i, s :: rest =>
    match s.pendingMail with
    | none => slotOffers (i + 1) rest
    | some m => ⟨.slot i, m.key, m.payload⟩ :: slotOffers (i + 1) rest

/-- Of two offers the one with the lower key, the earlier of equals. -/
def lowerOffer (best : Option Offer) (o : Offer) : Option Offer :=
  match best with
  | none => some o
  | some b => if o.key.toNat < b.key.toNat then some o else some b

/-- The offer with the lowest key, the first of equals. -/
def lowestOffer (l : List Offer) : Option Offer := l.foldl lowerOffer none

/-- The mail candidate under the transmit order mode (R173). -/
def mailCandidate (order : OrderMode) (slots : List Slot) : Option Offer :=
  match order with
  | .key => lowestOffer (slotOffers 0 slots)
  | .index => (slotOffers 0 slots).head?

/-- The ANNOUNCE's payload as its stamp fixes it (R43, R156). -/
def Node.announceBody (n : Node) : AnnounceBody :=
  { t3 := n.tb.e
    s := match n.tb.gen with
      | none => 0
      | some g => n.tb.e - g.start
    nSrc := n.tb.frameNo, timecode := n.tb.tc }

/-- The pending ANNOUNCE; started only where R43 lets it be (log entry 18). -/
def Node.announceOffer (n : Node) : List Offer :=
  if n.mh.announce && n.mayAnnounce then
    [⟨.announce, announceKey n.du.cls n.rh.straps.node, n.announceBody.bytes⟩]
  else []

/-- The pending DELAY_PROBE (R45). -/
def Node.probeOffer (n : Node) : List Offer :=
  match n.mh.probe with
  | none => []
  | some target => [⟨.probe, nodesKey 2 target n.rh.straps.node, []⟩]

/-- The oldest reply of the reply queue, its t3 the present E (R156, R174, R175). -/
def Node.replyOffer (n : Node) : List Offer :=
  match n.mh.replies with
  | [] => []
  | r :: _ => [⟨.reply, nodesKey 3 r.requester n.rh.straps.node, u32 r.t2.toNat ++ u32 n.tb.e.toNat⟩]

/-- The pending CONTROL_REPLY (R176, R177). -/
def Node.controlOffer (n : Node) : List Offer :=
  match n.mh.controlReply with
  | none => []
  | some r => [⟨.controlReply, nodesKey 5 r.requester n.rh.straps.node, r.payload⟩]

/-- MH's choice (R173): the lowest key among the internal places and the mail candidate. -/
def Node.choose (c : Settled) (n : Node) : Option Offer :=
  lowestOffer (n.announceOffer ++ n.probeOffer ++ n.replyOffer ++ n.controlOffer
    ++ (mailCandidate c.order n.mh.slots).toList)

/-! ## A slot's state -/

/-- Slot `i`; a slot that is not there is UNUSED. -/
def Mh.slot (mh : Mh) (i : Nat) : Slot := mh.slots.getD i ⟨.unused, .unused⟩

/-- Slot `i` in a new state. -/
def Mh.setSlot (i : Nat) (s : SlotState) (mh : Mh) : Mh :=
  { mh with slots := mh.slots.set i ⟨(mh.slot i).defn, s⟩ }

/-- SI takes a slot's message to offer: SENDING (R182). -/
def Mh.takeOffer (p : Place) (mh : Mh) : Mh :=
  match p with
  | .slot i =>
    match (mh.slot i).state with
    | .pending m => mh.setSlot i (.sending m)
    | _ => mh
  | _ => mh

/-- A message that lost arbitration is pending again in its place (R157, R182). -/
def Mh.giveUpOffer (p : Place) (mh : Mh) : Mh :=
  match p with
  | .slot i =>
    match (mh.slot i).state with
    | .sending m => mh.setSlot i (.pending m)
    | _ => mh
  | _ => mh

/-! ## The start mark (R156, R157, R173) -/

/-- SI may send (R157). -/
def Si.maySend (si : Si) : Bool :=
  !si.listenOnly && (si.state == .active || (si.state == .guarded && si.guardWait.isNone))

/-- The node stands at the third interspace bit, before the idle point (R155). -/
def Si.isJoining (si : Si) : Bool := si.phase == .interspace && si.spaces == 2

/-- A start mark can begin at the node: it is idle or at the third interspace bit (R155). -/
def Si.awaitsStart (si : Si) : Bool :=
  si.state.isOn && si.onCarrier.isNone && (si.phase == .idle || si.isJoining)

/-- SI begins or joins a start mark at this tick if it has one to send (R155, R173): at a bit boundary of an idle
carrier, or at the edge of a start mark, where alone it joins one (the model's choice, log entry 48). -/
def Si.startPoint (si : Si) : Bool := si.awaitsStart && si.bitPos == 0 && (si.phase == .idle || !si.level)

/-- An offer on the carrier, stamped with the present E (R156): its start-mark bit begins at this tick. -/
def Node.beginMessage (o : Offer) (n : Node) : Node :=
  { n with
    mh := n.mh.takeOffer o.place
    si := { n.si with
      onCarrier := some ⟨o.place, o.key, o.payload, n.tb.e, messageBits o.key o.payload, false⟩
      rxStamp := none, phase := .receiving, spaces := 0, bitPos := 0, bitNo := 0, tx := false
      resynced := false, reading := Reading.empty, found := none, acked := false } }

/-- An idle carrier lets a pending listen-only value take effect (R167). -/
def Node.atIdlePoint (n : Node) : Node := if n.isIdle then n.takeListenOnly else n

/-- SI begins a start mark with the message MH chooses, if it may send (R157, R173). -/
def Node.offer (c : Settled) (n : Node) : Node :=
  if n.si.maySend then
    match n.choose c with
    | none => n
    | some o => n.beginMessage o
  else n

/-- SI begins or joins a start mark where it can begin or join one, at idle after a pending listen-only value has taken
effect (R155, R167, R173). -/
def Node.messageStart (c : Settled) (n : Node) : Node := if n.si.startPoint then n.atIdlePoint.offer c else n

/-! ## The end of an own message (R158, R161, R163) -/

/-- A node that is GUARDED when its own message ends waits after it (R163); one that becomes GUARDED only by an error in
the interspace after it starts no wait (the model's choice, log entry 62). -/
def Si.afterOwn (si : Si) : Si := { si with guardWait := if si.state = .guarded then some 8 else none }

/-- What the owner of a place does at the end of its message: the places emptied (the table after R177). -/
def Mh.ended (p : Place) (sent : Bool) (mh : Mh) : Mh :=
  match p with
  | .announce => { mh with announce := false }
  | .probe => { mh with probe := none }
  | .reply => { mh with replies := mh.replies.tail }
  | .controlReply => { mh with controlReply := none }
  | .slot i => mh.setSlot i (if sent then .done else .failed)

/-- DU records the probe that was sent (R46). -/
def Du.recordProbe (target : Option (BitVec 4)) (stamp : Word32) (d : Du) : Du :=
  match target with
  | none => d
  | some t => { d with probe := some ⟨t, stamp, 4⟩ }

/-- DU's part of a report: a sent probe is recorded, a failed one abandoned (R46). -/
def Node.reportDu (p : Place) (sent : Bool) (stamp : Word32) (n : Node) : Node :=
  match p with
  | .probe =>
    { n with du := if sent then n.du.recordProbe n.mh.probe stamp
        else { n.du with probeAbandoned := Counter.bump n.du.probeAbandoned } }
  | _ => n

/-- A place is a mail slot. -/
def Place.isSlot : Place → Bool
  | .slot _ => true
  | _ => false

/-- SI reports the end of a message to its owner (R158, R161, R182). -/
def Node.report (p : Place) (sent : Bool) (stamp : Word32) (n : Node) : Node :=
  let n := n.reportDu p sent stamp
  Node.raiseIf { n with mh := n.mh.ended p sent } p.isSlot .mailSent

/-- A sent message completes (R158). -/
def Node.messageSent (c : Settled) (n : Node) : Node :=
  match n.si.onCarrier with
  | none => n
  | some o =>
    if o.failed then n
    else
      let n := Node.followCounts { n with si := { n.si with
        onCarrier := none, tec := n.si.tec - 1, sentOk := Counter.bump n.si.sentOk
        phase := .interspace, spaces := 0, bitPos := c.sampleTicks, found := none } }
      Node.report o.place true o.stamp { n with si := n.si.afterOwn }

/-- A message of the node's own fails (R161): by its own error or another node's burst. -/
def Node.messageFailed (n : Node) : Node :=
  match n.si.onCarrier with
  | none => n
  | some o =>
    Node.report o.place false o.stamp
      { n with si := Si.afterOwn { n.si with
        onCarrier := none, sendFailed := Counter.bump n.si.sendFailed, found := none
        phase := .recovering, spaces := if o.failed then n.si.spaces else 0 } }

/-- SI stops driving and receives the message in progress from this bit on, with the stamp of its own start mark (R156,
R157). -/
def Si.becomeReceiver (stamp : Word32) (si : Si) : Si :=
  { si with
    onCarrier := none, rxStamp := some stamp, phase := .receiving, tx := true, found := none
    arbitrationLost := Counter.bump si.arbitrationLost }

/-- Arbitration lost at a key bit (R157): the message is pending again. -/
def Node.loseArbitration (n : Node) : Node :=
  match n.si.onCarrier with
  | none => n
  | some o =>
    if o.failed then n
    else
      let n := { n with mh := n.mh.giveUpOffer o.place, si := n.si.becomeReceiver o.stamp }
      if n.du.state.isSelf then n else n.withdrawAnnounce

/-! ## The bits SI drives (R150, R158, R160) -/

/-- The node marks the acknowledge slot of a message it finds correct (R158). -/
def Si.acknowledges (si : Si) : Bool := !si.listenOnly && (si.state == .active || si.state == .guarded)

/-- The node marks the bit that begins as the acknowledge slot of another's message (R158). -/
def Si.marksSlot (si : Si) : Bool :=
  si.onCarrier.isNone && si.phase == .receiving && si.reading.atSlot && si.acknowledges

/-- The level SI drives in the bit that begins (R150, R158, R160): a mark of its burst, a bit of its own message until
an error is found in it, an acknowledge mark, else a space. -/
def Si.nextLevel (si : Si) : Bool :=
  if si.burst != 0 && si.burstWait == 0 then false
  else
    match si.onCarrier with
    | some o => o.failed || o.bits.getD si.bitNo true
    | none => !si.marksSlot

/-- A bit begins: the burst and the wait before it run down by the bit that ended, and SI drives its level. -/
def Si.newBit (si : Si) : Si :=
  let si := { si with
    bitNo := if si.phase = Phase.receiving then si.bitNo + 1 else 0
    resynced := false
    burst := if si.burstWait = 0 then si.burst - 1 else si.burst
    burstWait := si.burstWait - 1 }
  { si with tx := si.nextLevel, acked := si.acked || si.marksSlot }

/-! ## Errors (R159 to R162) -/

/-- An own message is on the carrier in which no error has been found yet (R159: at most one per message). -/
def Si.cleanOwn (si : Si) : Bool :=
  match si.onCarrier with
  | none => false
  | some o => !o.failed

/-- An error of this kind can be found here (R159): a sender's in its own message, a receiver's without one; none
between an error and the idle carrier after it. -/
def Si.canErr (kind : CarrierError) (si : Si) : Bool :=
  si.state.isOn && si.phase != .recovering &&
    (match kind with
      | .echo => si.cleanOwn
      | .symbol => si.onCarrier.isNone || si.cleanOwn
      | .check => si.onCarrier.isNone
      | .noAck => si.cleanOwn)

/-- TEC after an error in an own message (R162). -/
def tecAfter (kind : CarrierError) (tec : Nat) : Nat :=
  if kind = .noAck && 96 ≤ tec then tec else min 255 (tec + 4)

/-- The counters and counts after an error (R159, R162). -/
def Si.countError (kind : CarrierError) (si : Si) : Si :=
  let own := si.onCarrier.isSome
  { si with
    tec := if own then tecAfter kind si.tec else si.tec
    recCount := if own || si.state = .silenced then si.recCount else min 255 (si.recCount + 1)
    echoErrors := if kind = .echo then Counter.bump si.echoErrors else si.echoErrors
    symbolErrors := if kind = .symbol then Counter.bump si.symbolErrors else si.symbolErrors
    checkErrors := if kind = .check then Counter.bump si.checkErrors else si.checkErrors
    noAckErrors := if kind = .noAck then Counter.bump si.noAckErrors else si.noAckErrors }

/-- The message found bad and the wait for 10 spaces, with a burst of 8 marks from an ACTIVE node (R160): from the
next bit, or after the acknowledge slot and delimiter for a check error (R159). An error that the sample did not find
comes after marks, which end the space run of R164, and stands at the sample point (log entry 15). -/
def Si.voidMessage (c : Settled) (kind : CarrierError) (wasActive : Bool) (si : Si) : Si :=
  let sends := wasActive && !si.listenOnly && si.state != .silenced
  { si with
    onCarrier := si.onCarrier.map fun o => { o with failed := true }
    rxStamp := none, phase := .recovering, spaces := 0, found := none
    bitPos := if si.found.isSome then si.bitPos else c.sampleTicks
    recoveryRun := if si.state = .silenced && si.found.isNone then 0 else si.recoveryRun
    guardWait := if si.onCarrier.isNone && si.phase != .interspace then none else si.guardWait
    burst := if sends then 8 else si.burst
    burstWait := if sends then if kind = .check then 3 else 1 else si.burstWait }

/-- An edge at the tick of the sample has ended the bit with it (R151): the next bit has begun at this tick. -/
def Si.bitEnded (c : Settled) (si : Si) : Bool := si.found.isSome && si.bitPos < c.sampleTicks

/-- What SI does after an error (R160); a bit that begins at this very tick begins with what follows the error. -/
def Si.afterError (c : Settled) (kind : CarrierError) (wasActive : Bool) (si : Si) : Si :=
  if si.bitEnded c then (si.voidMessage c kind wasActive).newBit else si.voidMessage c kind wasActive

/-- A node finds an error (R159). -/
def Node.serviceError (c : Settled) (kind : CarrierError) (n : Node) : Node :=
  if n.si.canErr kind then
    let wasActive := n.si.state == .active
    let n := Node.followCounts { n with si := n.si.countError kind }
    { n with si := n.si.afterError c kind wasActive }
  else n

/-! ## Waits and recovery (R163 to R165) -/

/-- The guarded wait is over when its 8 spaces have been counted (R163). -/
def Si.endGuard (si : Si) : Si := if si.guardWait = some 0 then { si with guardWait := none } else si

/-- A SILENCED node returns to ACTIVE when the recovery count has reached 48 (R164, R166); that tick is an idle point,
at which a message still being received is given up (the model's choice, log entry 58). -/
def Node.recover (n : Node) : Node :=
  if n.si.state = .silenced && 48 ≤ n.si.recovery then
    Node.raise { n with si := { n.si with
      state := .active, tec := 0, recCount := 0, recovery := 0, recoveryRun := 0
      phase := .idle, spaces := 0, rxStamp := none, found := none } } .serviceState
  else n

/-- Integration ends when 10 spaces have been counted (R165): ACTIVE, the carrier idle. -/
def Si.endIntegration (si : Si) : Si :=
  if si.state = .integrating && 10 ≤ si.spaces then { si with state := .active, phase := .idle, spaces := 0 } else si

/-! ## Reception (R156, R158, R162) -/

/-- SI can have received a message (R158, R165): past integration, with no message of its own on the carrier and no
error found since the carrier was idle (R159; log entry 14). -/
def Si.canReceive (si : Si) : Bool := si.state.isOn && si.onCarrier.isNone && si.phase != .recovering

/-- A bit sampled in SILENCED (R164): a space adds to the run, of which ten raise the recovery count, a mark ends it. -/
def Si.recoveryBit (level : Bool) (si : Si) : Si :=
  match si.state with
  | .silenced =>
    if !level then { si with recoveryRun := 0 }
    else if 10 ≤ si.recoveryRun + 1 then { si with recoveryRun := 0, recovery := si.recovery + 1 }
    else { si with recoveryRun := si.recoveryRun + 1 }
  | _ => si

/-- The bits of a message that came as a command, not sampled at ticks, as R164 counts them (log entry 15). -/
def Si.countSpaces (key : Key) (payload : List Byte) (marked : Bool) (si : Si) : Si :=
  if si.found.isSome then si else (carrierBits key payload marked).foldl (fun si b => si.recoveryBit b) si

/-- A correct message is counted (R158, R162). -/
def Si.countReceived (si : Si) : Si :=
  { si with
    recCount := if si.state = .silenced then si.recCount else si.recCount - 1
    receivedOk := Counter.bump si.receivedOk }

/-- The end of a received message: the interspace begins, a guarded wait is over (R155, R163). -/
def Si.endReceived (c : Settled) (si : Si) : Si :=
  { si with
    rxStamp := none, guardWait := none, phase := .interspace, spaces := 0, bitPos := c.sampleTicks, found := none
    acked := si.acknowledges }

/-- A correct message has ended (R158, R162 to R164). -/
def Node.received (c : Settled) (key : Key) (payload : List Byte) (marked : Bool) (n : Node) : Node :=
  Node.followCounts { n with si := ((n.si.countSpaces key payload marked).countReceived).endReceived c }

/-- A message handed to MH with its start stamp, the one SI has captured where it has (R156), SI's own counts coming
first (the model's choice, log entry 57). `ok` says that the command carries a message of its own kind. -/
def Node.receive (ok : Bool) (key : Key) (payload : List Byte) (stamp : Word32) (marked : Bool)
    (f : Settled → Word32 → Node → Node) (n : Node) : Node :=
  n.withCfg fun c n =>
    if ok && n.si.canReceive then f c (n.si.rxStamp.getD stamp) (n.received c key payload marked) else n

/-! ## The bit clock (R150, R151, R155, R157 to R160, R163 to R165; log entry 15) -/

/-- The bit clock one tick on (R150). -/
def Si.advance (c : Settled) (si : Si) : Si :=
  if c.bitTicks ≤ si.bitPos + 1 then { si.newBit with bitPos := 0 } else { si with bitPos := si.bitPos + 1 }

/-- SI samples a message, or what follows one in which it found an error or whose start it did not see (R151, R160,
R165; log entry 34). -/
def Si.isWithin (si : Si) : Bool := si.phase == .receiving || si.phase == .recovering

/-- An edge from space to mark at this tick resynchronizes the bit (R151): within a message, once, and not while SI is
sending a mark. -/
def Si.mayResync (si : Si) : Bool := si.isWithin && si.tx && !si.resynced

/-- A resynchronization (R151): an edge after the sync segment lengthens or shortens the bit, counted in whole quanta
from the one in which it falls (log entry 34). -/
def Si.resync (c : Settled) (si : Si) : Si :=
  if si.bitPos / c.tq = 0 then si
  else
    let pos := si.bitPos + c.bitTicks - c.resyncTq (si.bitPos / c.tq) * c.tq
    if c.bitTicks ≤ pos then { si.newBit with bitPos := pos - c.bitTicks }
    else { si with bitPos := pos, resynced := true }

/-- A start mark is sampled that the node has not joined (R155): it receives the message it begins, stamped with the
tick at which its bit began (R156). -/
def Si.beginReceiving (e : Word32) (si : Si) : Si :=
  { si with
    phase := .receiving, spaces := 0, bitNo := 0, reading := ⟨[false], 1, 0, false⟩, acked := false
    rxStamp := some (e - BitVec.ofNat 32 si.bitPos) }

/-- A bit of another's message sampled (R158, R159). -/
def Si.foreignBit (si : Si) : Si :=
  match si.reading.take si.level with
  | .error k => { si with found := some (.error k) }
  | .ok r =>
    { si with
      reading := r
      found := if r.tail = 9 then
          match r.content with
          | .error _ => none
          | .ok m => some (.received m.1 m.2 r.marked)
        else none }

/-- What a sender's sample of a bit shows it (R157 to R159): `sent` is the level it drove, `after` its reading with this
bit. Only a space sent and a mark sampled is no error, at a key bit and in the acknowledge slot. -/
def Reading.senderFinds (sent level : Bool) (before after : Reading) : Option Found :=
  if sent = level then
    if before.atSlot then some (.error .noAck)
    else if after.tail = 9 then some .sent
    else none
  else if sent && before.atKeyBit then some .lost
  else if sent && before.atSlot then none
  else some (.error .echo)

/-- A bit of the node's own message sampled. -/
def Si.ownBit (o : OnCarrier) (si : Si) : Si :=
  if o.failed then si
  else
    let after := match si.reading.take si.level with
      | .error _ => si.reading
      | .ok r => r
    { si with reading := after, found := Reading.senderFinds (o.bits.getD si.bitNo true) si.level si.reading after }

/-- A bit of the interspace sampled (R155): after three spaces the carrier is idle, from the sample of the third on (the
model's choice, log entry 49), a mark in the third is a start mark, one before it an error. -/
def Si.interspaceBit (e : Word32) (si : Si) : Si :=
  if si.level then
    if 3 ≤ si.spaces + 1 then { si with phase := .idle, spaces := 0 } else { si with spaces := si.spaces + 1 }
  else if si.spaces = 2 then si.beginReceiving e
  else { si with found := some (.error .symbol) }

/-- A bit sampled while the node waits for 10 spaces, in integration (R165) or after an error (R160). -/
def Si.recoveringBit (si : Si) : Si :=
  if !si.level then { si with spaces := 0 }
  else if si.state = .integrating then { si with spaces := min 10 (si.spaces + 1) }
  else if 10 ≤ si.spaces + 1 then { si with phase := .idle, spaces := 0 }
  else { si with spaces := si.spaces + 1 }

/-- The sample of a bit (R150), at the present E: the carrier's level is the bit's value. -/
def Si.sample (e : Word32) (si : Si) : Si :=
  let si := si.recoveryBit si.level
  match si.phase with
  | .idle => if si.level then { si with guardWait := si.guardWait.map (· - 1) } else si.beginReceiving e
  | .interspace => si.interspaceBit e
  | .receiving =>
    match si.onCarrier with
    | some o => si.ownBit o
    | none => si.foreignBit
  | .recovering => si.recoveringBit

/-- The end of PA samples the bit (R150). -/
def Si.sampleDue (c : Settled) (e : Word32) (si : Si) : Si := if si.bitPos = c.sampleTicks then si.sample e else si

/-- An edge from space to mark (R151): that of a start mark begins a bit, one within a message may resynchronize. -/
def Si.edge (c : Settled) (e : Word32) (si : Si) : Si :=
  if si.awaitsStart then { si with bitPos := 0, resynced := false }
  else if si.mayResync then (si.sampleDue c e).resync c
  else si.sampleDue c e

/-- The carrier's level at this tick, the other nodes' being `rx`: a mark overrides a space. -/
def Si.observe (c : Settled) (e : Word32) (rx : Bool) (si : Si) : Si :=
  if si.level && !(si.tx && rx) then Si.edge c e { si with level := false }
  else Si.sampleDue c e { si with level := si.tx && rx }

/-- One tick of the bit clock at E, the other nodes' level on the carrier being `rx`; OFF, SI samples nothing (R165). -/
def Si.tick (c : Settled) (e : Word32) (rx : Bool) (si : Si) : Si :=
  match si.state with
  | .off => si
  | _ => Si.observe c e rx (Si.advance c { si with found := none })

/-! ## SETTLE, soft reset, clearing -/

/-- SI enters INTEGRATING with the settled bit timing (R165), a bit beginning at this tick, at a soft reset too (the
model's choice, log entry 15). -/
def Si.integrate (si : Si) : Si := { si with state := .integrating, phase := .recovering, spaces := 0, bitPos := 0 }

/-- SI's part of a soft reset (R169); the settled listen-only value is clear, or set for node 15. -/
def Si.softReset (node : BitVec 4) : Si := (Si.powerOn node).integrate

/-- The eight counters set to 0 (R166). -/
def Si.clearCounters (si : Si) : Si :=
  { si with
    sentOk := 0, sendFailed := 0, receivedOk := 0, arbitrationLost := 0
    echoErrors := 0, symbolErrors := 0, checkErrors := 0, noAckErrors := 0 }

/-! ## The commands -/

/-- MESSAGE_START (R173). -/
def execMessageStart (s : State) : Host.Outcome State Fault Refusal :=
  s.next (s.node.awake fun n => n.withCfg Node.messageStart)

/-- ARBITRATION_LOST (R157). -/
def execArbitrationLost (s : State) : Host.Outcome State Fault Refusal :=
  s.next (s.node.awake Node.loseArbitration)

/-- MESSAGE_SENT (R158). -/
def execMessageSent (s : State) : Host.Outcome State Fault Refusal :=
  s.next (s.node.awake fun n => n.withCfg Node.messageSent)

/-- MESSAGE_FAILED (R161). -/
def execMessageFailed (s : State) : Host.Outcome State Fault Refusal :=
  s.next (s.node.awake Node.messageFailed)

/-- SERVICE_ERROR (R159). -/
def execServiceError (kind : CarrierError) (s : State) : Host.Outcome State Fault Refusal :=
  s.next (s.node.awake fun n => n.withCfg fun c n => n.serviceError c kind)

/-- GUARDED_WAIT_END (R163). -/
def execGuardedWaitEnd (s : State) : Host.Outcome State Fault Refusal :=
  s.next (s.node.awake fun n => { n with si := n.si.endGuard })

/-- SILENCED_RECOVERY (R164). -/
def execSilencedRecovery (s : State) : Host.Outcome State Fault Refusal :=
  s.next (s.node.awake Node.recover)

/-- INTEGRATION_END (R165). -/
def execIntegrationEnd (s : State) : Host.Outcome State Fault Refusal :=
  s.next (s.node.awake fun n => { n with si := n.si.endIntegration })

/-- LISTEN_ONLY_EFFECT (R167): at an idle point. -/
def execListenOnlyEffect (s : State) : Host.Outcome State Fault Refusal := s.next (s.node.awake Node.atIdlePoint)

end Sys2Proof.Machine
end

