-- ==== Sys2Proof/Machine/Messages.lean ====
section
/-! DEFINITION. The message handler MH (R170 to R185): received messages and mail slots. -/

namespace Sys2Proof.Machine

/-! ## Probes (R174) -/

/-- MH answers a DELAY_PROBE, or counts why it does not (R174, R171). -/
def Node.answerProbe (key : Key) (stamp : Word32) (n : Node) : Node :=
  if Key.first key != n.rh.straps.node then n
  else if n.si.listenOnly || n.si.state == .silenced then
    { n with mh := { n.mh with probesUnanswered := Counter.bump n.mh.probesUnanswered } }
  else if 4 ≤ n.mh.replies.length then
    { n with mh := { n.mh with replyQueueFull := Counter.bump n.mh.replyQueueFull } }
  else { n with mh := { n.mh with replies := n.mh.replies ++ [⟨Key.second key, stamp⟩] } }

/-! ## Mail slots (R178, R179) -/

/-- A RECEIVE slot matches a key (R179). -/
def SlotDef.accepts (key : Key) : SlotDef → Bool
  | .receive k mask => key &&& mask == k &&& mask
  | _ => false

/-- A slot is EMPTY. -/
def Slot.isEmpty (s : Slot) : Bool := s.state == .empty

/-- The indices, from `i` on, of the slots with this property. -/
def indicesOf (f : Slot → Bool) : Nat → List Slot → List Nat
  | _, [] => []
  | i, s :: rest => if f s then i :: indicesOf f (i + 1) rest else indicesOf f (i + 1) rest

/-- The slots that match a key, by index. -/
def Mh.matching (key : Key) (mh : Mh) : List Nat := indicesOf (fun s => s.defn.accepts key) 0 mh.slots

/-- The EMPTY slots that match a key, by index. -/
def Mh.matchingEmpty (key : Key) (mh : Mh) : List Nat :=
  indicesOf (fun s => s.defn.accepts key && s.isEmpty) 0 mh.slots

/-- A user-mail message is filed (the table of R179). -/
def Node.fileMail (key : Key) (payload : List Byte) (stamp : Word32) (n : Node) : Node :=
  let m : RxMail := ⟨key, payload, stamp⟩
  match (n.mh.matchingEmpty key).head?, (n.mh.matching key).getLast? with
  | some i, _ => Node.raise { n with mh := n.mh.setSlot i (.full m) } .mailReceived
  | none, some i =>
    Node.raise
      { n with mh := { n.mh.setSlot i (.overrun m) with mailOverrun := Counter.bump n.mh.mailOverrun } }
      .mailReceived
  | none, none => { n with mh := { n.mh with mailUnmatched := Counter.bump n.mh.mailUnmatched } }

/-- A slot as SETTLE and soft reset leave it (R178, R185). -/
def SlotDef.fresh (d : SlotDef) : Slot :=
  match d with
  | .unused => ⟨d, .unused⟩
  | .receive _ _ => ⟨d, .empty⟩
  | .transmit _ => ⟨d, .idle⟩

/-- MH's slots take their definitions (R178, R184). -/
def Mh.settle (defs : List SlotDef) (mh : Mh) : Mh := { mh with slots := defs.map SlotDef.fresh }

/-- MH's part of a soft reset (R185). -/
def Mh.softReset (mh : Mh) : Mh := { Mh.powerOn with slots := mh.slots.map fun s => s.defn.fresh }

/-! ## TAKE (R180) -/

/-- The response with a slot's message (R180, R201). -/
def RxMail.response (overrun : Bool) (m : RxMail) : Response :=
  ⟨.done, flagByte overrun ++ u16 m.key.toNat ++ u8 m.payload.length ++ u32 m.stamp.toNat ++ m.payload⟩

/-- TAKE of slot `i` (R180). -/
def Mh.take (i : Nat) (mh : Mh) : Mh × Response :=
  if 12 ≤ i then (mh, .plain .refusedRange)
  else
    match (mh.slot i).state with
    | .full m => (mh.setSlot i .empty, m.response false)
    | .overrun m => (mh.setSlot i .empty, m.response true)
    | .empty => (mh, .plain .empty)
    | _ => (mh, .plain .refusedState)

/-! ## SEND (R181) -/

/-- A SEND body's length fits its key flag and its length n (R181, R201). -/
def sendLengthOk (body : List Byte) : Bool :=
  let given := field body 1 1 == 1
  let n := if given then field body 4 1 else field body 2 1
  let head := if given then 5 else 3
  head ≤ body.length && body.length == head + n && n ≤ 16

/-- The key a SEND gives, if it gives one. -/
def sendKey (body : List Byte) : Option Nat := if field body 1 1 = 1 then some (field body 2 2) else none

/-- The payload of a SEND. -/
def sendPayload (body : List Byte) : List Byte := if field body 1 1 = 1 then body.drop 5 else body.drop 3

/-- A key given by SEND is legal: 12 bits, kind 6 to 15 (R181; its top four bits, log entry 22). -/
def sendKeyOk (k : Nat) : Bool := k < 4096 && 6 ≤ k / 256

/-- SEND to slot `i`, whose definition's key is `settledKey`, with the tests of R181 from the slot's state on. -/
def Mh.sendTo (i : Nat) (settledKey : Key) (body : List Byte) (mh : Mh) : Mh × ResultCode :=
  if (sendKey body).any (fun k => !sendKeyOk k) then (mh, .refusedRange)
  else
    match (mh.slot i).state with
    | .pending _ => (mh, .busy)
    | .sending _ => (mh, .busy)
    | _ =>
      (mh.setSlot i (.pending ⟨((sendKey body).map (BitVec.ofNat 12)).getD settledKey, sendPayload body⟩), .done)

/-- SEND (R181): its tests in their order. -/
def Mh.send (body : List Byte) (mh : Mh) : Mh × ResultCode :=
  if 2 ≤ body.length && 2 ≤ field body 1 1 then (mh, .refusedRange)
  else if !sendLengthOk body then (mh, .badLength)
  else if 12 ≤ field body 0 1 then (mh, .refusedRange)
  else
    match (mh.slot (field body 0 1)).defn with
    | .transmit k => mh.sendTo (field body 0 1) k body
    | _ => (mh, .refusedState)

/-! ## The commands -/

/-- The command that brings a correct message of this key and payload to MH, by kind and form (R170, R171). -/
def messageCommand (key : Key) (payload : List Byte) (stamp : Word32) (marked : Bool) : Instr :=
  if Sys2Proof.Key.kind key = 0 then .unusableKind key payload ⟨stamp, marked⟩
  else if 6 ≤ Sys2Proof.Key.kind key then .userMailFiled key payload ⟨stamp, marked⟩
  else if !goodForm key payload then .badForm key payload ⟨stamp, marked⟩
  else if Sys2Proof.Key.kind key = 1 then .announceReceived key payload ⟨stamp, marked⟩
  else if Sys2Proof.Key.kind key = 2 then .delayProbeReceived key payload ⟨stamp, marked⟩
  else if Sys2Proof.Key.kind key = 3 then .delayReplyReceived key payload ⟨stamp, marked⟩
  else if Sys2Proof.Key.kind key = 4 then .controlReceived key payload ⟨stamp, marked⟩
  else .controlReplyReceived key payload ⟨stamp, marked⟩

/-- The message is of this kind and has the form the table of R170 states. -/
def isGood (kind : Nat) (key : Key) (payload : List Byte) : Bool :=
  Sys2Proof.Key.kind key == kind && goodForm key payload

/-- ANNOUNCE_RECEIVED (R36). -/
def execAnnounceReceived (key : Key) (payload : List Byte) (arrival : Arrival) (s : State) :
    Host.Outcome State Fault Refusal :=
  s.next (s.node.awake fun n =>
    n.receive (isGood 1 key payload) key payload arrival.stamp arrival.marked fun c t n => n.announced c key payload t)

/-- DELAY_PROBE_RECEIVED (R174). -/
def execDelayProbeReceived (key : Key) (payload : List Byte) (arrival : Arrival) (s : State) :
    Host.Outcome State Fault Refusal :=
  s.next (s.node.awake fun n =>
    n.receive (isGood 2 key payload) key payload arrival.stamp arrival.marked fun _ t n => n.answerProbe key t)

/-- DELAY_REPLY_RECEIVED (R47). -/
def execDelayReplyReceived (key : Key) (payload : List Byte) (arrival : Arrival) (s : State) :
    Host.Outcome State Fault Refusal :=
  s.next (s.node.awake fun n =>
    n.receive (isGood 3 key payload) key payload arrival.stamp arrival.marked fun c t n => n.delayReply c key payload t)

/-- CONTROL_REPLY_RECEIVED (R171): discarded. -/
def execControlReplyReceived (key : Key) (payload : List Byte) (arrival : Arrival) (s : State) :
    Host.Outcome State Fault Refusal :=
  s.next (s.node.awake fun n =>
    n.receive (isGood 5 key payload) key payload arrival.stamp arrival.marked fun _ _ n => n)

/-- UNUSABLE_KIND (R171): kind 0. -/
def execUnusableKind (key : Key) (payload : List Byte) (arrival : Arrival) (s : State) :
    Host.Outcome State Fault Refusal :=
  s.next (s.node.awake fun n =>
    n.receive (Sys2Proof.Key.kind key == 0 && payloadFits payload) key payload arrival.stamp arrival.marked
      fun _ _ n => { n with mh := { n.mh with unusableKind := Counter.bump n.mh.unusableKind } })

/-- BAD_FORM (R170): kinds 1 to 5 with another length. -/
def execBadForm (key : Key) (payload : List Byte) (arrival : Arrival) (s : State) :
    Host.Outcome State Fault Refusal :=
  s.next (s.node.awake fun n =>
    n.receive
      (1 ≤ Sys2Proof.Key.kind key && Sys2Proof.Key.kind key ≤ 5 && payloadFits payload && !goodForm key payload)
      key payload arrival.stamp arrival.marked
      fun _ _ n => { n with mh := { n.mh with badForm := Counter.bump n.mh.badForm } })

/-- USER_MAIL_FILED (R179): kinds 6 to 15. -/
def execUserMailFiled (key : Key) (payload : List Byte) (arrival : Arrival) (s : State) :
    Host.Outcome State Fault Refusal :=
  s.next (s.node.awake fun n =>
    n.receive (6 ≤ Sys2Proof.Key.kind key && payloadFits payload) key payload arrival.stamp arrival.marked
      fun _ t n => n.fileMail key payload t)

end Sys2Proof.Machine
end

