-- ==== Sys2Proof/Machine/Output.lean ====
section
/-! DEFINITION. The output unit OU (R139 to R149), what the output port shows (R200), and the port's commands. -/

namespace Sys2Proof.Machine

/-! ## Words of a record (R141, R200) -/

/-- The payload bytes a plane carries on a line (R12). -/
def PlaneOut.length : PlaneOut → Nat
  | .present _ l => l
  | .repeated _ l => l
  | .filled => 0
  | .absent => 0

/-- The words a plane's payload takes: four bytes to a word (R141). -/
def PlaneOut.words (q : PlaneOut) : Nat := (q.length + 3) / 4

/-- The word count of a record (R141). -/
def Descriptor.words : Descriptor → Nat
  | .line d => 8 + (d.planes.toList.map PlaneOut.words).sum
  | .frameEnd _ => 6

/-- The status code of a plane (R200). -/
def PlaneOut.code : PlaneOut → Nat
  | .absent => 0
  | .present _ _ => 1
  | .repeated _ _ => 2
  | .filled => 3

/-- The code of a release cause (R200). -/
def Cause.code : Cause → Nat
  | .complete => 0
  | .expired => 1
  | .forced => 2
  | .gap => 3
  | .flush => 4

/-- The code of an end cause (R200). -/
def EndCause.code : EndCause → Nat
  | .normal => 0
  | .flush => 1

/-- A word of PD, its first byte the most significant; missing bytes are 0. -/
def packWord (bs : List Byte) : Word32 :=
  BitVec.ofNat 32 (beNat [bs.getD 0 0, bs.getD 1 0, bs.getD 2 0, bs.getD 3 0])

/-- The timecode of word 4, or 0 when absent. -/
def timecodeWord : Option Timecode → List Byte
  | some t => t.bytes
  | none => [0, 0, 0, 0]

/-- The statuses byte: 2 bits per plane, plane 0 in bits 7..6. -/
def LineDesc.statuses (d : LineDesc) : Nat :=
  d.planes.p0.code * 64 + d.planes.p1.code * 16 + d.planes.p2.code * 4 + d.planes.p3.code

/-- The total payload bytes of a LINE record. -/
def LineDesc.total (d : LineDesc) : Nat := (d.planes.toList.map PlaneOut.length).sum

/-- The eight header words of a LINE record (R200). -/
def LineDesc.header (d : LineDesc) : List (List Byte) :=
  [ [1, d.frame] ++ u16 d.line,
    u8 d.statuses ++ u8 d.cause.code ++ flagByte d.timecode.isSome ++ [0],
    u16 d.planes.p0.length ++ u16 d.planes.p1.length,
    u16 d.planes.p2.length ++ u16 d.planes.p3.length,
    timecodeWord d.timecode,
    u16 d.skew ++ u16 d.total,
    [0, 0, 0, 0], [0, 0, 0, 0] ]

/-- The six words of a FRAME_END record (R200). -/
def FrameEndDesc.header (d : FrameEndDesc) : List (List Byte) :=
  [ [2, d.frame] ++ u8 d.cause.code ++ [0],
    u16 d.tallies.lines ++ u16 d.tallies.complete,
    u16 d.tallies.concealed ++ u16 d.tallies.gap,
    u16 d.tallies.forced ++ u16 d.tallies.worstSkew,
    u8 d.tallies.contributing.toNat ++ u8 d.tallies.joined.toNat ++ [0, 0],
    [0, 0, 0, 0] ]

/-- The payload bytes of a plane, as its buffer holds them (R140, R141). -/
def Ss.planeBytes (ss : Ss) : PlaneOut → List Byte
  | .present b l => (ss.buf b).bytes.take l
  | .repeated b l => (ss.buf b).bytes.take l
  | .filled => []
  | .absent => []

/-- Payload word `k` of a plane, with whether it is the plane's last. -/
def payloadWord (bs : List Byte) (k : Nat) : List Byte × Bool :=
  ((bs.drop (4 * k)).take 4, bs.length ≤ 4 * k + 4)

/-- Word `k` of the payload words of these planes: its bytes, and whether it ends a plane. -/
def planesWord (ss : Ss) : List PlaneOut → Nat → List Byte × Bool
  | [], _ => ([], false)
  | q :: rest, k => if k < q.words then payloadWord (ss.planeBytes q) k else planesWord ss rest (k - q.words)

/-- Word `k` of a record: its bytes, and whether it ends a plane (R200). -/
def Descriptor.word (ss : Ss) (d : Descriptor) (k : Nat) : List Byte × Bool :=
  match d with
  | .line l => if k < 8 then (l.header.getD k [], false) else planesWord ss l.planes.toList (k - 8)
  | .frameEnd e => (e.header.getD k [], false)

/-- The PCTL code of word `k` of a record (R200). -/
def Descriptor.pctl (d : Descriptor) (k : Nat) (w : List Byte × Bool) : Nat :=
  if k = 0 then 1
  else if k + 1 = d.words then 7 + w.1.length
  else if w.2 then 3 + w.1.length
  else 3

/-! ## The presented word (R143) -/

/-- What PD and PCTL show. -/
inductive Presented
  | none
  | abort (w : AbortWord)
  | word (d : Descriptor) (k : Nat)
  deriving DecidableEq, Repr

/-- The choice of R143: the presented word follows from the queue, the words taken and the pending ABORT. -/
def Ou.presented (ou : Ou) : Presented :=
  match ou.abort, ou.queue with
  | some w, _ => .abort w
  | none, [] => .none
  | none, d :: _ => .word d ou.taken

/-- The ABORT word's bytes (R200). -/
def AbortWord.bytes : AbortWord → List Byte
  | .line f k => [3, f] ++ u16 k
  | .frameEnd f => [4, f, 0, 0]

/-- PCTL and PD for a presented word (R200). While no word is presented PD, which then carries no meaning (R139), is 0
(the model's choice, log entry 45). -/
def Presented.pins (ss : Ss) : Presented → BitVec 4 × Word32
  | .none => (0, 0)
  | .abort w => (2, packWord w.bytes)
  | .word d k => (BitVec.ofNat 4 (d.pctl k (d.word ss k)), packWord (d.word ss k).1)

/-- The output port, or none where OU does not drive it (R139). -/
def Node.port (n : Node) : Option (BitVec 4 × Word32) :=
  n.baseCfg.map fun _ => n.ou.presented.pins n.ss

/-! ## Taking words (R142, R144, R145, R147) -/

/-- The level of PREADY at an edge of PCLK. -/
def Node.seeReady (level : Bool) (n : Node) : Node := { n with pins := { n.pins with pready := level } }

/-- An edge with PREADY high takes a word that is not the record's last (R142). -/
def Ou.takeWord (ou : Ou) : Ou :=
  match ou.presented with
  | .word d k => if k + 1 < d.words then { ou with taken := ou.taken + 1 } else ou
  | _ => ou

/-- The record's last word is presented. -/
def Ou.atLastWord (ou : Ou) : Bool :=
  match ou.presented with
  | .word d k => d.words ≤ k + 1
  | _ => false

/-- The head descriptor leaves the queue and is counted (R144). -/
def Ou.endRecord (ou : Ou) : Ou :=
  match ou.queue with
  | [] => ou
  | .line _ :: rest =>
    { ou with queue := rest, taken := 0, stalled := false, linesOut := Counter.bump ou.linesOut }
  | .frameEnd _ :: rest =>
    { ou with queue := rest, taken := 0, stalled := false, framesOut := Counter.bump ou.framesOut }

/-- The end of a record (R144): references dropped, one place reported to the engine. -/
def Node.recordEnd (c : Settled) (n : Node) : Node :=
  if n.ou.atLastWord then Node.settleRefs (Node.runEngine c { n with ou := n.ou.endRecord }) else n

/-- The pending ABORT is taken (R147). -/
def Ou.takeAbort (ou : Ou) : Ou :=
  match ou.abort with
  | none => ou
  | some _ => { ou with abort := none, abortsOut := Counter.bump ou.abortsOut }

/-- An edge with PREADY low while a record's word is presented (R145): the record counts once. -/
def Ou.stall (ou : Ou) : Ou :=
  match ou.presented with
  | .word _ _ =>
    if ou.stalled then ou
    else { ou with stalled := true, stalledRecords := Counter.bump ou.stalledRecords }
  | _ => ou

/-! ## Resets (R146, R148) -/

/-- The ABORT word that closes a record. -/
def Descriptor.abortWord : Descriptor → AbortWord
  | .line d => .line d.frame d.line
  | .frameEnd d => .frameEnd d.frame

/-- The ABORT after a reset: a pending one stays, a record in emission gets one (R146, R147, R148). -/
def Ou.abortAfterReset (ou : Ou) : Option AbortWord :=
  match ou.abort, ou.queue with
  | some w, _ => some w
  | none, [] => none
  | none, d :: _ => if ou.taken = 0 then none else some d.abortWord

/-- OU's part of a soft reset (R146). -/
def Ou.softReset (ou : Ou) : Ou := { Ou.powerOn with abort := ou.abortAfterReset }

/-- OU when RST_N is asserted (R148). -/
def Ou.cutByReset (ou : Ou) : Ou :=
  { ou with queue := [], taken := 0, stalled := false, abort := ou.abortAfterReset }

/-- The five counters set to 0 (R149). -/
def Ou.clearCounters (ou : Ou) : Ou :=
  { ou with linesOut := 0, framesOut := 0, abortsOut := 0, stalledRecords := 0, queueFull := 0 }

/-! ## The commands -/

/-- WORD_TAKEN (R142). -/
def execWordTaken (s : State) : Host.Outcome State Fault Refusal :=
  s.next (s.node.awake fun n => n.asBase fun _ n => Node.seeReady true { n with ou := n.ou.takeWord })

/-- RECORD_END (R144). -/
def execRecordEnd (s : State) : Host.Outcome State Fault Refusal :=
  s.next (s.node.awake fun n => n.asBase fun c n => (n.recordEnd c).seeReady true)

/-- ABORT_TAKEN (R147); also while RST_N is asserted (R148). -/
def execAbortTaken (s : State) : Host.Outcome State Fault Refusal :=
  s.next (s.node.asBase fun _ n => Node.seeReady true { n with ou := n.ou.takeAbort })

/-- STALL (R145). -/
def execStall (s : State) : Host.Outcome State Fault Refusal :=
  s.next (s.node.awake fun n => n.asBase fun _ n => Node.seeReady false { n with ou := n.ou.stall })

end Sys2Proof.Machine
end

