-- ==== Sys2Proof/Machine/Status.lean ====
section
/-! DEFINITION. What STATUS reports: the six snapshots (R193, R198, R201, R202; log entry 23), the remote
summaries (R201) and the clearing of counters. -/

namespace Sys2Proof.Machine

/-! ## Codes (R198) -/

/-- An event counter in two bytes. -/
def cnt (c : Counter) : List Byte := u16 c.toNat

/-- Counters in the order given. -/
def cnts (l : List Counter) : List Byte := l.flatMap cnt

/-- A plane set in one byte. -/
def setByte (s : PlaneSet) : List Byte := u8 s.toNat

/-- An E value in four bytes. -/
def eBytes (e : Word32) : List Byte := u32 e.toNat

/-- 0 head, 1 base. -/
def roleCode : Role → Nat
  | .head => 0
  | .base => 1

/-- 0 UNSETTLED, 1 JOINING, 2 RUNNING. -/
def Lifecycle.code : Lifecycle → Nat
  | .unsettled => 0
  | .joining => 1
  | .running => 2

/-- 0 SELF_REF to 4 FOLLOW_LOCK. -/
def TbState.code : TbState → Nat
  | .selfRef => 0
  | .selfHold => 1
  | .selfFree => 2
  | .followAcq => 3
  | .followLock => 4

/-- 0 ABSENT, 1 CHECKING, 2 LOCKED. -/
def MonState.code : MonState → Nat
  | .absent => 0
  | .checking => 1
  | .locked => 2

/-- 0 OUTSIDE, 1 FILLING, 2 DISCARDING. -/
def LineState.code : LineState → Nat
  | .outside => 0
  | .filling _ => 1
  | .discarding => 2

/-- 0 OFF, 1 IDLE_FILL, 2 SENDING. -/
def Carrier.code : Carrier → Nat
  | .off => 0
  | .idleFill => 1
  | .sending => 2

/-- 0 DARK, 1 LOCKING, 2 LOCKED. -/
def LaneState.code : LaneState → Nat
  | .dark => 0
  | .locking => 1
  | .locked => 2

/-- The position in the list of R100: 0 CHECK_ONLY, 1 FILLING, 2 REFUSED. -/
def Disposition.code : Disposition → Nat
  | .checkOnly => 0
  | .filling _ => 1
  | .refused => 2

/-- 0 OPEN, 1 COMPLETE, 2 EXPIRED, as R115 lists them. -/
def RecState.code : RecState → Nat
  | .opened => 0
  | .complete => 1
  | .expired => 2

/-- 0 IDLE, 1 RUN, 2 FLUSHING. -/
def EngineState.code : EngineState → Nat
  | .idle => 0
  | .run _ => 1
  | .flushing _ => 2

/-- 0 OFF to 4 SILENCED. -/
def SiState.code : SiState → Nat
  | .off => 0
  | .integrating => 1
  | .active => 2
  | .guarded => 3
  | .silenced => 4

/-- 0 UNUSED to 8 FAILED. -/
def SlotState.code : SlotState → Nat
  | .unused => 0
  | .empty => 1
  | .full _ => 2
  | .overrun _ => 3
  | .idle => 4
  | .pending _ => 5
  | .sending _ => 6
  | .done => 7
  | .failed => 8

/-- 0 REPEAT, 1 FILL. -/
def ConcealMode.code : ConcealMode → Nat
  | .repeatLast => 0
  | .fill => 1

/-! ## Identity (R186, R187, R192, R193) -/

/-- The straps. -/
def Straps.bytes (p : Straps) : List Byte :=
  u8 (roleCode p.role) ++ u8 p.plane.toNat ++ u8 p.node.toNat ++ u8 p.adr.toNat

/-- The runtime set, its eight items in the order of R189; it never holds a preset. -/
def Node.runtimeBytes (n : Node) : List Byte :=
  setByte n.rh.runtime.mask ++ u16 n.rh.runtime.w ++ u8 n.rh.runtime.mode.code ++ u8 n.rh.runtime.threshold
    ++ u16 n.rh.runtime.lead ++ flagByte n.si.listenOnly ++ [0] ++ listBytes StrobeEntry.bytes n.sg.active

/-- The pending values, each with its presence byte. -/
def Node.pendingBytes (n : Node) : List Byte :=
  optBytes setByte n.rh.pending.mask ++ optBytes u16 n.rh.pending.w
    ++ optBytes (fun m => u8 m.code) n.rh.pending.mode ++ optBytes u8 n.rh.pending.threshold
    ++ optBytes u16 n.rh.pending.lead ++ optBytes flagByte n.rh.pending.listenOnly
    ++ optBytes Timecode.bytes n.rh.pending.preset ++ optBytes (listBytes StrobeEntry.bytes) n.sg.holder

/-- The identity section. One presence byte stands before the eight items of the runtime set together, 0 before the
first SETTLE (the model's choice, log entry 59). -/
def Node.identity (n : Node) : List Byte :=
  u16 0x2416 ++ u8 1 ++ n.rh.straps.bytes ++ u8 n.rh.lifecycle.code ++ u8 n.rh.joining
    ++ optBytes (fun _ => n.runtimeBytes) n.rh.settled ++ n.pendingBytes ++ n.rh.levels.flatMap u8

/-! ## Timebase (R16, R18, R20, R25, R30, then DU, then SG) -/

/-- A history entry. -/
def HistEntry.bytes (h : HistEntry) : List Byte := u16 h.number.toNat ++ eBytes h.e ++ flagByte h.stepped

/-- A candidate. -/
def Cand.bytes (k : Cand) : List Byte := u8 k.node.toNat ++ u8 k.cls ++ u8 k.age

/-- The outstanding probe. -/
def Probe.bytes (p : Probe) : List Byte := u8 p.target.toNat ++ eBytes p.t1 ++ u8 p.frames

/-- The line in progress and the frame trim. -/
def Tb.position (tb : Tb) : List Byte := u16 tb.line ++ s8 tb.trim

/-- DU's items: its numbered rules name the first; those that only the table after R62 names (source class,
probe, tracking flag, counters) come last, before SG's (the model's choice, log entry 46). -/
def Du.bytes (d : Du) : List Byte :=
  u8 d.cls ++ listBytes Cand.bytes d.cands ++ u8 d.state.code ++ u8 d.source.toNat ++ u16 d.dEst
    ++ flagByte d.dValid ++ u16 d.credit ++ u8 d.mon.code ++ s16 d.i ++ u8 d.lock ++ u8 d.srcCls
    ++ optBytes Probe.bytes d.probe ++ flagByte d.tracking
    ++ cnts [d.implausible, d.probeAbandoned, d.replyDiscarded, d.announceIgnored, d.steps]

/-- SG's items (R72). The six pin levels stand in one byte, bit k for STBk (the model's choice, log entry 40). -/
def Sg.bytes (g : Sg) : List Byte :=
  u8 g.pins.toNat ++ u8 g.active.length ++ optBytes (fun l => u8 l.length) g.holder ++ cnt g.swaps

/-- The timebase section. The timecode, which no numbered rule of TB reports, stands last (the model's choice, log entry
51). -/
def Node.timebase (n : Node) : List Byte :=
  eBytes n.tb.e ++ n.tb.position ++ s16 n.tb.q ++ listBytes HistEntry.bytes n.tb.history ++ cnt n.tb.adoptions
    ++ n.du.bytes ++ n.sg.bytes ++ n.tb.tc.bytes

/-! ## Lanes (R80, then R89, R92 or R96, R106, R108) -/

/-- A buffer is FILLING. -/
def Buf.isFilling (x : Buf) : Bool :=
  match x.state with
  | .filling _ => true
  | _ => false

/-- A buffer is REFERENCED. -/
def Buf.isReferenced (x : Buf) : Bool :=
  match x.state with
  | .referenced _ => true
  | _ => false

/-- The store's items (R80). The free count follows the number of buffers in FREE, which it equals (the model's reading,
log entry 61). -/
def Ss.bytes (ss : Ss) : List Byte :=
  u8 ss.freeCount ++ u8 (ss.bufs.countP Buf.isFilling) ++ u8 (ss.bufs.countP fun x => x.state == .queued)
    ++ u8 (ss.bufs.countP Buf.isReferenced) ++ u8 ss.freeCount ++ u8 ss.lowWater
    ++ cnts [ss.grants, ss.refusedEmpty, ss.refusedReserve]

/-- LU's items (R89, R92). -/
def Lu.bytes (lu : Lu) : List Byte :=
  u8 lu.queue.length
    ++ cnts [lu.linesLaunched, lu.brokenLine, lu.noFrame, lu.excessLine, lu.emptyLine, lu.overlongLine,
      lu.launchOverflow, lu.unframed]
    ++ u8 lu.line.code ++ u16 lu.lineCount ++ optBytes (fun l => [l.1] ++ l.2.bytes) lu.latch
    ++ u8 lu.carrier.code

/-- The ticks remaining before an E value, 0 once it is reached. -/
def remaining (e v : Word32) : Nat := (sdiff v e).toNat

/-- A segment in progress: key and disposition (R108). One whose header has not been read has neither and is told as
absent (the model's choice, log entry 47). -/
def InProgress.bytes : InProgress → List Byte
  | .none => [0]
  | .started => [0]
  | .body _ h d => [1, h.frame] ++ u16 h.line ++ u8 d.code

/-- A lane's thirteen counters (R108). -/
def Lane.counters (l : Lane) : List Counter :=
  [l.good, l.checkFail, l.malformed, l.noBuffer, l.late, l.duplicate, l.stray, l.unexpectedPlane, l.tableFull,
    l.flushing, l.lossCarrier, l.lossBad, l.lossSilence]

/-- The four lanes' items: R96 for each lane, then R106 for each, then R108 for each. A CP level is a byte, 1 asserted
(the model's choice, log entry 53). -/
def Node.lanesBytes (n : Node) : List Byte :=
  (n.rl.toList.zip n.pins.cp.toList).flatMap (fun x => u8 x.1.state.code ++ flagByte x.2)
    ++ n.rl.toList.flatMap (fun l => optBytes (fun d => u32 (remaining n.tb.e d)) l.deadline)
    ++ n.rl.toList.flatMap (fun l => u8 l.goodRun ++ u8 l.badRun ++ l.seg.bytes ++ cnts l.counters)

/-- The lanes section. -/
def Node.lanes (n : Node) : List Byte :=
  n.ss.bytes ++
    (match n.rh.straps.role with
      | .head => n.lu.bytes
      | .base => n.lanesBytes)

/-! ## Stitch (R116, R129, R130, R137, R140, R145, R149) -/

/-- Insertion of a record into a list in increasing key order. -/
def insertRecord (fCur : BitVec 8) (r : Record) : List Record → List Record
  | [] => [r]
  | x :: xs => if r.rank fCur < x.rank fCur then r :: x :: xs else x :: insertRecord fCur r xs

/-- The records in key order (R115). -/
def sortRecords (fCur : BitVec 8) : List Record → List Record
  | [] => []
  | r :: rest => insertRecord fCur r (sortRecords fCur rest)

/-- F_cur, N_next, mask and J, absent in IDLE. -/
def EngineState.ctx : EngineState → Option FrameCtx
  | .idle => none
  | .run f => some f
  | .flushing f => some f

/-- A record (R116): key, planes, state, and the ticks left unless its deadline has passed. -/
def Record.bytes (e : Word32) (r : Record) : List Byte :=
  [r.frame] ++ u16 r.line ++ setByte (contribPlanes r.contribs) ++ u8 r.state.code
    ++ (if passed e r.deadline then [0] else 1 :: u16 (remaining e r.deadline))

/-- A frame's tallies (R14). -/
def Tallies.bytes (t : Tallies) : List Byte :=
  u16 t.lines ++ u16 t.complete ++ u16 t.concealed ++ u16 t.gap ++ u16 t.forced ++ u16 t.worstSkew
    ++ setByte t.contributing ++ setByte t.joined

/-- A descriptor's kind and frame, and its line with a presence byte, absent for a FRAME_END (R140, R202). -/
def Descriptor.bytes : Descriptor → List Byte
  | .line d => [1, d.frame, 1] ++ u16 d.line
  | .frameEnd d => [2, d.frame, 0]

/-- The kind of the presented word: 0 none, 1 LINE, 2 FRAME_END, 3 or 4 an ABORT that closes a LINE or a FRAME_END (the
model's choice, log entry 41). -/
def Presented.kind : Presented → Nat
  | .none => 0
  | .abort (.line _ _) => 3
  | .abort (.frameEnd _) => 4
  | .word (.line _) _ => 1
  | .word (.frameEnd _) _ => 2

/-- The presented word (R145): its kind, and for a record, with a presence byte, its frame, its line as
`Descriptor.bytes` gives it, and the words taken. -/
def Presented.bytes (w : Presented) : List Byte :=
  u8 w.kind ++
    (match w with
      | .word d k => 1 :: (d.bytes.drop 1 ++ u16 k)
      | _ => [0])

/-- SE's items. F_cur, N_next, mask and J, absent together in IDLE, share one presence byte (the model's choice, log
entry 42). -/
def Node.engineBytes (n : Node) : List Byte :=
  let f := n.se.state.ctx
  listBytes (Record.bytes n.tb.e) (sortRecords ((f.map (·.fCur)).getD 0) n.se.table)
    ++ n.se.holds.toList.flatMap (optBytes fun h => [h.frame] ++ u16 h.line)
    ++ optBytes (fun g => g.tallies.bytes) f ++ n.se.lastTallies.bytes
    ++ u8 n.se.state.code
    ++ optBytes (fun g => [g.fCur] ++ u16 g.nNext ++ setByte g.mask ++ setByte g.j) f
    ++ setByte n.se.lockedSet ++ u8 n.se.strayRun ++ u8 n.ou.freePlaces
    ++ cnts [n.se.framesStarted, n.se.framesEnded, n.se.framesFlushed, n.se.resyncStray, n.se.resyncEmpty,
      n.se.forcedLines, n.se.contribWithdrawn, n.se.contribDiscarded]

/-- OU's items; PREADY's level is a byte, 1 high (the model's choice, log entry 53). -/
def Node.outputBytes (n : Node) : List Byte :=
  listBytes Descriptor.bytes n.ou.queue ++ flagByte n.pins.pready ++ n.ou.presented.bytes
    ++ cnts [n.ou.linesOut, n.ou.framesOut, n.ou.abortsOut, n.ou.stalledRecords, n.ou.queueFull]

/-- The stitch section; its blocks stand idle in the head role (R202). -/
def Node.stitch (n : Node) : List Byte :=
  match n.rh.straps.role with
  | .head => []
  | .base => n.engineBytes ++ n.outputBytes

/-! ## Service (R150, R162, R164, R166, R172, R183) -/

/-- The settled bit timing. -/
def Settled.timingBytes (c : Settled) : List Byte := u8 c.pre ++ u8 c.prop ++ u8 c.pa ++ u8 c.pb ++ u8 c.sjw

/-- The key of a reply in the queue. -/
def Node.replyKey (n : Node) (r : Reply) : Key := nodesKey 3 r.requester n.rh.straps.node

/-- The service section. The depth of the reply queue (R172) stands before the list of its keys with the list's own
count (the model's reading, log entry 61). -/
def Node.service (c : Settled) (n : Node) : List Byte :=
  c.timingBytes ++ u8 n.si.tec ++ u8 n.si.recCount ++ u8 n.si.recovery ++ u8 n.si.state.code
    ++ flagByte n.si.listenOnly ++ optBytes flagByte n.rh.pending.listenOnly
    ++ cnts [n.si.sentOk, n.si.sendFailed, n.si.receivedOk, n.si.arbitrationLost, n.si.echoErrors,
      n.si.symbolErrors, n.si.checkErrors, n.si.noAckErrors]
    ++ flagByte n.mh.announce ++ flagByte n.mh.probe.isSome ++ flagByte n.mh.controlReply.isSome
    ++ u8 n.mh.replies.length ++ listBytes (fun r => u16 (n.replyKey r).toNat) n.mh.replies
    ++ cnts [n.mh.unusableKind, n.mh.badForm, n.mh.probesUnanswered, n.mh.replyQueueFull, n.mh.controlBusy,
      n.mh.controlUnreplied]

/-! ## Slots (R183) -/

/-- The message a receive slot holds. -/
def SlotState.held : SlotState → Option RxMail
  | .full m => some m
  | .overrun m => some m
  | _ => none

/-- A slot: definition, state, and a RECEIVE slot's held message without its payload; its presence byte stands in a
RECEIVE slot alone (the model's choice, log entry 60). -/
def Slot.bytes (s : Slot) : List Byte :=
  s.defn.bytes ++ u8 s.state.code ++
    (match s.defn with
      | .receive _ _ =>
        optBytes (fun m : RxMail => u16 m.key.toNat ++ u8 m.payload.length ++ eBytes m.stamp) s.state.held
      | _ => [])

/-- The slots section. -/
def Node.slotsSection (n : Node) : List Byte :=
  n.mh.slots.flatMap Slot.bytes ++ cnts [n.mh.mailUnmatched, n.mh.mailOverrun]

/-! ## Sections by number (R201) -/

/-- The snapshot of section 1 to 6. -/
def Node.snapshot (section_ : Nat) (n : Node) : List Byte :=
  match section_ with
  | 1 => n.identity
  | 2 => n.timebase
  | 3 => n.lanes
  | 4 => n.stitch
  | 5 =>
    match n.rh.settled with
    | none => []
    | some c => n.service c
  | _ => n.slotsSection

/-- The counters of a section set to 0 (R193, R80). -/
def Node.clearSection (section_ : Nat) (n : Node) : Node :=
  match section_ with
  | 2 =>
    { n with
      tb := { n.tb with adoptions := 0 }
      du := { n.du with
        implausible := 0, probeAbandoned := 0, replyDiscarded := 0, announceIgnored := 0, steps := 0 }
      sg := { n.sg with swaps := 0 } }
  | 3 =>
    let n := { n with ss := { n.ss with
      grants := 0, refusedEmpty := 0, refusedReserve := 0, lowWater := n.ss.freeCount } }
    match n.rh.straps.role with
    | .head => { n with lu := n.lu.clearCounters }
    | .base => { n with rl := Four.build fun p => (n.rl.get p).clearCounters }
  | 4 => { n with se := n.se.clearCounters, ou := n.ou.clearCounters }
  | 5 =>
    { n with
      si := n.si.clearCounters
      mh := { n.mh with
        unusableKind := 0, badForm := 0, probesUnanswered := 0, replyQueueFull := 0, controlBusy := 0
        controlUnreplied := 0 } }
  | 6 => { n with mh := { n.mh with mailUnmatched := 0, mailOverrun := 0 } }
  | _ => n

/-! ## Remote summaries (R201) -/

/-- The free bytes that stand for F_cur, N_next and J of an engine in IDLE (log entry 24); bits 7..4 of a plane set are
sent as 0 (R198). -/
def freeContext (k : Nat) : List Byte × List Byte :=
  ([Config.freeByte k, Config.freeByte (k + 1), Config.freeByte (k + 2)], [Config.freeByte (k + 3) &&& 0x0F])

/-- F_cur and N_next, then J. -/
def Node.summaryContext (n : Node) : List Byte × List Byte :=
  match n.se.state.ctx with
  | some f => ([f.fCur] ++ u16 f.nNext, setByte f.j)
  | none => freeContext n.freeIdx

/-- The summary of section 1 to 6 (R201). -/
def Node.summary (section_ : Nat) (n : Node) : List Byte :=
  match section_ with
  | 1 =>
    u8 (roleCode n.rh.straps.role) ++ u8 n.rh.straps.plane.toNat ++ u8 n.rh.straps.node.toNat
      ++ u8 n.rh.lifecycle.code ++ u8 n.rh.joining
  | 2 =>
    u8 n.du.state.code ++ u8 n.du.source.toNat ++ u8 n.du.cls ++ u16 n.du.dEst ++ flagByte n.du.dValid
      ++ u8 n.du.lock ++ u8 n.du.mon.code
  | 3 =>
    u8 n.ss.freeCount ++
      (match n.rh.straps.role with
        | .head => u8 n.lu.line.code ++ u8 n.lu.queue.length
        | .base => n.rl.toList.flatMap fun l => u8 l.state.code)
  | 4 => u8 n.se.state.code ++ n.summaryContext.1 ++ n.summaryContext.2 ++ u8 n.ou.freePlaces
  | 5 => u8 n.si.state.code ++ u8 n.si.tec ++ u8 n.si.recCount ++ flagByte n.si.listenOnly
  | _ => n.mh.slots.flatMap fun s => u8 s.state.code

/-- The free bytes a summary draws: four for the stitch section of an engine in IDLE (log entries 24, 25). -/
def Node.summaryDraws (section_ : Nat) (n : Node) : Nat :=
  if section_ = 4 && n.se.state.ctx.isNone then 4 else 0

end Sys2Proof.Machine
end

