-- ==== Sys2Proof/Machine/Requests.lean ====
section
/-! DEFINITION. The request handler RH: mailbox, requests, remote requests, notices and resets
(R176, R186 to R197). -/

namespace Sys2Proof.Machine

/-! ## The mailbox (R190) -/

/-- The address byte names this part: 0x5C + ADR (R186). -/
def Node.isAddressed (addr : BitVec 7) (n : Node) : Bool := addr.toNat == 0x5C + n.rh.straps.adr.toNat

/-- The mailbox in a new state. -/
def Node.setMailbox (m : Mailbox) (n : Node) : Node := { n with rh := { n.rh with mailbox := m } }

/-- A request of the mailbox carried out whole, its response held (R190): any held response is discarded first. A
transaction to another address is ignored. -/
def Node.request (addr : BitVec 7) (body : List Byte) (f : Node → Node × Response) (n : Node) : Node :=
  if n.isAddressed addr && bodyFits body then
    (f (n.setMailbox .taking)).1.setMailbox (.held (f (n.setMailbox .taking)).2)
  else n

/-- The answer BAD_LENGTH, with no other effect (R190). -/
def Node.badLength (n : Node) : Node × Response := (n, .plain .badLength)

/-- An answer with no effect. -/
def Node.refuse (r : ResultCode) (n : Node) : Node × Response := (n, .plain r)

/-! ## SETTLE (R188, R189) -/

/-- The runtime set a settled configuration gives (R189). -/
def Settled.runtime (c : Settled) : Runtime :=
  { mask := c.mask, w := c.w, mode := c.mode, threshold := c.threshold, lead := c.lead }

/-- An accepted SETTLE (R189): every block takes up its settled state at this tick. -/
def Node.acceptSettle (c : Settled) (n : Node) : Node :=
  { n with
    rh := { n.rh with
      settled := some c, runtime := c.runtime, pending := PendingSet.none, levels := c.levels
      lifecycle := .joining, joining := 3 * c.m }
    tb := n.tb.frameZero c
    sg := n.sg.settle c.schedule
    si := n.si.integrate
    mh := n.mh.settle c.slots
    lu := n.lu.settle n.rh.straps.role }

/-- SETTLE (R188): the length, the lifecycle, then the block's items in the order of the table. -/
def Node.settle (body : List Byte) (n : Node) : Node × Response :=
  if body.length != 180 then n.badLength
  else if n.rh.lifecycle != .unsettled then n.refuse .refusedState
  else
    match (SettleBlock.ofBytes body).failing with
    | some row => (n, ⟨.refusedRange, u8 row⟩)
    | none => (n.acceptSettle (SettleBlock.ofBytes body).settled, .plain .done)

/-! ## ADJUST (R191, R192) -/

/-- An accepted item becomes pending, clamped where R191 clamps it; a schedule goes to SG's holder (R69). -/
def Node.takeItem (c : Settled) (i : AdjustItem) (n : Node) : Node :=
  let p := n.rh.pending
  match i with
  | .mask v => { n with rh := { n.rh with pending := { p with mask := some (BitVec.ofNat 4 v) } } }
  | .w v => { n with rh := { n.rh with pending := { p with w := some (max 1 v) } } }
  | .mode v => { n with rh := { n.rh with pending := { p with mode := some (concealMode v) } } }
  | .threshold v => { n with rh := { n.rh with pending := { p with threshold := some (min 7 v) } } }
  | .lead v => { n with rh := { n.rh with pending := { p with lead := some (min (c.period - 1) v) } } }
  | .listenOnly v => { n with rh := { n.rh with pending := { p with listenOnly := some (v == 1) } } }
  | .preset t => { n with rh := { n.rh with pending := { p with preset := some t } } }
  | .schedule _ l => { n with sg := n.sg.hold (l.map RawStrobe.entry) }

/-- The items taken one by one; a listen-only value takes effect at once on an idle carrier (R167). -/
def Node.takeItems (c : Settled) (l : List AdjustItem) (n : Node) : Node :=
  (l.foldl (fun n i => n.takeItem c i) n).atIdlePoint

/-- The codes of the clamped items (R191), in the order in which the body gives the items (the model's choice, log entry
21). -/
def clampedCodes (c : Settled) (l : List AdjustItem) : List Byte :=
  (l.filter (AdjustItem.clamped c)).flatMap fun i => u8 i.code

/-- The items of a whole body checked before any is taken (R191). -/
def Node.adjustItems (c : Settled) (l : List AdjustItem) (n : Node) : Node × Response :=
  if l.all (AdjustItem.legal c) && distinctItems l then (n.takeItems c l, ⟨.done, clampedCodes c l⟩)
  else n.refuse .refusedRange

/-- ADJUST (R191), from the mailbox or by CONTROL. -/
def Node.adjust (body : List Byte) (n : Node) : Node × Response :=
  match n.rh.settled with
  | none => n.refuse .refusedState
  | some c =>
    match readItems (body.length + 1) body with
    | .error r => n.refuse r
    | .ok l => n.adjustItems c l

/-! ## SEND, TAKE (R180, R181) -/

/-- SEND, refused before the first accepted SETTLE (R184). -/
def Node.send (body : List Byte) (n : Node) : Node × Response :=
  if n.rh.lifecycle = .unsettled then n.refuse .refusedState
  else ({ n with mh := (n.mh.send body).1 }, .plain (n.mh.send body).2)

/-- TAKE, refused before the first accepted SETTLE (R184). -/
def Node.take (body : List Byte) (n : Node) : Node × Response :=
  if body.length != 1 then n.badLength
  else if n.rh.lifecycle = .unsettled then n.refuse .refusedState
  else ({ n with mh := (n.mh.take (field body 0 1)).1 }, (n.mh.take (field body 0 1)).2)

/-! ## STATUS (R193) -/

/-- The result a STATUS has before its snapshot is taken: section number, then lifecycle (R193). -/
def Node.statusResult (body : List Byte) (n : Node) : ResultCode :=
  if body.length != 2 then .badLength
  else if field body 0 1 = 0 || 6 < field body 0 1 then .refusedRange
  else if n.rh.lifecycle = .unsettled && field body 0 1 != 1 then .refusedState
  else .done

/-- The section's counters cleared if the clear flag is set (R193, R201). -/
def Node.statusClear (body : List Byte) (n : Node) : Node :=
  if field body 1 1 = 0 then n else n.clearSection (field body 0 1)

/-- The levels of CP0..CP3 and PREADY as they stand when a snapshot is taken (R108, R145; log entry 4). -/
def Node.seePins (cp : PlaneSet) (pready : Bool) (n : Node) : Node :=
  { n with pins := { n.pins with cp := Four.build fun p => PlaneSet.has cp p, pready := pready } }

/-- STATUS from the mailbox (R193). -/
def Node.status (body : List Byte) (cp : PlaneSet) (pready : Bool) (n : Node) : Node × Response :=
  if n.statusResult body = .done then
    ((n.seePins cp pready).statusClear body, ⟨.done, (n.seePins cp pready).snapshot (field body 0 1)⟩)
  else n.refuse (n.statusResult body)

/-! ## NOTICES (R196) -/

/-- The highest source, its level and the bytes drawn for it: SILENCED and none have no level (log entry 24). -/
def Node.topNotice (n : Node) : List Byte × Nat :=
  if n.rh.isPending 15 then (u8 15 ++ [Config.freeByte n.freeIdx], 1)
  else
    match n.rh.topSource with
    | none => (u8 0 ++ [Config.freeByte n.freeIdx], 1)
    | some k => (u8 k ++ u8 (n.rh.level k), 0)

/-- Every source of the acknowledge set cleared; bit 0 is ignored (R196, R201). -/
def Rh.acknowledge (set : BitVec 16) (rh : Rh) : Rh := { rh with notices := rh.notices &&& ~~~ (set &&& 0xFFFE) }

/-- NOTICES (R196): the snapshot, then the acknowledgement. -/
def Node.noticesRequest (body : List Byte) (n : Node) : Node × Response :=
  if body.length != 2 then n.badLength
  else
    ({ n with
        rh := n.rh.acknowledge (BitVec.ofNat 16 (field body 0 2))
        freeIdx := n.freeIdx + n.topNotice.2 },
      ⟨.done, u16 n.rh.notices.toNat ++ n.topNotice.1 ++ u8 n.rh.runtime.threshold⟩)

/-! ## Soft reset (R197) -/

/-- RH's part of a soft reset (R197). -/
def Rh.softReset (c : Settled) (rh : Rh) : Rh :=
  { rh with
    runtime := c.runtime, pending := PendingSet.none, notices := 0, lifecycle := .joining, joining := 3 * c.m }

/-- A soft reset (R197): each block's part, at one tick. -/
def Node.softReset (c : Settled) (n : Node) : Node :=
  { n with
    tb := n.tb.softReset c n.du.i
    du := n.du.softReset n.rh.straps.node
    sg := Sg.softReset c.schedule
    ss := Ss.softReset
    lu := n.lu.softReset
    rl := Four.const Lane.powerOn
    se := Se.powerOn
    ou := n.ou.softReset
    si := Si.softReset n.rh.straps.node
    mh := n.mh.softReset
    rh := n.rh.softReset c }

/-- SOFT_RESET, from the mailbox or by CONTROL (R197). -/
def Node.softResetRequest (body : List Byte) (n : Node) : Node × Response :=
  if body.length != 0 then n.badLength
  else
    match n.rh.settled with
    | none => n.refuse .refusedState
    | some c => (n.softReset c, .plain .done)

/-! ## Remote requests (R176, R194) -/

/-- A remote STATUS, answered with the section's summary (R193, R201). -/
def Node.remoteStatus (body : List Byte) (n : Node) : Node × Response :=
  if n.statusResult body = .done then
    ({ n.statusClear body with freeIdx := n.freeIdx + n.summaryDraws (field body 0 1) },
      ⟨.done, n.summary (field body 0 1)⟩)
  else n.refuse (n.statusResult body)

/-- A remote request (R194): ADJUST, STATUS and SOFT_RESET; any other kind is UNKNOWN_KIND. -/
def Node.remote (kind : Nat) (body : List Byte) (n : Node) : Node × Response :=
  match kind with
  | 2 => n.adjust body
  | 5 => n.remoteStatus body
  | 7 => n.softResetRequest body
  | _ => n.refuse .unknownKind

/-- The CONTROL_REPLY placed, or discarded under listen-only (R176), the reply to a remote SOFT_RESET at a node
strapped as 15 too (the model's choice, log entry 52). -/
def Node.placeReply (requester : BitVec 4) (r : Response) (n : Node) : Node :=
  if n.si.listenOnly then
    { n with mh := { n.mh with controlUnreplied := Counter.bump n.mh.controlUnreplied } }
  else { n with mh := { n.mh with controlReply := some ⟨requester, r.code.byte :: r.body⟩ } }

/-- MH takes a CONTROL (R171, R176): target, the place, then the request and its reply. -/
def Node.control (key : Key) (payload : List Byte) (n : Node) : Node :=
  if Key.first key = n.rh.straps.node || Key.first key = 15 then
    if n.mh.controlReply.isSome then
      { n with mh := { n.mh with controlBusy := Counter.bump n.mh.controlBusy } }
    else
      (n.remote (field payload 0 1) (payload.drop 1)).1.placeReply (Key.second key)
        (n.remote (field payload 0 1) (payload.drop 1)).2
  else n

/-- A CONTROL handed to MH. One that comes together with the end of the node's own CONTROL_REPLY, and is taken first,
finds the place holding the reply (the paragraph after R177); SI counts it and goes on with the reply. -/
def Node.controlReceived (ok : Bool) (key : Key) (payload : List Byte) (stamp : Word32) (marked : Bool) (n : Node) :
    Node :=
  if ok && n.started .controlReply && n.si.state.isOn then
    (Node.followCounts { n with si := n.si.countReceived }).control key payload
  else n.receive ok key payload stamp marked fun _ _ n => n.control key payload

/-! ## Other transactions of the mailbox (R190) -/

/-- The command that a write transaction is: a whole request by its kind byte, with the body its length bytes give, or
a bad request (R190, R201). `cp` and `pready` are the pin levels a STATUS reports. -/
def mailboxCommand (addr : BitVec 7) (bytes : List Byte) (cp : PlaneSet) (pready : Bool) : Instr :=
  match writeFate bytes with
  | .whole =>
    let body := (bytes.drop 3).take (field bytes 1 2)
    match field bytes 0 1 with
    | 1 => .settle addr body
    | 2 => .adjust addr body
    | 3 => .send addr body
    | 4 => .take addr body
    | 5 => .status addr ⟨body, cp, pready⟩
    | 6 => .notices addr body
    | _ => .softReset addr body
  | _ => .mailboxBadRequest addr bytes

/-- A write transaction that is no whole request (R190). -/
def Node.badRequest (bytes : List Byte) (n : Node) : Node :=
  match writeFate bytes with
  | .short => n.setMailbox .idle
  | .bad c => n.setMailbox (.held (.plain c))
  | .whole => n

/-- What a read of `count` bytes shows: the response, then the idle value 0xFF (R190, R201). -/
def Response.read (count : Nat) (r : Response) : List Byte :=
  r.bytes.take count ++ List.replicate (count - r.bytes.length) 0xFF

/-- A read transaction (R190). -/
def Node.mailboxRead (count : Nat) (n : Node) : Node :=
  match n.rh.mailbox with
  | .held r =>
    { n with rh := { n.rh with
      busRead := .bytes (r.read count)
      mailbox := if r.bytes.length ≤ count then .idle else .held r } }
  | _ => { n with rh := { n.rh with busRead := .nak } }

/-! ## RST_N (R148, R186) -/

/-- RST_N is asserted (R148): the output port of a settled base node closes a record in emission, its queue gives up its
buffers as R146 states, and the engine enters IDLE in the same reset (R15, R146), its records and hold slots discarded
without a count (R138). -/
def Node.assertReset (n : Node) : Node :=
  match n.baseCfg with
  | none => { n with rstLow := true }
  | some _ => Node.settleRefs { n with rstLow := true, se := n.se.enterIdle, ou := n.ou.cutByReset }

/-! ## The commands -/

/-- POWER_ON_RESET (R186): the straps are sampled, every block holds its power-on state. -/
def execPowerOnReset (role : Role) (plane : BitVec 2) (node : BitVec 4) (adr : BitVec 2) (s : State) :
    Host.Outcome State Fault Refusal :=
  s.next (Node.powerOn ⟨role, plane, node, adr⟩ s.node.pins s.node.freeIdx)

/-- RST_N_ASSERTED (R148). -/
def execRstNAsserted (s : State) : Host.Outcome State Fault Refusal := s.next (s.node.awake Node.assertReset)

/-- SETTLE (R188). -/
def execSettle (addr : BitVec 7) (body : List Byte) (s : State) : Host.Outcome State Fault Refusal :=
  s.next (s.node.awake (Node.request addr body (Node.settle body)))

/-- ADJUST (R191). -/
def execAdjust (addr : BitVec 7) (body : List Byte) (s : State) : Host.Outcome State Fault Refusal :=
  s.next (s.node.awake (Node.request addr body (Node.adjust body)))

/-- SEND (R181). -/
def execSend (addr : BitVec 7) (body : List Byte) (s : State) : Host.Outcome State Fault Refusal :=
  s.next (s.node.awake (Node.request addr body (Node.send body)))

/-- TAKE (R180). -/
def execTake (addr : BitVec 7) (body : List Byte) (s : State) : Host.Outcome State Fault Refusal :=
  s.next (s.node.awake (Node.request addr body (Node.take body)))

/-- STATUS (R193). -/
def execStatus (addr : BitVec 7) (req : StatusRequest) (s : State) : Host.Outcome State Fault Refusal :=
  s.next (s.node.awake (Node.request addr req.body (Node.status req.body req.cp req.pready)))

/-- NOTICES (R196). -/
def execNotices (addr : BitVec 7) (body : List Byte) (s : State) : Host.Outcome State Fault Refusal :=
  s.next (s.node.awake (Node.request addr body (Node.noticesRequest body)))

/-- SOFT_RESET (R197). -/
def execSoftReset (addr : BitVec 7) (body : List Byte) (s : State) : Host.Outcome State Fault Refusal :=
  s.next (s.node.awake (Node.request addr body (Node.softResetRequest body)))

/-- MAILBOX_BAD_REQUEST (R190). -/
def execMailboxBadRequest (addr : BitVec 7) (bytes : List Byte) (s : State) : Host.Outcome State Fault Refusal :=
  s.next (s.node.awake fun n => if n.isAddressed addr then n.badRequest bytes else n)

/-- MAILBOX_READ (R190). -/
def execMailboxRead (addr : BitVec 7) (count : Nat) (s : State) : Host.Outcome State Fault Refusal :=
  s.next (s.node.awake fun n => if n.isAddressed addr then n.mailboxRead count else n)

/-- CONTROL_RECEIVED (R176). -/
def execControlReceived (key : Key) (payload : List Byte) (arrival : Arrival) (s : State) :
    Host.Outcome State Fault Refusal :=
  s.next (s.node.awake fun n => n.controlReceived (isGood 4 key payload) key payload arrival.stamp arrival.marked)

end Sys2Proof.Machine
end

