-- ==== Sys2Proof/Machine/Dispatch.lean ====
section
/-! DEFINITION. One arm for each command. -/

namespace Sys2Proof.Machine

/-- The effect of a command on everything but the queue. -/
def exec (i : Instr) (s : State) : Host.Outcome State Fault Refusal :=
  match i with
  | .powerOnReset role plane node adr => Sys2Proof.Machine.execPowerOnReset role plane node adr s
  | .rstNAsserted => Sys2Proof.Machine.execRstNAsserted s
  | .settle addr body => Sys2Proof.Machine.execSettle addr body s
  | .adjust addr body => Sys2Proof.Machine.execAdjust addr body s
  | .send addr body => Sys2Proof.Machine.execSend addr body s
  | .take addr body => Sys2Proof.Machine.execTake addr body s
  | .status addr req => Sys2Proof.Machine.execStatus addr req s
  | .notices addr body => Sys2Proof.Machine.execNotices addr body s
  | .softReset addr body => Sys2Proof.Machine.execSoftReset addr body s
  | .mailboxBadRequest addr bytes => Sys2Proof.Machine.execMailboxBadRequest addr bytes s
  | .mailboxRead addr count => Sys2Proof.Machine.execMailboxRead addr count s
  | .frameStart => Sys2Proof.Machine.execFrameStart s
  | .runningEntry => Sys2Proof.Machine.execRunningEntry s
  | .candidateRemoved => Sys2Proof.Machine.execCandidateRemoved s
  | .holdoverExpired => Sys2Proof.Machine.execHoldoverExpired s
  | .probeTimeout => Sys2Proof.Machine.execProbeTimeout s
  | .strobeFire => Sys2Proof.Machine.execStrobeFire s
  | .refinPulse => Sys2Proof.Machine.execRefinPulse s
  | .referenceSilence => Sys2Proof.Machine.execReferenceSilence s
  | .announceReceived key payload arrival => Sys2Proof.Machine.execAnnounceReceived key payload arrival s
  | .delayProbeReceived key payload arrival => Sys2Proof.Machine.execDelayProbeReceived key payload arrival s
  | .delayReplyReceived key payload arrival => Sys2Proof.Machine.execDelayReplyReceived key payload arrival s
  | .controlReceived key payload arrival => Sys2Proof.Machine.execControlReceived key payload arrival s
  | .controlReplyReceived key payload arrival => Sys2Proof.Machine.execControlReplyReceived key payload arrival s
  | .unusableKind key payload arrival => Sys2Proof.Machine.execUnusableKind key payload arrival s
  | .badForm key payload arrival => Sys2Proof.Machine.execBadForm key payload arrival s
  | .userMailFiled key payload arrival => Sys2Proof.Machine.execUserMailFiled key payload arrival s
  | .messageStart => Sys2Proof.Machine.execMessageStart s
  | .arbitrationLost => Sys2Proof.Machine.execArbitrationLost s
  | .messageSent => Sys2Proof.Machine.execMessageSent s
  | .messageFailed => Sys2Proof.Machine.execMessageFailed s
  | .serviceError kind => Sys2Proof.Machine.execServiceError kind s
  | .guardedWaitEnd => Sys2Proof.Machine.execGuardedWaitEnd s
  | .silencedRecovery => Sys2Proof.Machine.execSilencedRecovery s
  | .integrationEnd => Sys2Proof.Machine.execIntegrationEnd s
  | .listenOnlyEffect => Sys2Proof.Machine.execListenOnlyEffect s
  | .frameBegin => Sys2Proof.Machine.execFrameBegin s
  | .lineBegin => Sys2Proof.Machine.execLineBegin s
  | .payloadWord pctl pd => Sys2Proof.Machine.execPayloadWord pctl pd s
  | .lineEnd => Sys2Proof.Machine.execLineEnd s
  | .segmentLaunched => Sys2Proof.Machine.execSegmentLaunched s
  | .carrierLoss lane => Sys2Proof.Machine.execCarrierLoss lane s
  | .startDelimiter lane cp => Sys2Proof.Machine.execStartDelimiter lane cp s
  | .segmentHeader lane header => Sys2Proof.Machine.execSegmentHeader lane header s
  | .segmentEnd lane how violation rest => Sys2Proof.Machine.execSegmentEnd lane how violation rest s
  | .silenceTimeout lane => Sys2Proof.Machine.execSilenceTimeout lane s
  | .recordDeadline frame line => Sys2Proof.Machine.execRecordDeadline frame line s
  | .recordEnd => Sys2Proof.Machine.execRecordEnd s
  | .abortTaken => Sys2Proof.Machine.execAbortTaken s
  | .wordTaken => Sys2Proof.Machine.execWordTaken s
  | .stall => Sys2Proof.Machine.execStall s

end Sys2Proof.Machine
end

