-- ==== Sys2Proof/Machine/Tick.lean ====
section
/-! DEFINITION. What the block does by itself while no command waits: the events that have come due, and one tick
of the clock (log entries 1 and 30). -/

namespace Sys2Proof.Machine

/-- A strobe entry matches this tick's position, not yet matched (R65). -/
def Node.strobeDue (c : Settled) (n : Node) : Bool :=
  n.strobeReady c && n.sg.active.any (StrobeEntry.isAt n.tb.line n.tb.tick)

/-- Lane `p`'s silence timer has run out while it listens (R106). -/
def Node.laneSilent (p : Fin 4) (n : Node) : Bool := (n.lane p).state != .dark && (n.lane p).isSilent n.tb.e

/-- The lowest lane whose silence timer has run out. -/
def Node.silentLane (n : Node) : Option (Fin 4) := [(0 : Fin 4), 1, 2, 3].find? fun p => n.laneSilent p

/-- The events of a base node that are due: silence timers, then record deadlines (R106, R118). -/
def Node.dueBase (n : Node) : Option Instr :=
  match n.baseCfg with
  | none => none
  | some _ =>
    match n.silentLane with
    | some p => some (.silenceTimeout p)
    | none => (n.se.table.find? (Record.expires n.tb.e)).map fun r => .recordDeadline r.frame r.line

/-- The event that this tick's sample has found, if it can come about (R157 to R159). -/
def Node.foundDue (n : Node) : Option Instr :=
  match n.si.found with
  | none => none
  | some .lost => if n.si.cleanOwn then some .arbitrationLost else none
  | some (.error k) => if n.si.canErr k then some (.serviceError k) else none
  | some .sent => if n.si.cleanOwn then some .messageSent else none
  | some (.received key payload marked) =>
    if n.si.canReceive then some (messageCommand key payload (n.si.rxStamp.getD n.tb.e) marked) else none

/-- SI's own events that are due (R157 to R161, R163 to R165, R167). -/
def Node.dueService (n : Node) : Option Instr :=
  if n.foundDue.isSome then n.foundDue
  else if (n.si.onCarrier.map (·.failed)).getD false then some .messageFailed
  else if n.si.state = .integrating && 10 ≤ n.si.spaces then some .integrationEnd
  else if n.si.state = .silenced && 48 ≤ n.si.recovery then some .silencedRecovery
  else if n.si.guardWait = some 0 then some .guardedWaitEnd
  else if n.isIdle && n.rh.pending.listenOnly.isSome then some .listenOnlyEffect
  else none

/-- A message is to be started (R155, R173): SI at a start point and permitted to send, and a place pending. -/
def Node.startDue (c : Settled) (n : Node) : Bool := n.si.startPoint && n.si.maySend && (n.choose c).isSome

/-- A launch has had its time in the head role (R91). -/
def Node.sentDue (n : Node) : Bool := n.headCfg.isSome && n.launchDue

/-- The next event that is due at this tick, if there is one (log entry 30). -/
def Node.due (n : Node) : Option Instr :=
  if n.rstLow then none
  else
    match n.rh.settled with
    | none => none
    | some c =>
      if n.tb.frameDue then some .frameStart
      else if n.strobeDue c then some .strobeFire
      else if n.silenceDue c then some .referenceSilence
      else
        match n.dueBase, n.dueService with
        | some i, _ => some i
        | none, some i => some i
        | none, none =>
          if n.startDue c then some .messageStart
          else if n.sentDue then some .segmentLaunched
          else none

/-- SI's bit clock under the settled timing. -/
def Si.tickWith (settled : Option Settled) (e : Word32) (rx : Bool) (si : Si) : Si :=
  match settled with
  | none => si
  | some c => si.tick c e rx

/-- One tick of the 27 MHz clock: E, the frame generator, the position to be matched, the bit clock (R16, R18,
R65, R150), with the next level on the service carrier (log entry 15). Nothing moves while RST_N is asserted (log
entry 28). -/
def Node.tick (n : Node) : Node :=
  n.awake fun n =>
    { n with
      tb := n.tb.onTick n.rh.settled
      sg := { n.sg with prior := none }
      si := n.si.tickWith n.rh.settled (n.tb.e + 1) (n.pins.svc.headD true)
      pins := { n.pins with svc := n.pins.svc.tail } }

end Sys2Proof.Machine
end

