-- ==== Sys2Proof/Machine/Step.lean ====
section
/-! DEFINITION. One step: the command at the front of the queue, or what the block does by itself. -/

namespace Sys2Proof.Machine

/-- One step. With an empty queue the next event that is due acts, or else one tick passes (log entry 1). -/
def step (s : State) : Host.Outcome State Fault Refusal :=
  match s.pending with
  | c :: rest => exec c { s with pending := rest }
  | [] =>
    match s.node.due with
    | some c => exec c s
    | none => s.next s.node.tick

/-- The state with the command that a word spells put at the front of its queue; unchanged where the word spells
none (log entry 35). -/
def State.withFetchWord (s : State) (nbits w : Nat) : State :=
  match Sys2Proof.decodeTableWord nbits w with
  | none => s
  | some c => { s with pending := c :: s.pending }

end Sys2Proof.Machine
end

