-- ==== Sys2Proof/Safety.lean ====
section
/-! DEFINITION. What counts as a sound state of the block, in the terms the statements use. -/

namespace Sys2Proof.Machine

/-! ## How a command ends -/

/-- The command answers a next state: the queue as it stands, and a block with the property `P`. -/
def Yields (i : Instr) (s : State) (P : Node → Prop) : Prop :=
  ∃ t, exec i s = .next t ∧ t.pending = s.pending ∧ P t.node

/-! ## When a command can act -/

/-- RST_N is released and the node is settled with `c`. -/
def Node.Works (c : Settled) (n : Node) : Prop := n.rstLow = false ∧ n.rh.settled = some c

/-- RST_N is released and the node is a head settled with `c`. -/
def Node.WorksHead (c : Settled) (n : Node) : Prop := n.rstLow = false ∧ n.headCfg = some c

/-- RST_N is released and the node is a base settled with `c`. -/
def Node.WorksBase (c : Settled) (n : Node) : Prop := n.rstLow = false ∧ n.baseCfg = some c

/-- RST_N is released and the mailbox is addressed by `addr` with a body its length field can give. -/
def Node.Hears (addr : BitVec 7) (body : List Byte) (n : Node) : Prop :=
  n.rstLow = false ∧ n.isAddressed addr = true ∧ bodyFits body = true

/-- Nothing but the mailbox changed, and it holds this answer. -/
def Node.OnlyAnswered (r : Response) (n t : Node) : Prop := t = n.setMailbox (.held r)

/-- From `n` to `t` nothing changed but event counters, the store's low-water mark and the count of free bytes drawn: at
most what a STATUS with its clear flag set changes (R193, R80). -/
structure Node.OnlyCleared (n t : Node) : Prop where
  tb : t.tb = { n.tb with adoptions := t.tb.adoptions }
  du : t.du = { n.du with
    implausible := t.du.implausible, probeAbandoned := t.du.probeAbandoned, replyDiscarded := t.du.replyDiscarded
    announceIgnored := t.du.announceIgnored, steps := t.du.steps }
  sg : t.sg = { n.sg with swaps := t.sg.swaps }
  ss : t.ss = { n.ss with
    lowWater := t.ss.lowWater, grants := t.ss.grants, refusedEmpty := t.ss.refusedEmpty
    refusedReserve := t.ss.refusedReserve }
  lu : t.lu.clearCounters = n.lu.clearCounters
  lanes : ∀ p, (t.lane p).clearCounters = (n.lane p).clearCounters
  se : t.se.clearCounters = n.se.clearCounters
  ou : t.ou.clearCounters = n.ou.clearCounters
  si : t.si.clearCounters = n.si.clearCounters
  mh : t.mh = { n.mh with
    unusableKind := t.mh.unusableKind, badForm := t.mh.badForm, probesUnanswered := t.mh.probesUnanswered
    replyQueueFull := t.mh.replyQueueFull, controlBusy := t.mh.controlBusy
    controlUnreplied := t.mh.controlUnreplied, mailUnmatched := t.mh.mailUnmatched, mailOverrun := t.mh.mailOverrun }
  rh : t.rh = n.rh
  pins : t.pins = n.pins
  rst : t.rstLow = n.rstLow

/-- A message of a good form for its kind can be received: SI is past integration with no message of its own on
the carrier and no error found since the carrier was idle. -/
def Node.Receives (c : Settled) (n : Node) : Prop := n.Works c ∧ n.si.canReceive = true

/-- The start stamp MH is given: the own start mark's where arbitration was lost (R156), else the receiver's. -/
def Node.stampOf (stamp : Word32) (n : Node) : Word32 := n.si.rxStamp.getD stamp

/-! ## Timecodes as numbers -/

/-- The frames of the day that a timecode stands for, at `r` frame counts a second (R27). -/
def Timecode.count (r : Nat) (t : Timecode) : Nat :=
  ((bcdVal t.hours * 60 + bcdVal t.minutes) * 60 + bcdVal t.seconds) * r + bcdVal t.frames

/-! ## Event counters by STATUS section (R193) -/

/-- The event counters of all four lanes. -/
def Node.laneCounters (n : Node) : List Counter := n.rl.toList.flatMap Lane.counters

/-- LU's eight counters (R92). -/
def Lu.counters (lu : Lu) : List Counter :=
  [ lu.linesLaunched, lu.brokenLine, lu.noFrame, lu.excessLine, lu.emptyLine, lu.overlongLine, lu.launchOverflow,
    lu.unframed ]

/-- The event counters that a section reports and clears. -/
def Node.counters (section_ : Nat) (n : Node) : List Counter :=
  match section_ with
  | 2 =>
    [ n.tb.adoptions, n.du.implausible, n.du.probeAbandoned, n.du.replyDiscarded, n.du.announceIgnored, n.du.steps,
      n.sg.swaps ]
  | 3 =>
    [n.ss.grants, n.ss.refusedEmpty, n.ss.refusedReserve] ++
      (match n.rh.straps.role with
        | .head => n.lu.counters
        | .base => n.laneCounters)
  | 4 =>
    [ n.se.framesStarted, n.se.framesEnded, n.se.framesFlushed, n.se.resyncStray, n.se.resyncEmpty,
      n.se.forcedLines, n.se.contribWithdrawn, n.se.contribDiscarded, n.ou.linesOut, n.ou.framesOut, n.ou.abortsOut,
      n.ou.stalledRecords, n.ou.queueFull ]
  | 5 =>
    [ n.si.sentOk, n.si.sendFailed, n.si.receivedOk, n.si.arbitrationLost, n.si.echoErrors, n.si.symbolErrors,
      n.si.checkErrors, n.si.noAckErrors, n.mh.unusableKind, n.mh.badForm, n.mh.probesUnanswered,
      n.mh.replyQueueFull, n.mh.controlBusy, n.mh.controlUnreplied ]
  | 6 => [n.mh.mailUnmatched, n.mh.mailOverrun]
  | _ => []

/-- Every event counter of the block. -/
def Node.allCounters (n : Node) : List Counter :=
  [2, 3, 4, 5, 6].flatMap (fun k => n.counters k) ++ n.lu.counters ++ n.laneCounters

/-! ## Bounds the spec states -/

/-- DU's bounds: I (R57), the candidate table (R36), a valid delay estimate (R48), the lock count (R58). -/
structure Du.Bounded (d : Du) : Prop where
  iLow : -1023 ≤ d.i
  iHigh : d.i ≤ 1023
  cands : d.cands.length ≤ 4
  delay : d.dValid = true → d.dEst ≤ 4095
  lock : d.lock ≤ 4

/-- TB's bounds: Q (R20) and the history (R25). -/
structure Tb.Bounded (tb : Tb) : Prop where
  qLow : -1023 ≤ tb.q
  qHigh : tb.q ≤ 1023
  history : tb.history.length ≤ 4

/-- SE's bounds: at most 16 records (R115), the stray run below 8 (R125), nothing held in IDLE (R111). -/
structure Se.Bounded (se : Se) : Prop where
  table : se.table.length ≤ 16
  stray : se.strayRun < 8
  idleTable : se.state = .idle → se.table = []
  idleHolds : se.state = .idle → se.holds = Four.const none
  idleStray : se.state = .idle → se.strayRun = 0
  flushTable : ∀ f, se.state = .flushing f → se.table = []

/-- SI's bounds: TEC and REC (R162). -/
structure Si.Bounded (si : Si) : Prop where
  tec : si.tec ≤ 255
  recCount : si.recCount ≤ 255

/-- MH's bounds: the reply queue (R174) and the twelve slots (R178). -/
structure Mh.Bounded (mh : Mh) : Prop where
  replies : mh.replies.length ≤ 4
  slots : mh.slots.length = 12

/-- The bounds of every block: those above, 48 buffers (R73), 8 queued segments (R89), 4 descriptors (R140), and
schedules of at most 12 entries (R64). -/
structure Node.Bounded (n : Node) : Prop where
  tb : n.tb.Bounded
  du : n.du.Bounded
  se : n.se.Bounded
  si : n.si.Bounded
  mh : n.mh.Bounded
  store : n.ss.bufs.length = 48
  launches : n.lu.queue.length ≤ 8
  places : n.ou.queue.length ≤ 4
  active : n.sg.active.length ≤ 12
  holder : ∀ l, n.sg.holder = some l → l.length ≤ 12
  settled : ∀ c, n.rh.settled = some c → c.schedule.length ≤ 12 ∧ c.slots.length = 12

/-! ## The blocks of the node's role (R186) -/

/-- The blocks that do not work stand as a power-on reset leaves them: before the first accepted SETTLE no frame
is made and SI is OFF (R17, R165), a node that is no settled base has an IDLE engine, DARK lanes and an empty output
queue (R96, R111, R139), and a node that is no settled head drives no uplink and queues no launch (R82). TEC is 0
until SI has integrated, and below 192 in ACTIVE and GUARDED (R163, R165). -/
structure Node.RoleFit (n : Node) : Prop where
  unsettledLife : n.rh.settled = none → n.rh.lifecycle = .unsettled
  unsettledGen : n.rh.settled = none → n.tb.gen = none
  unsettledSi : n.rh.settled = none → n.si.state = .off
  settledLife : ∀ c, n.rh.settled = some c → n.rh.lifecycle ≠ .unsettled
  settledGen : ∀ c, n.rh.settled = some c → n.tb.gen.isSome = true
  settledSi : ∀ c, n.rh.settled = some c → n.si.state ≠ .off
  restTec : n.si.state = .off ∨ n.si.state = .integrating → n.si.tec = 0
  workTec : n.si.state = .active ∨ n.si.state = .guarded → n.si.tec < 192
  idleEngine : n.baseCfg = none → n.se.state = .idle
  darkLanes : n.baseCfg = none → ∀ p, (n.lane p).state = .dark ∧ (n.lane p).seg = .none
  emptyPort : n.baseCfg = none → n.ou.queue = [] ∧ n.ou.abort = none
  quietUplink : n.headCfg = none → n.lu.carrier = .off ∧ n.lu.line = .outside ∧ n.lu.queue = []

/-! ## The store's accounts (R73, R74) -/

/-- The reference count of a buffer state; 0 where it has none. -/
def BufState.count : BufState → Nat
  | .referenced k => k
  | _ => 0

/-- A REFERENCED buffer's count equals the number of assembly records, output descriptors and hold slots that name
it, and no other buffer is named (R73); a lane's or LU's filling buffer is FILLING with that owner, and the launch
queue's buffers are QUEUED and distinct (R73, R78). -/
structure Node.StoreExact (n : Node) : Prop where
  counts : ∀ b, refCount n.se n.ou b = (n.ss.buf b).state.count
  positive : ∀ b k, (n.ss.buf b).state = .referenced k → 0 < k
  lanes : ∀ p b, (n.lane p).seg.buffer = some b → (n.ss.buf b).state = .filling (.lane p)
  line : ∀ b, n.lu.line = .filling b → (n.ss.buf b).state = .filling .lu
  queued : ∀ g, g ∈ n.lu.queue → (n.ss.buf g.buf).state = .queued
  distinct : (n.lu.queue.map (·.buf)).Nodup

end Sys2Proof.Machine
end

