-- ==== Sys2Proof/Certificates/Slice0/Obligations.lean ====
section
/-! DEFINITION. The statements for the provers. -/

open Sys2Proof Sys2Proof.Machine

/-! ## Steps -/

/-- A step with a command at the front of the queue is `exec` of it on the state with the queue's rest. -/
def Obligations.StepTakesTheFront : Prop :=
  ∀ (c : Instr) (s : State) (rest : List Instr),
    step { s with pending := c :: rest } = exec c { s with pending := rest }

/-- With an empty queue a step takes the next event that is due, or lets one tick pass: that, and the order of the
events due, is the model's choice, log entries 1 and 30. One tick: E counts one step; the line and the tick within it
advance by the line's length while the generator runs; the strobe position is yet to match; SI and the levels waiting
on its carrier move on; nothing else changes. What is due: nothing under RST_N or before the first SETTLE; then, in
this order, the frame start, a matching strobe entry, the reference's silence, on a base the lowest silent lane and the
first expired record, SI's own events, a message start, the end of a launch. -/
def Obligations.EmptyQueueAndTick : Prop :=
  (∀ s : State, s.pending = [] →
    (∀ i, s.node.due = some i → step s = exec i s)
    ∧ (s.node.due = none → step s = .next { s with node := s.node.tick }))
  ∧ (∀ n : Node, n.rstLow = false →
    n.tick.tb.e = n.tb.e + 1
    ∧ (n.tb.gen = none → n.tick.tb = { n.tb with e := n.tb.e + 1 })
    ∧ (∀ c g, n.rh.settled = some c → n.tb.gen = some g →
        (n.tb.line + 1 < c.lTot → c.lineLength n.tb.line n.tb.trim ≤ n.tb.tick + 1 →
          n.tick.tb = { n.tb with e := n.tb.e + 1, line := n.tb.line + 1, tick := 0 })
        ∧ ((c.lTot ≤ n.tb.line + 1 ∨ n.tb.tick + 1 < c.lineLength n.tb.line n.tb.trim) →
          n.tick.tb = { n.tb with e := n.tb.e + 1, tick := n.tb.tick + 1 }))
    ∧ n.tick = { n with
        tb := n.tick.tb, sg := { n.sg with prior := none }, si := n.tick.si
        pins := { n.pins with svc := n.pins.svc.tail } })
  ∧ ∀ n : Node,
    ((n.rstLow = true ∨ n.rh.settled = none) → n.due = none)
    ∧ ∀ c, n.Works c →
      (n.tb.frameDue = true → n.due = some .frameStart)
      ∧ (n.tb.frameDue = false → n.strobeDue c = true → n.due = some .strobeFire)
      ∧ (n.tb.frameDue = false → n.strobeDue c = false →
        (n.silenceDue c = true → n.due = some .referenceSilence)
        ∧ (n.silenceDue c = false →
          (∀ p, n.baseCfg = some c → n.laneSilent p = true → (∀ q, q < p → n.laneSilent q = false) →
            n.due = some (.silenceTimeout p))
          ∧ (∀ r before after, n.baseCfg = some c → (∀ p, n.laneSilent p = false) →
              n.se.table = before ++ r :: after → r.expires n.tb.e = true →
              (∀ x ∈ before, x.expires n.tb.e = false) → n.due = some (.recordDeadline r.frame r.line))
          ∧ ((n.baseCfg = none ∨ ((∀ p, n.laneSilent p = false) ∧ ∀ r ∈ n.se.table, r.expires n.tb.e = false)) →
              (∀ i, n.dueService = some i → n.due = some i)
              ∧ (n.dueService = none → n.startDue c = true → n.due = some .messageStart)
              ∧ (n.dueService = none → n.startDue c = false →
                  n.due = if n.headCfg.isSome = true ∧ n.launchDue = true then some .segmentLaunched else none))))

/-- One tick of SI's bit clock. OFF, nothing happens. Within a bit the position counts ticks, and the carrier's level, a
mark of anyone's overriding a space, is the bit's value at the sample point. At the bit's end a new one begins with the
level SI drives: a mark of its burst, a bit of its own message, an acknowledge mark, else a space. An edge from space to
mark begins a bit where a start mark can begin; within a message, or in the wait after one, once a bit and not while SI
sends a mark, it moves the rest of the bit by at most SJW quanta. Whole quanta, the edges after an error or in
INTEGRATING, and the levels that others put on the carrier, are the model's choices (log entries 15 and 34). -/
def Obligations.ServiceTick : Prop :=
  (∀ n : Node, n.rstLow = false → ∀ c, n.rh.settled = some c →
    n.tick.si = n.si.tick c (n.tb.e + 1) (n.pins.svc.headD true))
  ∧ ∀ (si : Si) (c : Settled) (e : Word32) (rx : Bool),
    (si.state = .off → si.tick c e rx = si)
    ∧ (si.state ≠ .off →
      (si.bitPos + 1 < c.bitTicks → (si.level = false ∨ (si.tx && rx) = true) →
        si.tick c e rx =
          (if si.bitPos + 1 = c.sampleTicks
            then Si.sample e { si with found := none, bitPos := si.bitPos + 1, level := si.tx && rx }
            else { si with found := none, bitPos := si.bitPos + 1, level := si.tx && rx }))
      ∧ (c.bitTicks ≤ si.bitPos + 1 →
        si.tick c e rx = { si with
            found := none, bitPos := 0, resynced := false, level := (si.tick c e rx).tx && rx
            bitNo := if si.phase = Phase.receiving then si.bitNo + 1 else 0
            burst := if si.burstWait = 0 then si.burst - 1 else si.burst, burstWait := si.burstWait - 1
            tx := (si.tick c e rx).tx, acked := si.acked || si.marksSlot }
        ∧ ((2 ≤ si.burst ∧ si.burstWait = 0 ∨ 1 ≤ si.burst ∧ si.burstWait = 1) → (si.tick c e rx).tx = false)
        ∧ (si.burst = 0 →
          (∀ o, si.onCarrier = some o → (si.tick c e rx).tx = (o.failed ||
            o.bits.getD (if si.phase = Phase.receiving then si.bitNo + 1 else 0) true))
          ∧ (si.onCarrier = none → ((si.tick c e rx).tx = false ↔
              si.phase = .receiving ∧ si.reading.atSlot = true ∧ si.listenOnly = false
                ∧ (si.state = .active ∨ si.state = .guarded)))))
      ∧ (si.bitPos + 1 < c.bitTicks → si.level = true → (si.tx && rx) = false →
        (si.awaitsStart = true →
          si.tick c e rx = { si with found := none, level := false, bitPos := 0, resynced := false })
        ∧ (si.awaitsStart = false →
            (si.phase = .idle ∨ si.phase = .interspace ∨ si.tx = false ∨ si.resynced = true) →
          si.tick c e rx =
            (if si.bitPos + 1 = c.sampleTicks
              then Si.sample e { si with found := none, bitPos := si.bitPos + 1, level := false }
              else { si with found := none, bitPos := si.bitPos + 1, level := false }))
        ∧ (∀ q, q = (si.bitPos + 1) / c.tq → (si.phase = .receiving ∨ si.phase = .recovering) →
            si.tx = true → si.resynced = false → si.bitPos + 1 ≠ c.sampleTicks →
          (q = 0 → si.tick c e rx = { si with found := none, level := false, bitPos := si.bitPos + 1 })
          ∧ (1 ≤ q → q < 1 + c.prop + c.pa → si.tick c e rx = { si with
              found := none, level := false, resynced := true
              bitPos := si.bitPos + 1 - min (q - 1) c.sjw * c.tq })
          ∧ (1 + c.prop + c.pa ≤ q →
              si.bitPos + 1 + min (1 + c.prop + c.pa + c.pb - q) c.sjw * c.tq < c.bitTicks →
              si.tick c e rx = { si with
                found := none, level := false, resynced := true
                bitPos := si.bitPos + 1 + min (1 + c.prop + c.pa + c.pb - q) c.sjw * c.tq }))
        ∧ (∀ x, (si.phase = .receiving ∨ si.phase = .recovering) → si.tx = true → si.resynced = false →
            si.bitPos + 1 = c.sampleTicks →
            x = Si.sample e { si with found := none, bitPos := si.bitPos + 1, level := false } →
            (min c.pb c.sjw < c.pb → si.tick c e rx = { x with
              resynced := true, bitPos := si.bitPos + 1 + min c.pb c.sjw * c.tq })
            ∧ (c.pb ≤ c.sjw → si.tick c e rx = { x.newBit with bitPos := 0 }))))

/-- What SI's sample of a bit does in each phase: the spaces of an idle carrier count off a guarded wait, those of an
interspace lead to idle, ten in a row end the wait after an error, and in INTEGRATING they are counted; ten in a row in
SILENCED raise the recovery count; a mark begins a message, ends a run, or in the first two interspace bits is an error;
a receiver's bit joins its reading or shows an error or the whole message; a sender compares with what it drove. Then
which of SI's events is due. That these come about at the tick of the sample, in this order, is the model's choice (log
entries 15 and 30); a sender's difference outside key and slot is an echo error (log entry 36). -/
def Obligations.SampleFinds : Prop :=
  (∀ (si : Si) (e : Word32),
    (si.sample e).recoveryRun = (if si.state = .silenced then
        if si.level = false ∨ 10 ≤ si.recoveryRun + 1 then 0 else si.recoveryRun + 1
      else si.recoveryRun)
    ∧ (si.sample e).recovery =
        (if si.state = .silenced ∧ si.level = true ∧ 10 ≤ si.recoveryRun + 1 then si.recovery + 1 else si.recovery)
    ∧ si.sample e = { si with
        recoveryRun := (si.sample e).recoveryRun, recovery := (si.sample e).recovery, spaces := (si.sample e).spaces
        rxStamp := (si.sample e).rxStamp, phase := (si.sample e).phase, guardWait := (si.sample e).guardWait
        bitNo := (si.sample e).bitNo, reading := (si.sample e).reading, found := (si.sample e).found
        acked := (si.sample e).acked }
    ∧ (si.phase = .idle → si.level = true →
        (si.sample e).guardWait = si.guardWait.map (· - 1) ∧ (si.sample e).phase = .idle)
    ∧ ((si.phase = .idle ∨ si.phase = .interspace ∧ si.spaces = 2) → si.level = false →
        (si.sample e).phase = .receiving ∧ (si.sample e).reading = ⟨[false], 1, 0, false⟩ ∧ (si.sample e).bitNo = 0
        ∧ (si.sample e).rxStamp = some (e - BitVec.ofNat 32 si.bitPos) ∧ (si.sample e).found = si.found)
    ∧ (si.phase = .interspace → si.level = true →
        (2 ≤ si.spaces → (si.sample e).phase = .idle ∧ (si.sample e).spaces = 0)
        ∧ (si.spaces < 2 → (si.sample e).phase = .interspace ∧ (si.sample e).spaces = si.spaces + 1))
    ∧ (si.phase = .interspace → si.level = false → si.spaces ≠ 2 →
        (si.sample e).phase = .interspace ∧ (si.sample e).found = some (.error .symbol))
    ∧ (si.phase = .recovering → si.level = false → (si.sample e).phase = .recovering ∧ (si.sample e).spaces = 0)
    ∧ (si.phase = .recovering → si.level = true →
        (si.state = .integrating →
          (si.sample e).phase = .recovering ∧ (si.sample e).spaces = min 10 (si.spaces + 1))
        ∧ (si.state ≠ .integrating → 9 ≤ si.spaces → (si.sample e).phase = .idle ∧ (si.sample e).spaces = 0)
        ∧ (si.state ≠ .integrating → si.spaces < 9 →
          (si.sample e).phase = .recovering ∧ (si.sample e).spaces = si.spaces + 1))
    ∧ (si.phase = .receiving → si.onCarrier = none →
        (∀ k, si.reading.take si.level = .error k →
          (si.sample e).found = some (.error k) ∧ (si.sample e).reading = si.reading)
        ∧ (∀ r, si.reading.take si.level = .ok r →
          (si.sample e).reading = r
          ∧ (r.tail ≠ 9 → (si.sample e).found = none)
          ∧ (∀ m, r.tail = 9 → r.content = .ok m →
              (si.sample e).found = some (.received m.1 m.2 r.marked))))
    ∧ (∀ o sent, si.phase = .receiving → si.onCarrier = some o → o.failed = false →
        sent = o.bits.getD si.bitNo true →
        (sent = true → si.level = false → si.reading.atKeyBit = true → (si.sample e).found = some .lost)
        ∧ (sent = true → si.level = false → si.reading.atSlot = true → (si.sample e).found = none)
        ∧ (sent ≠ si.level → (sent = false ∨ si.reading.atKeyBit = false ∧ si.reading.atSlot = false) →
            (si.sample e).found = some (.error .echo))
        ∧ (sent = si.level → si.reading.atSlot = true → (si.sample e).found = some (.error .noAck))
        ∧ (sent = si.level → si.reading.atSlot = false → ∀ r, si.reading.take si.level = .ok r →
            (si.sample e).reading = r ∧ (si.sample e).found = (if r.tail = 9 then some .sent else none))))
  ∧ ∀ n : Node,
    (n.si.found = some .lost → n.si.cleanOwn = true → n.dueService = some .arbitrationLost)
    ∧ (n.si.found = some .sent → n.si.cleanOwn = true → n.dueService = some .messageSent)
    ∧ (∀ k, n.si.found = some (.error k) → n.si.canErr k = true → n.dueService = some (.serviceError k))
    ∧ (∀ key payload marked, n.si.found = some (.received key payload marked) → n.si.canReceive = true →
        n.dueService = some (messageCommand key payload (n.si.rxStamp.getD n.tb.e) marked))
    ∧ (n.si.found = none →
      (∀ o, n.si.onCarrier = some o → o.failed = true → n.dueService = some .messageFailed)
      ∧ (n.si.onCarrier = none →
        (n.si.state = .integrating → 10 ≤ n.si.spaces → n.dueService = some .integrationEnd)
        ∧ (n.si.state = .silenced → 48 ≤ n.si.recovery → n.dueService = some .silencedRecovery)
        ∧ ((n.si.state = .active ∨ n.si.state = .guarded) → n.si.guardWait = some 0 →
            n.dueService = some .guardedWaitEnd)
        ∧ ((n.si.state = .active ∨ n.si.state = .guarded) → n.si.guardWait ≠ some 0 →
            n.dueService =
              (if n.si.phase = .idle ∧ n.rh.pending.listenOnly ≠ none then some .listenOnlyEffect else none))))

/-- Every command answers a next state and leaves the queue to `step`: no command faults, none is refused. -/
def Obligations.EveryCommandCompletes : Prop :=
  ∀ (i : Instr) (s : State), Yields i s fun _ => True

/-- Commands without their occasion. While RST_N is asserted every command but ABORT_TAKEN and POWER_ON_RESET leaves the
block as it is, and so does an event of the block's own that is not due, a mailbox transaction to another address, a
command of the other role or before the first SETTLE, a segment event on a lane that awaits none, a PCTL code that is no
payload word, and a carrier event in a state of SI that does not have it. The model's choice: log entries 2 and 28. -/
def Obligations.WhatChangesNothing : Prop :=
  (∀ (i : Instr) (s : State), s.node.rstLow = true → i ≠ .abortTaken →
    (∀ role plane node adr, i ≠ .powerOnReset role plane node adr) → exec i s = .next s)
  ∧ (∀ s : State,
    (s.node.tb.frameDue = false → exec .frameStart s = .next s)
    ∧ (∀ c, s.node.rh.settled = some c →
      ((s.node.rh.lifecycle ≠ .joining ∨ s.node.rh.joining ≠ 0) → exec .runningEntry s = .next s)
      ∧ ((∀ k ∈ s.node.du.cands, k.age < 3 * c.m) → exec .candidateRemoved s = .next s)
      ∧ ((s.node.du.state ≠ .selfHold ∨ s.node.du.credit ≠ 0) → exec .holdoverExpired s = .next s)
      ∧ (s.node.silenceDue c = false → exec .referenceSilence s = .next s)
      ∧ (s.node.strobeReady c = false → exec .strobeFire s = .next s))
    ∧ (s.node.du.probeExpired = false → exec .probeTimeout s = .next s)
    ∧ (∀ p, (s.node.lane p).isSilent s.node.tb.e = false → exec (.silenceTimeout p) s = .next s)
    ∧ (∀ f l, (∀ r ∈ s.node.se.table, r.isAt f l = true → r.expires s.node.tb.e = false) →
        exec (.recordDeadline f l) s = .next s)
    ∧ (s.node.launchDue = false → exec .segmentLaunched s = .next s)
    ∧ (s.node.ou.abort = none → s.node.pins.pready = true → exec .abortTaken s = .next s))
  ∧ (∀ s : State,
    (∀ i ∈ [Instr.runningEntry, .candidateRemoved, .holdoverExpired, .strobeFire, .refinPulse, .referenceSilence,
        .messageStart, .messageSent],
      s.node.rh.settled = none → exec i s = .next s)
    ∧ (∀ i ∈ [Instr.frameBegin, .lineBegin, .lineEnd, .segmentLaunched], s.node.headCfg = none → exec i s = .next s)
    ∧ (∀ pctl pd, (s.node.headCfg = none ∨ pctl.toNat < 4 ∨ 7 < pctl.toNat) →
        exec (.payloadWord pctl pd) s = .next s)
    ∧ (∀ i ∈ [Instr.recordEnd, .abortTaken, .wordTaken, .stall], s.node.baseCfg = none → exec i s = .next s)
    ∧ (∀ p f l, s.node.baseCfg = none → ∀ i ∈ [Instr.carrierLoss p, .startDelimiter p true, .startDelimiter p false,
        .silenceTimeout p, .recordDeadline f l], exec i s = .next s)
    ∧ (∀ p bytes, (s.node.baseCfg = none ∨ (s.node.lane p).seg ≠ .started ∨ bytes.length ≠ 16) →
        exec (.segmentHeader p bytes) s = .next s)
    ∧ (∀ p how v rest, (s.node.baseCfg = none ∨ (s.node.lane p).seg = .none) →
        exec (.segmentEnd p how v rest) s = .next s)
    ∧ (∀ addr bytes cp pready count, s.node.isAddressed addr = false →
        ∀ i ∈ [Instr.settle addr bytes, .adjust addr bytes, .send addr bytes, .take addr bytes,
          .status addr ⟨bytes, cp, pready⟩, .notices addr bytes, .softReset addr bytes, .mailboxBadRequest addr bytes,
          .mailboxRead addr count], exec i s = .next s))
  ∧ ∀ s : State,
    ((s.node.si.awaitsStart = false ∨ s.node.si.bitPos ≠ 0 ∨ s.node.si.phase ≠ .idle ∧ s.node.si.level = true) →
      exec .messageStart s = .next s)
    ∧ (s.node.si.cleanOwn = false → exec .arbitrationLost s = .next s ∧ exec .messageSent s = .next s)
    ∧ (s.node.si.onCarrier = none → exec .messageFailed s = .next s)
    ∧ (∀ k, s.node.si.canErr k = false → exec (.serviceError k) s = .next s)
    ∧ (s.node.si.guardWait ≠ some 0 → exec .guardedWaitEnd s = .next s)
    ∧ ((s.node.si.state ≠ .silenced ∨ s.node.si.recovery < 48) → exec .silencedRecovery s = .next s)
    ∧ ((s.node.si.state ≠ .integrating ∨ s.node.si.spaces < 10) → exec .integrationEnd s = .next s)
    ∧ ((s.node.isIdle = false ∨ s.node.rh.pending.listenOnly = none) → exec .listenOnlyEffect s = .next s)
    ∧ (∀ key payload stamp marked, s.node.si.canReceive = false →
        (∀ i ∈ [Instr.announceReceived key payload ⟨stamp, marked⟩, .delayProbeReceived key payload ⟨stamp, marked⟩,
            .delayReplyReceived key payload ⟨stamp, marked⟩, .controlReplyReceived key payload ⟨stamp, marked⟩,
            .unusableKind key payload ⟨stamp, marked⟩, .badForm key payload ⟨stamp, marked⟩,
            .userMailFiled key payload ⟨stamp, marked⟩], exec i s = .next s)
        ∧ (s.node.started .controlReply = false → exec (.controlReceived key payload ⟨stamp, marked⟩) s = .next s))

/-! ## Resets -/

/-- POWER_ON_RESET: the straps as sampled, and every block at its power-on state. The pin levels stand as
they were (log entry 4). -/
def Obligations.PowerOnReset : Prop :=
  ∀ (role : Role) (plane : BitVec 2) (node : BitVec 4) (adr : BitVec 2) (s : State),
    Yields (.powerOnReset role plane node adr) s fun t =>
      t.rh.straps = ⟨role, plane, node, adr⟩ ∧ t.rstLow = false
      ∧ t.tb.e = 0 ∧ t.tb.gen = none ∧ t.tb.line = 0 ∧ t.tb.tick = 0 ∧ t.tb.trim = 0 ∧ t.tb.frameNo = 0
      ∧ t.tb.history = [] ∧ t.tb.q = 0 ∧ t.tb.tc = ⟨0, 0, 0, 0, false⟩ ∧ t.tb.adoption = none
      ∧ t.du.cands = [] ∧ t.du.state = .selfFree ∧ t.du.source = node ∧ t.du.cls = 2 ∧ t.du.srcCls = 2
      ∧ t.du.dValid = false ∧ t.du.probe = none ∧ t.du.countdown = 0 ∧ t.du.i = 0 ∧ t.du.lock = 0
      ∧ t.du.tracking = false ∧ t.du.credit = 0 ∧ t.du.mon = .absent ∧ t.du.anchor = none
      ∧ t.du.validRun = 0 ∧ t.du.invalidRun = 0
      ∧ t.sg.pins = 0 ∧ t.sg.active = [] ∧ t.sg.holder = none
      ∧ t.ss.bufs = List.replicate 48 Buf.free ∧ t.ss.lowWater = 48
      ∧ t.lu.latch = none ∧ t.lu.line = .outside ∧ t.lu.lineCount = 0 ∧ t.lu.queue = [] ∧ t.lu.carrier = .off
      ∧ (∀ p, (t.lane p).state = .dark ∧ (t.lane p).goodRun = 0 ∧ (t.lane p).badRun = 0
          ∧ (t.lane p).seg = .none ∧ (t.lane p).deadline = none)
      ∧ t.se.state = .idle ∧ t.se.lockedSet = 0 ∧ t.se.table = [] ∧ t.se.holds = Four.const none
      ∧ t.se.strayRun = 0 ∧ t.se.lastTallies = Tallies.zero
      ∧ t.ou.queue = [] ∧ t.ou.taken = 0 ∧ t.ou.abort = none ∧ t.port = none
      ∧ t.si.state = .off ∧ t.si.tec = 0 ∧ t.si.recCount = 0 ∧ t.si.recovery = 0 ∧ t.si.onCarrier = none
      ∧ t.si.listenOnly = (node == 15) ∧ t.si.tx = true
      ∧ t.mh.announce = false ∧ t.mh.probe = none ∧ t.mh.replies = [] ∧ t.mh.controlReply = none
      ∧ t.mh.slots = List.replicate 12 ⟨.unused, .unused⟩
      ∧ t.rh.lifecycle = .unsettled ∧ t.rh.joining = 0 ∧ t.rh.settled = none
      ∧ t.rh.pending = PendingSet.none ∧ t.rh.notices = 0 ∧ t.rh.levels = List.replicate 14 0
      ∧ t.rh.runtime.threshold = 7 ∧ t.rh.mailbox = .idle ∧ t.rh.noteLow = false
      ∧ t.pins = s.node.pins

/-- RST_N_ASSERTED: a settled base node's record in emission is closed by an ABORT of its kind, frame and line, a
pending ABORT stays, with neither the port is idle, the queue is empty, and the engine is IDLE with no record and no
hold slot, of which nothing is counted; a head node, or one not yet settled, does not drive the port. That no other
block changes until the release, and that PD is 0 beside the idle code, are the model's choices (log entries 28 and
45). -/
def Obligations.ResetAssertedClosesTheRecord : Prop :=
  ∀ s : State, s.node.rstLow = false →
    (∀ c, s.node.baseCfg = some c → Yields .rstNAsserted s fun t =>
      t.rstLow = true ∧ t.ou.queue = [] ∧ t.ou.taken = 0
      ∧ (∀ w, s.node.ou.abort = some w → t.port = some (2, packWord w.bytes))
      ∧ (s.node.ou.abort = none → ∀ d rest, s.node.ou.queue = d :: rest → 0 < s.node.ou.taken →
          t.port = some (2, packWord d.abortWord.bytes))
      ∧ (s.node.ou.abort = none → (s.node.ou.queue = [] ∨ s.node.ou.taken = 0) → t.port = some (0, 0))
      ∧ t.se.state = .idle
      ∧ t = { s.node with
          se := { s.node.se with state := .idle, table := [], holds := Four.const none, strayRun := 0 }
          ou := t.ou, ss := t.ss, rstLow := true })
    ∧ (s.node.baseCfg = none → Yields .rstNAsserted s fun t =>
      t.port = none ∧ t = { s.node with rstLow := true })

/-- Counters: 16 bits that add 1 and stay at 65,535; STATUS with clearing returns the counters of its section to
0 and no other; a soft reset and a power-on reset return every counter to 0. -/
def Obligations.CountersSaturateAndClear : Prop :=
  (∀ c : Counter, (Counter.bump c).toNat = min 65535 (c.toNat + 1))
  ∧ (∀ (s : State) (c : Settled) (addr : BitVec 7) (k flag : Byte) (cp : PlaneSet) (pready : Bool),
      s.node.Works c → s.node.rh.lifecycle ≠ .unsettled → s.node.Hears addr [k, flag] →
      1 ≤ k.toNat → k.toNat ≤ 6 → flag ≠ 0 →
      Yields (.status addr ⟨[k, flag], cp, pready⟩) s fun t =>
        (∀ x ∈ t.counters k.toNat, x = 0)
        ∧ ∀ j, j ≠ k.toNat → t.counters j = s.node.counters j)
  ∧ (∀ (s : State) (c : Settled) (addr : BitVec 7), s.node.Works c → s.node.Hears addr [] →
      Yields (.softReset addr []) s fun t => ∀ x ∈ t.allCounters, x = 0)
  ∧ (∀ (role : Role) (plane : BitVec 2) (node : BitVec 4) (adr : BitVec 2) (s : State),
      Yields (.powerOnReset role plane node adr) s fun t => ∀ x ∈ t.allCounters, x = 0)

/-- SOFT_RESET: what it keeps, and what each block becomes. A base node's record in emission is closed by an
ABORT. The answer is DONE; before the first accepted SETTLE it is REFUSED_STATE and nothing is reset. -/
def Obligations.SoftReset : Prop :=
  ∀ (s : State) (addr : BitVec 7), s.node.Hears addr [] →
    (∀ c, s.node.rh.settled = some c → Yields (.softReset addr []) s fun t =>
      t.rh.mailbox = .held ⟨.done, []⟩
      ∧ t.rh.straps = s.node.rh.straps ∧ t.rh.settled = some c ∧ t.rh.levels = s.node.rh.levels
      ∧ t.rh.lifecycle = .joining ∧ t.rh.joining = 3 * c.m
      ∧ t.rh.runtime = ⟨c.mask, c.w, c.mode, c.threshold, c.lead⟩
      ∧ t.rh.pending = PendingSet.none ∧ t.rh.notices = 0
      ∧ t.tb.e = s.node.tb.e ∧ t.tb.tc = s.node.tb.tc ∧ t.tb.frameNo = 0 ∧ t.tb.history = []
      ∧ t.tb.q = s.node.du.i ∧ t.tb.adoption = none
      ∧ t.tb.line = 0 ∧ t.tb.tick = 0 ∧ t.tb.trim = trimOf s.node.du.i 0
      ∧ (∃ g, t.tb.gen = some g ∧ g.start = s.node.tb.e
          ∧ g.scheduled = eAdd s.node.tb.e (c.period + t.tb.trim) ∧ g.step = none)
      ∧ t.du.i = s.node.du.i ∧ t.du.mon = s.node.du.mon ∧ t.du.anchor = s.node.du.anchor
      ∧ t.du.cands = [] ∧ t.du.dValid = false ∧ t.du.probe = none ∧ t.du.countdown = 0 ∧ t.du.lock = 0
      ∧ t.du.tracking = false ∧ t.du.credit = 0 ∧ t.du.source = s.node.rh.straps.node
      ∧ t.du.state = (if s.node.du.mon = .locked then .selfRef else .selfFree)
      ∧ t.du.cls = (if s.node.du.mon = .locked then 0 else 2) ∧ t.du.srcCls = t.du.cls
      ∧ t.sg.pins = 0 ∧ t.sg.active = c.schedule ∧ t.sg.holder = none
      ∧ t.ss.bufs = List.replicate 48 Buf.free ∧ t.ss.lowWater = 48
      ∧ t.lu.latch = none ∧ t.lu.line = .outside ∧ t.lu.lineCount = 0 ∧ t.lu.queue = []
      ∧ (s.node.lu.carrier ≠ .off → t.lu.carrier = .idleFill)
      ∧ (∀ p, (t.lane p).state = .dark ∧ (t.lane p).goodRun = 0 ∧ (t.lane p).badRun = 0
          ∧ (t.lane p).seg = .none ∧ (t.lane p).deadline = none)
      ∧ t.se.state = .idle ∧ t.se.table = [] ∧ t.se.holds = Four.const none ∧ t.se.lockedSet = 0
      ∧ t.se.strayRun = 0 ∧ t.se.lastTallies = Tallies.zero
      ∧ t.ou.queue = []
      ∧ (∀ w, s.node.ou.abort = some w → t.ou.abort = some w)
      ∧ (s.node.ou.abort = none → ∀ d rest, s.node.ou.queue = d :: rest → 0 < s.node.ou.taken →
          t.ou.abort = some d.abortWord)
      ∧ (s.node.ou.abort = none → s.node.ou.taken = 0 → t.ou.abort = none)
      ∧ t.si.state = .integrating ∧ t.si.tec = 0 ∧ t.si.recCount = 0 ∧ t.si.onCarrier = none
      ∧ t.si.recovery = 0 ∧ t.si.spaces = 0 ∧ t.si.rxStamp = none ∧ t.si.guardWait = none ∧ t.si.burst = 0
      ∧ t.si.tx = true ∧ t.si.listenOnly = (s.node.rh.straps.node == 15)
      ∧ t.mh.announce = false ∧ t.mh.probe = none ∧ t.mh.replies = [] ∧ t.mh.controlReply = none
      ∧ t.mh.slots = s.node.mh.slots.map (fun x => x.defn.fresh)
      ∧ t.pins = s.node.pins)
    ∧ (s.node.rh.settled = none → Yields (.softReset addr []) s (s.node.OnlyAnswered ⟨.refusedState, []⟩))

/-! ## Requests -/

/-- SETTLE. Accepted: DONE, the configuration kept, its runtime set and levels taken, JOINING with 3 × M, frame 0 begun
at the present E without history, SI integrating, the slots and the schedule defined, a head's uplink in idle fill, and
nothing else changed. Refused, it changes nothing but the answer: BAD_LENGTH for a body of another length,
REFUSED_STATE once settled, REFUSED_RANGE with the first failing row. That the length is tested before the lifecycle is
the model's choice (log entry 20). -/
def Obligations.Settle : Prop :=
  (∀ (s : State) (addr : BitVec 7) (body : List Byte), s.node.Hears addr body → body.length = 180 →
     s.node.rh.lifecycle = .unsettled → (SettleBlock.ofBytes body).failing = none →
     Yields (.settle addr body) s fun t =>
       t.rh.mailbox = .held ⟨.done, []⟩
       ∧ (∃ c, c = (SettleBlock.ofBytes body).settled ∧ t.rh.settled = some c
           ∧ t.rh.lifecycle = .joining ∧ t.rh.joining = 3 * c.m
           ∧ t.rh.runtime = ⟨c.mask, c.w, c.mode, c.threshold, c.lead⟩ ∧ t.rh.levels = c.levels
           ∧ t.sg.active = c.schedule ∧ t.mh.slots = c.slots.map SlotDef.fresh
           ∧ ∃ g, t.tb.gen = some g ∧ g.start = s.node.tb.e ∧ g.scheduled = eAdd s.node.tb.e (c.period + t.tb.trim))
       ∧ t.tb.line = 0 ∧ t.tb.tick = 0 ∧ t.tb.trim = trimOf s.node.tb.q 0
       ∧ t.rh.pending = PendingSet.none
       ∧ t.tb.e = s.node.tb.e ∧ t.tb.frameNo = 0 ∧ t.tb.history = [] ∧ t.tb.tc = s.node.tb.tc
       ∧ t.si.state = .integrating ∧ t.si.spaces = 0
       ∧ (s.node.rh.straps.role = .head → t.lu.carrier = .idleFill)
       ∧ t = { s.node with tb := t.tb, sg := t.sg, si := t.si, mh := t.mh, lu := t.lu, rh := t.rh })
  ∧ (∀ (s : State) (addr : BitVec 7) (body : List Byte), s.node.Hears addr body →
       (body.length ≠ 180 → Yields (.settle addr body) s (s.node.OnlyAnswered ⟨.badLength, []⟩))
       ∧ (body.length = 180 → s.node.rh.lifecycle ≠ .unsettled →
           Yields (.settle addr body) s (s.node.OnlyAnswered ⟨.refusedState, []⟩))
       ∧ (body.length = 180 → s.node.rh.lifecycle = .unsettled →
           ∀ row, (SettleBlock.ofBytes body).failing = some row →
             Yields (.settle addr body) s (s.node.OnlyAnswered ⟨.refusedRange, [BitVec.ofNat 8 row]⟩)))

/-- What a legal SETTLE block is, item by item; where the 180 bytes of its body have each item, the most significant
byte first; and the configuration a block stands for. -/
def Obligations.SettleLegality : Prop :=
  (∀ b : SettleBlock, b.failing = none ↔
    16 ≤ b.lTot ∧ b.lTot ≤ 4095 ∧ 1 ≤ b.aLines ∧ b.aLines ≤ b.lTot ∧ 128 ≤ b.tpl ∧ b.x < b.lTot
    ∧ b.lTot * b.tpl + b.x ≤ 268435456
    ∧ (b.r = 24 ∨ b.r = 25 ∨ b.r = 30) ∧ (b.d = 1 ∨ b.d = 2)
    ∧ (b.m = 4 ∨ b.m = 8 ∨ b.m = 16 ∨ b.m = 32 ∨ b.m = 64)
    ∧ 1 ≤ b.stepLimit ∧ b.stepLimit ≤ 4095 ∧ 1 ≤ b.lockWindow
    ∧ -(b.lTot * b.tpl + b.x : Int) ≤ 2 * b.rOff ∧ 2 * b.rOff ≤ (b.lTot * b.tpl + b.x : Int)
    ∧ b.lead < b.lTot * b.tpl + b.x ∧ 1 ≤ b.w ∧ b.mode ≤ 1
    ∧ b.pre ≤ 63 ∧ 1 ≤ b.prop ∧ b.prop ≤ 64 ∧ 1 ≤ b.pa ∧ b.pa ≤ 16 ∧ 1 ≤ b.pb ∧ b.pb ≤ 16
    ∧ 1 ≤ b.sjw ∧ b.sjw ≤ 4 ∧ b.sjw ≤ b.pa ∧ b.sjw ≤ b.pb ∧ b.order ≤ 1
    ∧ (∀ x ∈ b.slots, x.type ≤ 2 ∧ x.key < 4096 ∧ x.mask < 4096 ∧ (x.type = 2 → 6 ≤ x.key / 256))
    ∧ (∀ l ∈ b.levels, l ≤ 7) ∧ b.threshold ≤ 7 ∧ b.count ≤ 12 ∧ b.schedule.length ≤ 12
    ∧ ∀ e ∈ b.schedule, (e.line = 0xFFFF ∨ e.line < b.lTot) ∧ e.setMask < 64 ∧ e.clearMask < 64)
  ∧ (∀ (body : List Byte) (at_ : Nat → Nat) (b : SettleBlock), body.length = 180 →
    at_ = (fun k => (body.getD k 0).toNat) → b = SettleBlock.ofBytes body →
    b.lTot = 256 * at_ 0 + at_ 1 ∧ b.aLines = 256 * at_ 2 + at_ 3 ∧ b.tpl = 256 * at_ 4 + at_ 5
    ∧ b.x = 256 * at_ 6 + at_ 7 ∧ b.r = at_ 8 ∧ b.d = at_ 9 ∧ b.m = at_ 10 ∧ b.stepLimit = 256 * at_ 11 + at_ 12
    ∧ b.lockWindow = at_ 13 ∧ b.h = 256 * at_ 14 + at_ 15
    ∧ b.rOff = (if at_ 16 < 128 then 0 else -4294967296)
        + ((16777216 * at_ 16 + 65536 * at_ 17 + 256 * at_ 18 + at_ 19 : Nat) : Int)
    ∧ b.lead = 256 * at_ 20 + at_ 21 ∧ b.mask = at_ 22 ∧ b.w = 256 * at_ 23 + at_ 24 ∧ b.mode = at_ 25
    ∧ b.pre = at_ 26 ∧ b.prop = at_ 27 ∧ b.pa = at_ 28 ∧ b.pb = at_ 29 ∧ b.sjw = at_ 30 ∧ b.order = at_ 31
    ∧ b.slots.length = 12
    ∧ (∀ i, i < 12 → b.slots[i]? = some ⟨at_ (32 + 5 * i), 256 * at_ (33 + 5 * i) + at_ (34 + 5 * i),
        256 * at_ (35 + 5 * i) + at_ (36 + 5 * i)⟩)
    ∧ b.levels.length = 14 ∧ (∀ i, i < 14 → b.levels[i]? = some (at_ (92 + i)))
    ∧ b.threshold = at_ 106 ∧ b.count = at_ 107 ∧ b.schedule.length = min 12 b.count
    ∧ ∀ i, i < b.count → i < 12 → b.schedule[i]? = some ⟨256 * at_ (108 + 6 * i) + at_ (109 + 6 * i),
        256 * at_ (110 + 6 * i) + at_ (111 + 6 * i), at_ (112 + 6 * i), at_ (113 + 6 * i)⟩)
  ∧ ∀ b : SettleBlock,
    b.settled = ⟨b.lTot, b.aLines, b.tpl, b.x, b.r, b.d, b.m, b.stepLimit, b.lockWindow, b.h, b.rOff, b.lead,
      BitVec.ofNat 4 b.mask, b.w, if b.mode = 0 then .repeatLast else .fill, b.pre, b.prop, b.pa, b.pb, b.sjw,
      if b.order = 0 then .key else .index, b.settled.slots, b.levels, b.threshold, b.settled.schedule⟩
    ∧ b.settled.slots = b.slots.map (fun x =>
        if x.type = 1 then .receive (BitVec.ofNat 12 x.key) (BitVec.ofNat 12 x.mask)
        else if x.type = 2 then .transmit (BitVec.ofNat 12 x.key) else .unused)
    ∧ b.settled.schedule = b.schedule.map (fun x =>
        ⟨if x.line = 0xFFFF then none else some x.line, x.tick, BitVec.ofNat 6 x.setMask, BitVec.ofNat 6 x.clearMask⟩)

/-- ADJUST. An item is pending (a schedule in SG's holder), clamped where its range clamps, with the clamped items'
codes in the answer; a listen-only value takes effect at once on an idle carrier; the runtime set, the settled
configuration and every block but RH, SG, SI and MH stay. A body that names an item twice, or an item whose value
refuses it, is REFUSED_RANGE, before the first SETTLE REFUSED_STATE, cut within an item BAD_LENGTH, and changes nothing
but the answer; any other is DONE. The order of those tests and of the clamped codes, and up to when the carrier is
idle, are the model's choices: log entries 20, 21 and 56. -/
def Obligations.Adjust : Prop :=
  (∀ (s : State) (c : Settled) (addr : BitVec 7) (body : List Byte), s.node.Works c → s.node.Hears addr body →
     (∀ v : Byte, body = [1, v] → Yields (.adjust addr body) s fun t =>
       t.rh.mailbox = .held ⟨.done, []⟩ ∧ t.rh.pending.mask = some (v.setWidth 4))
     ∧ (∀ v : Nat, v < 65536 → body = 2 :: u16 v → Yields (.adjust addr body) s fun t =>
       t.rh.mailbox = .held ⟨.done, if v = 0 then [2] else []⟩ ∧ t.rh.pending.w = some (if v = 0 then 1 else v))
     ∧ (∀ v : Byte, v.toNat ≤ 1 → body = [3, v] → Yields (.adjust addr body) s fun t =>
       t.rh.mailbox = .held ⟨.done, []⟩ ∧ t.rh.pending.mode = some (if v = 0 then .repeatLast else .fill))
     ∧ (∀ v : Byte, body = [4, v] → Yields (.adjust addr body) s fun t =>
       t.rh.mailbox = .held ⟨.done, if 7 < v.toNat then [4] else []⟩
       ∧ t.rh.pending.threshold = some (if 7 < v.toNat then 7 else v.toNat))
     ∧ (∀ v : Nat, v < 65536 → body = 5 :: u16 v → Yields (.adjust addr body) s fun t =>
       t.rh.mailbox = .held ⟨.done, if c.period ≤ v then [5] else []⟩
       ∧ t.rh.pending.lead = some (if c.period ≤ v then c.period - 1 else v))
     ∧ (∀ v : Byte, v.toNat ≤ 1 → body = [6, v] → Yields (.adjust addr body) s fun t =>
       t.rh.mailbox = .held ⟨.done, []⟩
       ∧ (s.node.isIdle = false → t.rh.pending.listenOnly = some (v == 1) ∧ t.si.listenOnly = s.node.si.listenOnly)
       ∧ (s.node.isIdle = true → t.rh.pending.listenOnly = none
           ∧ t.si.listenOnly = (v == 1 || s.node.rh.straps.node == 15)))
     ∧ (∀ tc : Timecode, tc.legal c.r c.d = true → body = 7 :: tc.bytes → Yields (.adjust addr body) s fun t =>
       t.rh.mailbox = .held ⟨.done, []⟩ ∧ t.rh.pending.preset = some tc)
     ∧ (∀ l : List StrobeEntry, l.length ≤ 12 → (∀ e ∈ l, e.tick < 65536 ∧ ∀ k, e.line = some k → k < c.lTot) →
       c.lTot ≤ 4095 → body = 8 :: (u8 l.length ++ l.flatMap StrobeEntry.bytes) →
       Yields (.adjust addr body) s fun t =>
         t.rh.mailbox = .held ⟨.done, []⟩ ∧ t.sg.holder = some l ∧ t.sg.active = s.node.sg.active)
     ∧ Yields (.adjust addr body) s fun t =>
         t = { s.node with
           sg := { s.node.sg with holder := t.sg.holder }, si := t.si, mh := t.mh
           rh := { s.node.rh with pending := t.rh.pending, mailbox := t.rh.mailbox } })
  ∧ (∀ (s : State) (addr : BitVec 7) (body : List Byte), s.node.Hears addr body →
       (s.node.rh.settled = none → Yields (.adjust addr body) s (s.node.OnlyAnswered ⟨.refusedState, []⟩))
       ∧ (∀ c, s.node.rh.settled = some c →
           (∀ r, readItems (body.length + 1) body = .error r →
             Yields (.adjust addr body) s (s.node.OnlyAnswered ⟨r, []⟩))
           ∧ ∀ l, readItems (body.length + 1) body = .ok l →
             ((¬ (l.map AdjustItem.code).Nodup ∨ ∃ i ∈ l, i.legal c = false) →
               Yields (.adjust addr body) s (s.node.OnlyAnswered ⟨.refusedRange, []⟩))
             ∧ ((l.map AdjustItem.code).Nodup → (∀ i ∈ l, i.legal c = true) →
               Yields (.adjust addr body) s fun t =>
                 t.rh.mailbox = .held ⟨.done, clampedCodes c l⟩ ∧ t.rh.runtime = s.node.rh.runtime)))

/-- SEND. Accepted, with or without a key: the message waits in the slot, PENDING, and the other slots stay. Refused,
nothing but the answer changes; the form is that without a key, but for the two clauses of a key flag. That the
lifecycle is tested before the contents is the model's choice (log entry 20). -/
def Obligations.Send : Prop :=
  (∀ (s : State) (addr : BitVec 7) (i : Nat) (settledKey : Key) (payload : List Byte) (body : List Byte),
     s.node.Hears addr body → s.node.rh.lifecycle ≠ .unsettled → i < 12 → s.node.mh.slots.length = 12 →
     (s.node.mh.slot i).defn = .transmit settledKey →
     ((s.node.mh.slot i).state = .idle ∨ (s.node.mh.slot i).state = .done ∨ (s.node.mh.slot i).state = .failed) →
     payload.length ≤ 16 →
     (body = u8 i ++ [0] ++ u8 payload.length ++ payload →
       Yields (.send addr body) s fun t =>
         t.rh.mailbox = .held ⟨.done, []⟩
         ∧ t = { s.node with mh := s.node.mh.setSlot i (.pending ⟨settledKey, payload⟩), rh := t.rh }
         ∧ (t.mh.slot i).state = .pending ⟨settledKey, payload⟩
         ∧ ∀ j, j ≠ i → t.mh.slot j = s.node.mh.slot j)
     ∧ (∀ key : Key, 6 ≤ Sys2Proof.Key.kind key → body = u8 i ++ [1] ++ u16 key.toNat ++ u8 payload.length ++ payload →
       Yields (.send addr body) s fun t =>
         t.rh.mailbox = .held ⟨.done, []⟩
         ∧ t = { s.node with mh := s.node.mh.setSlot i (.pending ⟨key, payload⟩), rh := t.rh }
         ∧ (t.mh.slot i).state = .pending ⟨key, payload⟩
         ∧ ∀ j, j ≠ i → t.mh.slot j = s.node.mh.slot j))
  ∧ (∀ (s : State) (addr : BitVec 7) (i : Nat) (payload : List Byte) (body : List Byte),
       s.node.Hears addr body → i < 256 → payload.length ≤ 16 →
       (s.node.rh.lifecycle = .unsettled → Yields (.send addr body) s (s.node.OnlyAnswered ⟨.refusedState, []⟩))
       ∧ (s.node.rh.lifecycle ≠ .unsettled →
         (∀ flag : Byte, 2 ≤ flag.toNat → body = u8 i ++ [flag] ++ payload →
           Yields (.send addr body) s (s.node.OnlyAnswered ⟨.refusedRange, []⟩))
         ∧ (∀ n : Byte, n.toNat ≠ payload.length → body = u8 i ++ [0, n] ++ payload →
           Yields (.send addr body) s (s.node.OnlyAnswered ⟨.badLength, []⟩))
         ∧ (12 ≤ i → body = u8 i ++ [0] ++ u8 payload.length ++ payload →
           Yields (.send addr body) s (s.node.OnlyAnswered ⟨.refusedRange, []⟩))
         ∧ (i < 12 → (∀ k, (s.node.mh.slot i).defn ≠ .transmit k) → body = u8 i ++ [0] ++ u8 payload.length ++ payload →
           Yields (.send addr body) s (s.node.OnlyAnswered ⟨.refusedState, []⟩))
         ∧ (∀ k key, i < 12 → (s.node.mh.slot i).defn = .transmit k → key < 1536 →
           body = u8 i ++ [1] ++ u16 key ++ u8 payload.length ++ payload →
           Yields (.send addr body) s (s.node.OnlyAnswered ⟨.refusedRange, []⟩))
         ∧ (∀ k m, i < 12 → (s.node.mh.slot i).defn = .transmit k →
           ((s.node.mh.slot i).state = .pending m ∨ (s.node.mh.slot i).state = .sending m) →
           body = u8 i ++ [0] ++ u8 payload.length ++ payload →
           Yields (.send addr body) s (s.node.OnlyAnswered ⟨.busy, []⟩))))

/-- TAKE: a FULL or OVERRUN slot gives its message and becomes EMPTY; an EMPTY one answers EMPTY; a slot number above
11 is REFUSED_RANGE, any other slot state REFUSED_STATE, and so is a TAKE before the first SETTLE. That the lifecycle
is tested before the slot number is the model's choice (log entry 20). -/
def Obligations.TakeAnswers : Prop :=
  ∀ (s : State) (addr : BitVec 7) (b : Byte), s.node.Hears addr [b] →
    (s.node.rh.lifecycle = .unsettled → Yields (.take addr [b]) s (s.node.OnlyAnswered ⟨.refusedState, []⟩))
    ∧ (s.node.rh.lifecycle ≠ .unsettled →
      (12 ≤ b.toNat → Yields (.take addr [b]) s (s.node.OnlyAnswered ⟨.refusedRange, []⟩))
      ∧ (b.toNat < 12 → s.node.mh.slots.length = 12 →
        (∀ m, (s.node.mh.slot b.toNat).state = .full m → Yields (.take addr [b]) s fun t =>
          t.rh.mailbox = .held ⟨.done,
            [0] ++ u16 m.key.toNat ++ u8 m.payload.length ++ u32 m.stamp.toNat ++ m.payload⟩
          ∧ t = { s.node with mh := s.node.mh.setSlot b.toNat .empty, rh := t.rh }
          ∧ (t.mh.slot b.toNat).state = .empty)
        ∧ (∀ m, (s.node.mh.slot b.toNat).state = .overrun m → Yields (.take addr [b]) s fun t =>
          t.rh.mailbox = .held ⟨.done,
            [1] ++ u16 m.key.toNat ++ u8 m.payload.length ++ u32 m.stamp.toNat ++ m.payload⟩
          ∧ t = { s.node with mh := s.node.mh.setSlot b.toNat .empty, rh := t.rh }
          ∧ (t.mh.slot b.toNat).state = .empty)
        ∧ ((s.node.mh.slot b.toNat).state = .empty →
          Yields (.take addr [b]) s (s.node.OnlyAnswered ⟨.empty, []⟩))
        ∧ (((s.node.mh.slot b.toNat).state = .unused ∨ (s.node.mh.slot b.toNat).state = .idle
            ∨ (∃ m, (s.node.mh.slot b.toNat).state = .pending m)
            ∨ (∃ m, (s.node.mh.slot b.toNat).state = .sending m)
            ∨ (s.node.mh.slot b.toNat).state = .done ∨ (s.node.mh.slot b.toNat).state = .failed) →
          Yields (.take addr [b]) s (s.node.OnlyAnswered ⟨.refusedState, []⟩))))

/-- STATUS: the section's snapshot as it stood when the request was taken, with the levels of CP and PREADY at that
time; with the clear flag clear nothing else changes, and with it set at most event counters (which of them, and to 0:
CountersSaturateAndClear) and, in the lanes section, the store's low-water mark, to the free count; an unknown section
is REFUSED_RANGE, a section other than identity before the first SETTLE REFUSED_STATE. That the section number is tested
before the lifecycle, the layout of a snapshot where the spec leaves it open, and that the levels stand in State, are
the model's choices (log entries 4, 20 and 23). -/
def Obligations.StatusAnswers : Prop :=
  ∀ (s : State) (addr : BitVec 7) (k flag : Byte) (cp : PlaneSet) (pready : Bool), s.node.Hears addr [k, flag] →
    (1 ≤ k.toNat → k.toNat ≤ 6 → (s.node.rh.lifecycle ≠ .unsettled ∨ k = 1) →
      Yields (.status addr ⟨[k, flag], cp, pready⟩) s fun t =>
        t.rh.mailbox = .held ⟨.done, (s.node.seePins cp pready).snapshot k.toNat⟩
        ∧ (flag = 0 → (s.node.seePins cp pready).OnlyAnswered ⟨.done, (s.node.seePins cp pready).snapshot k.toNat⟩ t)
        ∧ ((s.node.seePins cp pready).setMailbox t.rh.mailbox).OnlyCleared t
        ∧ t.ss.lowWater = (if k = 3 ∧ flag ≠ 0 then s.node.ss.freeCount else s.node.ss.lowWater)
        ∧ t.freeIdx = s.node.freeIdx
        ∧ (∀ p, t.pins.cp.get p = PlaneSet.has cp p) ∧ t.pins.pready = pready ∧ t.pins.svc = s.node.pins.svc)
    ∧ ((k = 0 ∨ 6 < k.toNat) →
      Yields (.status addr ⟨[k, flag], cp, pready⟩) s (s.node.OnlyAnswered ⟨.refusedRange, []⟩))
    ∧ (2 ≤ k.toNat → k.toNat ≤ 6 → s.node.rh.lifecycle = .unsettled →
      Yields (.status addr ⟨[k, flag], cp, pready⟩) s (s.node.OnlyAnswered ⟨.refusedState, []⟩))

/-- The six snapshots, item by item in the order of the rules that report them, with a presence byte before a value that
may be absent and a count byte before a list of varying length; and the whole of the six summaries that answer a remote
STATUS. In the stitch section of a base the records come first, by key; F_cur, N_next and J of a summary in IDLE are
free values, J below 16 (log entry 24). The codes of the states are those of R198. The order and the layout of the items
where the spec leaves them open are the model's choice (log entries 23, 40 to 43, 46, 47, 50, 51, 53 and 59 to 61). -/
def Obligations.Snapshots : Prop :=
  ((∀ (α : Type) (f : α → List Byte) (a : α), optBytes f none = [0] ∧ optBytes f (some a) = 1 :: f a)
    ∧ flagByte false = [0] ∧ flagByte true = [1]
    ∧ [Lifecycle.unsettled, .joining, .running].map Lifecycle.code = [0, 1, 2]
    ∧ [TbState.selfRef, .selfHold, .selfFree, .followAcq, .followLock].map TbState.code = [0, 1, 2, 3, 4]
    ∧ [MonState.absent, .checking, .locked].map MonState.code = [0, 1, 2]
    ∧ (∀ b, [LineState.outside, .filling b, .discarding].map LineState.code = [0, 1, 2])
    ∧ [Carrier.off, .idleFill, .sending].map Carrier.code = [0, 1, 2]
    ∧ [LaneState.dark, .locking, .locked].map LaneState.code = [0, 1, 2]
    ∧ (∀ b, [Disposition.checkOnly, .filling b, .refused].map Disposition.code = [0, 1, 2])
    ∧ [RecState.opened, .complete, .expired].map RecState.code = [0, 1, 2]
    ∧ (∀ f, [EngineState.idle, .run f, .flushing f].map EngineState.code = [0, 1, 2])
    ∧ [SiState.off, .integrating, .active, .guarded, .silenced].map SiState.code = [0, 1, 2, 3, 4]
    ∧ [ConcealMode.repeatLast, .fill].map ConcealMode.code = [0, 1]
    ∧ (∀ m k, [SlotState.unused, .empty, .full m, .overrun m, .idle, .pending k, .sending k, .done, .failed].map
        SlotState.code = [0, 1, 2, 3, 4, 5, 6, 7, 8]))
  ∧ ∀ n : Node,
    n.snapshot 1 =
      [0x24, 0x16, 1, if n.rh.straps.role = .head then 0 else 1, n.rh.straps.plane.setWidth 8,
        n.rh.straps.node.setWidth 8, n.rh.straps.adr.setWidth 8, BitVec.ofNat 8 n.rh.lifecycle.code,
        BitVec.ofNat 8 n.rh.joining]
      ++ (if n.rh.settled = none then [0] else 1 :: (u8 n.rh.runtime.mask.toNat ++ u16 n.rh.runtime.w
          ++ u8 n.rh.runtime.mode.code ++ u8 n.rh.runtime.threshold ++ u16 n.rh.runtime.lead
          ++ flagByte n.si.listenOnly ++ [0] ++ u8 n.sg.active.length ++ n.sg.active.flatMap StrobeEntry.bytes))
      ++ optBytes (fun x => u8 x.toNat) n.rh.pending.mask ++ optBytes u16 n.rh.pending.w
      ++ optBytes (fun x => u8 x.code) n.rh.pending.mode ++ optBytes u8 n.rh.pending.threshold
      ++ optBytes u16 n.rh.pending.lead ++ optBytes flagByte n.rh.pending.listenOnly
      ++ optBytes Timecode.bytes n.rh.pending.preset
      ++ optBytes (fun l => u8 l.length ++ l.flatMap StrobeEntry.bytes) n.sg.holder ++ n.rh.levels.flatMap u8
    ∧ n.snapshot 2 =
      u32 n.tb.e.toNat ++ u16 n.tb.line ++ [BitVec.ofInt 8 n.tb.trim] ++ u16 (BitVec.ofInt 16 n.tb.q).toNat
        ++ u8 n.tb.history.length
        ++ n.tb.history.flatMap (fun h => u16 h.number.toNat ++ u32 h.e.toNat ++ flagByte h.stepped)
        ++ u16 n.tb.adoptions.toNat ++ u8 n.du.cls ++ u8 n.du.cands.length
        ++ n.du.cands.flatMap (fun k => u8 k.node.toNat ++ u8 k.cls ++ u8 k.age)
        ++ u8 n.du.state.code ++ u8 n.du.source.toNat ++ u16 n.du.dEst ++ flagByte n.du.dValid ++ u16 n.du.credit
        ++ u8 n.du.mon.code ++ u16 (BitVec.ofInt 16 n.du.i).toNat ++ u8 n.du.lock ++ u8 n.du.srcCls
        ++ optBytes (fun x => u8 x.target.toNat ++ u32 x.t1.toNat ++ u8 x.frames) n.du.probe ++ flagByte n.du.tracking
        ++ u16 n.du.implausible.toNat ++ u16 n.du.probeAbandoned.toNat ++ u16 n.du.replyDiscarded.toNat
        ++ u16 n.du.announceIgnored.toNat ++ u16 n.du.steps.toNat
        ++ u8 n.sg.pins.toNat ++ u8 n.sg.active.length ++ optBytes (fun l => u8 l.length) n.sg.holder
        ++ u16 n.sg.swaps.toNat ++ n.tb.tc.bytes
    ∧ n.snapshot 3 =
      u8 n.ss.freeCount ++ u8 (n.ss.bufs.countP Buf.isFilling) ++ u8 (n.ss.bufs.countP (·.state == .queued))
        ++ u8 (n.ss.bufs.countP Buf.isReferenced) ++ u8 n.ss.freeCount ++ u8 n.ss.lowWater
        ++ u16 n.ss.grants.toNat ++ u16 n.ss.refusedEmpty.toNat ++ u16 n.ss.refusedReserve.toNat
        ++ (match n.rh.straps.role with
          | .head => u8 n.lu.queue.length
              ++ [n.lu.linesLaunched, n.lu.brokenLine, n.lu.noFrame, n.lu.excessLine, n.lu.emptyLine,
                  n.lu.overlongLine, n.lu.launchOverflow, n.lu.unframed].flatMap (fun x => u16 x.toNat)
              ++ u8 n.lu.line.code ++ u16 n.lu.lineCount ++ optBytes (fun x => x.1 :: x.2.bytes) n.lu.latch
              ++ u8 n.lu.carrier.code
          | .base => [0, 1, 2, 3].flatMap (fun p => u8 (n.lane p).state.code ++ flagByte (n.pins.cp.get p))
              ++ [0, 1, 2, 3].flatMap (fun p =>
                  optBytes (fun d => u32 (sdiff d n.tb.e).toNat) (n.lane p).deadline)
              ++ [0, 1, 2, 3].flatMap fun p => u8 (n.lane p).goodRun ++ u8 (n.lane p).badRun
                  ++ (match (n.lane p).seg with
                    | .body _ h disp => [1, h.frame] ++ u16 h.line ++ u8 disp.code
                    | _ => [0])
                  ++ [(n.lane p).good, (n.lane p).checkFail, (n.lane p).malformed, (n.lane p).noBuffer,
                      (n.lane p).late, (n.lane p).duplicate, (n.lane p).stray, (n.lane p).unexpectedPlane,
                      (n.lane p).tableFull, (n.lane p).flushing, (n.lane p).lossCarrier, (n.lane p).lossBad,
                      (n.lane p).lossSilence].flatMap fun x => u16 x.toNat)
    ∧ (n.rh.straps.role = .head → n.snapshot 4 = [])
    ∧ (∀ (ctx : Option FrameCtx) (tallies : Tallies → List Byte), n.rh.straps.role = .base →
        (n.se.state = .idle ∧ ctx = none ∨ ∃ f, (n.se.state = .run f ∨ n.se.state = .flushing f) ∧ ctx = some f) →
        tallies = (fun x => u16 x.lines ++ u16 x.complete ++ u16 x.concealed ++ u16 x.gap ++ u16 x.forced
          ++ u16 x.worstSkew ++ u8 x.contributing.toNat ++ u8 x.joined.toNat) →
        ∃ records : List Record, records.Perm n.se.table
        ∧ (∀ f, ctx = some f → records.Pairwise fun a b => a.rank f.fCur ≤ b.rank f.fCur)
        ∧ n.snapshot 4 = u8 n.se.table.length ++ records.flatMap (fun r =>
            [r.frame] ++ u16 r.line ++ u8 (contribPlanes r.contribs).toNat ++ u8 r.state.code
              ++ (if passed n.tb.e r.deadline = true then [0] else 1 :: u16 (sdiff r.deadline n.tb.e).toNat))
          ++ [0, 1, 2, 3].flatMap (fun p => optBytes (fun h => h.frame :: u16 h.line) (n.se.holds.get p))
          ++ optBytes (fun f => tallies f.tallies) ctx ++ tallies n.se.lastTallies ++ u8 n.se.state.code
          ++ optBytes (fun f => [f.fCur] ++ u16 f.nNext ++ u8 f.mask.toNat ++ u8 f.j.toNat) ctx
          ++ u8 n.se.lockedSet.toNat ++ u8 n.se.strayRun ++ u8 (4 - n.ou.queue.length)
          ++ [n.se.framesStarted, n.se.framesEnded, n.se.framesFlushed, n.se.resyncStray, n.se.resyncEmpty,
              n.se.forcedLines, n.se.contribWithdrawn, n.se.contribDiscarded].flatMap (fun x => u16 x.toNat)
          ++ u8 n.ou.queue.length ++ n.ou.queue.flatMap (fun x => match x with
            | .line d => [1, d.frame, 1] ++ u16 d.line
            | .frameEnd d => [2, d.frame, 0])
          ++ flagByte n.pins.pready
          ++ (match n.ou.abort, n.ou.queue with
            | some (.line _ _), _ => [3, 0]
            | some (.frameEnd _), _ => [4, 0]
            | none, .line d :: _ => [1, 1, d.frame, 1] ++ u16 d.line ++ u16 n.ou.taken
            | none, .frameEnd d :: _ => [2, 1, d.frame, 0] ++ u16 n.ou.taken
            | none, [] => [0, 0])
          ++ [n.ou.linesOut, n.ou.framesOut, n.ou.abortsOut, n.ou.stalledRecords, n.ou.queueFull].flatMap
              fun x => u16 x.toNat)
    ∧ (∀ c, n.rh.settled = some c → n.snapshot 5 =
      u8 c.pre ++ u8 c.prop ++ u8 c.pa ++ u8 c.pb ++ u8 c.sjw ++ u8 n.si.tec ++ u8 n.si.recCount ++ u8 n.si.recovery
        ++ u8 n.si.state.code ++ flagByte n.si.listenOnly ++ optBytes flagByte n.rh.pending.listenOnly
        ++ [n.si.sentOk, n.si.sendFailed, n.si.receivedOk, n.si.arbitrationLost, n.si.echoErrors, n.si.symbolErrors,
            n.si.checkErrors, n.si.noAckErrors].flatMap (fun x => u16 x.toNat)
        ++ flagByte n.mh.announce ++ flagByte n.mh.probe.isSome ++ flagByte n.mh.controlReply.isSome
        ++ u8 n.mh.replies.length ++ u8 n.mh.replies.length
        ++ n.mh.replies.flatMap (fun x => u16 (0x300 + 16 * x.requester.toNat + n.rh.straps.node.toNat))
        ++ [n.mh.unusableKind, n.mh.badForm, n.mh.probesUnanswered, n.mh.replyQueueFull, n.mh.controlBusy,
            n.mh.controlUnreplied].flatMap fun x => u16 x.toNat)
    ∧ n.snapshot 6 = n.mh.slots.flatMap (fun x => x.defn.bytes ++ u8 x.state.code ++
          (match x.defn, x.state with
            | .receive _ _, .full m => 1 :: (u16 m.key.toNat ++ u8 m.payload.length ++ u32 m.stamp.toNat)
            | .receive _ _, .overrun m => 1 :: (u16 m.key.toNat ++ u8 m.payload.length ++ u32 m.stamp.toNat)
            | .receive _ _, _ => [0]
            | _, _ => []))
        ++ u16 n.mh.mailUnmatched.toNat ++ u16 n.mh.mailOverrun.toNat
    ∧ n.summary 1 = [if n.rh.straps.role = .head then 0 else 1, n.rh.straps.plane.setWidth 8,
        n.rh.straps.node.setWidth 8, BitVec.ofNat 8 n.rh.lifecycle.code, BitVec.ofNat 8 n.rh.joining]
    ∧ n.summary 2 = u8 n.du.state.code ++ u8 n.du.source.toNat ++ u8 n.du.cls ++ u16 n.du.dEst
        ++ [if n.du.dValid then 1 else 0] ++ u8 n.du.lock ++ u8 n.du.mon.code
    ∧ (n.rh.straps.role = .head →
        n.summary 3 = u8 n.ss.freeCount ++ u8 n.lu.line.code ++ u8 n.lu.queue.length)
    ∧ (n.rh.straps.role = .base →
        n.summary 3 = u8 n.ss.freeCount ++ [0, 1, 2, 3].flatMap fun p => u8 (n.lane p).state.code)
    ∧ (∀ f, n.se.state = .run f →
        n.summary 4 = [1, f.fCur] ++ u16 f.nNext ++ u8 f.j.toNat ++ u8 n.ou.freePlaces)
    ∧ (∀ f, n.se.state = .flushing f →
        n.summary 4 = [2, f.fCur] ++ u16 f.nNext ++ u8 f.j.toNat ++ u8 n.ou.freePlaces)
    ∧ (n.se.state = .idle → ∃ frame hi lo j : Byte, j.toNat < 16 ∧
        n.summary 4 = [0, frame, hi, lo, j] ++ u8 n.ou.freePlaces)
    ∧ n.summary 5 =
        u8 n.si.state.code ++ u8 n.si.tec ++ u8 n.si.recCount ++ [if n.si.listenOnly then 1 else 0]
    ∧ n.summary 6 = n.mh.slots.map fun x => BitVec.ofNat 8 x.state.code

/-- The notice line is low exactly while a pending source has a level above the threshold or SILENCED is pending.
NOTICES: the pending set, the highest pending source with its level, and the threshold; then every source of the
acknowledge set is cleared, and nothing else changes but the model's count of free bytes. The level byte with no level
to give is a free value (log entries 24 and 25). -/
def Obligations.Notices : Prop :=
  (∀ rh : Rh, rh.noteLow = true ↔
    rh.isPending 15 = true
    ∨ ∃ k, 1 ≤ k ∧ k ≤ 14 ∧ rh.isPending k = true ∧ rh.runtime.threshold < rh.level k)
  ∧ ∀ (s : State) (addr : BitVec 7) (hi lo : Byte), s.node.Hears addr [hi, lo] →
    Yields (.notices addr [hi, lo]) s fun t =>
      t.rh.notices = s.node.rh.notices &&& ~~~ ((hi ++ lo : BitVec 16) &&& 0xFFFE)
      ∧ t = { s.node with
          rh := { s.node.rh with notices := t.rh.notices, mailbox := t.rh.mailbox }, freeIdx := t.freeIdx }
      ∧ ∃ top level : Byte,
          t.rh.mailbox = .held ⟨.done,
            u16 s.node.rh.notices.toNat ++ [top, level] ++ u8 s.node.rh.runtime.threshold⟩
          ∧ (s.node.rh.isPending 15 = true → top = 15)
          ∧ (s.node.rh.isPending 15 = false → (∀ k ∈ sourceNumbers, s.node.rh.isPending k = false) → top = 0)
          ∧ (s.node.rh.isPending 15 = false → (∃ k ∈ sourceNumbers, s.node.rh.isPending k = true) →
              ∃ k ∈ sourceNumbers, top = BitVec.ofNat 8 k ∧ level = BitVec.ofNat 8 (s.node.rh.level k)
                ∧ s.node.rh.isPending k = true
                ∧ ∀ j ∈ sourceNumbers, s.node.rh.isPending j = true →
                    s.node.rh.level j < s.node.rh.level k ∨ (s.node.rh.level j = s.node.rh.level k ∧ k ≤ j))

/-- Transactions of the mailbox. A write is the request its kind byte names, with the body its length bytes give,
further bytes ignored. One that ends before its kind and length bytes leaves the mailbox IDLE; one cut within its body,
one of an unknown kind and one of a length its kind does not allow are answered, with no other effect. A read gives a
held response from its first byte, then idle bytes; read to its end it is gone, else it stays held; with no response
the read is not acknowledged. That an incomplete body is judged before its kind is the model's choice (log entry 20). -/
def Obligations.MailboxTransactions : Prop :=
  (∀ (addr : BitVec 7) (kind hi lo : Byte) (body more bytes : List Byte) (cp : PlaneSet) (pready : Bool),
     bytes = kind :: hi :: lo :: (body ++ more) → body.length = hi.toNat * 256 + lo.toNat →
     (kind = 1 → body.length = 180 → mailboxCommand addr bytes cp pready = .settle addr body)
     ∧ (kind = 2 → mailboxCommand addr bytes cp pready = .adjust addr body)
     ∧ (kind = 3 → mailboxCommand addr bytes cp pready = .send addr body)
     ∧ (kind = 4 → body.length = 1 → mailboxCommand addr bytes cp pready = .take addr body)
     ∧ (kind = 5 → body.length = 2 → mailboxCommand addr bytes cp pready = .status addr ⟨body, cp, pready⟩)
     ∧ (kind = 6 → body.length = 2 → mailboxCommand addr bytes cp pready = .notices addr body)
     ∧ (kind = 7 → body = [] → mailboxCommand addr bytes cp pready = .softReset addr body)
     ∧ ((kind = 0 ∨ 7 < kind.toNat) → mailboxCommand addr bytes cp pready = .mailboxBadRequest addr bytes))
  ∧ (∀ (s : State) (addr : BitVec 7) (bytes : List Byte), s.node.rstLow = false → s.node.isAddressed addr = true →
       (bytes.length < 3 → Yields (.mailboxBadRequest addr bytes) s fun t => t = s.node.setMailbox .idle)
       ∧ (∀ (kind hi lo : Byte) (body : List Byte), bytes = kind :: hi :: lo :: body →
         (body.length < hi.toNat * 256 + lo.toNat →
           Yields (.mailboxBadRequest addr bytes) s (s.node.OnlyAnswered ⟨.badLength, []⟩))
         ∧ (hi.toNat * 256 + lo.toNat ≤ body.length → (kind = 0 ∨ 7 < kind.toNat) →
           Yields (.mailboxBadRequest addr bytes) s (s.node.OnlyAnswered ⟨.unknownKind, []⟩))
         ∧ (hi.toNat * 256 + lo.toNat ≤ body.length →
             (kind = 1 ∧ hi.toNat * 256 + lo.toNat ≠ 180 ∨ kind = 4 ∧ hi.toNat * 256 + lo.toNat ≠ 1
               ∨ kind = 5 ∧ hi.toNat * 256 + lo.toNat ≠ 2 ∨ kind = 6 ∧ hi.toNat * 256 + lo.toNat ≠ 2
               ∨ kind = 7 ∧ hi.toNat * 256 + lo.toNat ≠ 0) →
           Yields (.mailboxBadRequest addr bytes) s (s.node.OnlyAnswered ⟨.badLength, []⟩))))
  ∧ (∀ (s : State) (addr : BitVec 7) (count : Nat), s.node.rstLow = false → s.node.isAddressed addr = true → 1 ≤ count →
       (∀ r, s.node.rh.mailbox = .held r → Yields (.mailboxRead addr count) s fun t =>
         t.rh.busRead = .bytes ((r.code.byte :: (u16 r.body.length ++ r.body)).take count
           ++ List.replicate (count - (3 + r.body.length)) 0xFF)
         ∧ t.rh.mailbox = (if 3 + r.body.length ≤ count then .idle else .held r)
         ∧ t = { s.node with rh := { s.node.rh with mailbox := t.rh.mailbox, busRead := t.rh.busRead } })
       ∧ (s.node.rh.mailbox = .idle → Yields (.mailboxRead addr count) s fun t =>
         t = { s.node with rh := { s.node.rh with busRead := .nak } }))

/-! ## Timebase -/

/-- FRAME_START, when E has reached the scheduled next start: what TB, SG and RH become, and that no block changes
but those of a frame start. A pending adoption gives the new frame's timecode, and the count of adoptions rises exactly
where that differs from the value the frame would have taken by its preset or by the advance. Strobe entries that have
fired at this very tick, on the line that ends, are taken back (log entry 6). -/
def Obligations.FrameStart : Prop :=
  ∀ (s : State) (c : Settled) (g : Gen), s.node.Works c → s.node.tb.gen = some g →
    reached s.node.tb.e g.scheduled = true →
    Yields .frameStart s fun t =>
      t.tb.e = s.node.tb.e ∧ t.tb.frameNo = s.node.tb.frameNo + 1
      ∧ t.tb.history = lastFour (s.node.tb.history ++ [⟨s.node.tb.frameNo + 1, s.node.tb.e, g.step.isSome⟩])
      ∧ t.tb.line = 0 ∧ t.tb.tick = 0 ∧ t.tb.trim = trimOf s.node.tb.q (s.node.tb.frameNo + 1)
      ∧ (∃ h, t.tb.gen = some h ∧ h.start = s.node.tb.e ∧ h.step = none
          ∧ h.unstepped = eAdd s.node.tb.e (c.period + t.tb.trim) ∧ h.scheduled = h.unstepped)
      ∧ t.tb.adoption = none
      ∧ (s.node.tb.adoption = none → s.node.rh.pending.preset = none →
          t.tb.tc = Timecode.advance c.r c.d s.node.tb.tc)
      ∧ (s.node.tb.adoption = none → ∀ p, s.node.rh.pending.preset = some p → t.tb.tc = p)
      ∧ (∀ a k, s.node.tb.adoption = some (a, k) →
          t.tb.tc = Timecode.advanceBy c.r c.d (s.node.tb.frameNo + 1 - k).toNat a)
      ∧ (s.node.tb.adoption = none → t.tb.adoptions = s.node.tb.adoptions)
      ∧ (∀ a k, s.node.tb.adoption = some (a, k) → t.tb.adoptions =
          (if Timecode.advanceBy c.r c.d (s.node.tb.frameNo + 1 - k).toNat a
              = s.node.rh.pending.preset.getD (Timecode.advance c.r c.d s.node.tb.tc) then s.node.tb.adoptions
            else Counter.bump s.node.tb.adoptions))
      ∧ t.rh.runtime =
          ⟨s.node.rh.pending.mask.getD s.node.rh.runtime.mask, s.node.rh.pending.w.getD s.node.rh.runtime.w,
            s.node.rh.pending.mode.getD s.node.rh.runtime.mode,
            s.node.rh.pending.threshold.getD s.node.rh.runtime.threshold,
            s.node.rh.pending.lead.getD s.node.rh.runtime.lead⟩
      ∧ t.rh.pending = { PendingSet.none with listenOnly := s.node.rh.pending.listenOnly }
      ∧ (s.node.sg.holder = none → t.sg.active = s.node.sg.active ∧ t.sg.swaps = s.node.sg.swaps)
      ∧ (∀ l, s.node.sg.holder = some l → t.sg.active = l ∧ t.sg.swaps = Counter.bump s.node.sg.swaps)
      ∧ t.sg.holder = none ∧ t.sg.pins = s.node.sg.prior.getD s.node.sg.pins ∧ t.sg.prior = none
      ∧ (s.node.rh.lifecycle = .joining → 2 ≤ s.node.rh.joining →
          t.rh.lifecycle = .joining ∧ t.rh.joining = s.node.rh.joining - 1)
      ∧ (s.node.rh.lifecycle = .joining → s.node.rh.joining = 1 → t.rh.lifecycle = .running ∧ t.rh.joining = 0)
      ∧ (s.node.rh.lifecycle = .running → t.rh.lifecycle = .running)
      ∧ t = { s.node with
          tb := t.tb, du := t.du, sg := t.sg
          mh := { s.node.mh with announce := t.mh.announce, probe := t.mh.probe }
          rh := { s.node.rh with
            runtime := t.rh.runtime, pending := t.rh.pending, lifecycle := t.rh.lifecycle
            joining := t.rh.joining, notices := t.rh.notices } }

/-- FRAME_START in DU: credit, ages, the probe's timeout, then the checks that queue a probe and an ANNOUNCE, in that
order. First any frame start, step by step: a credit that runs out brings SELF_FREE with HOLDOVER_EXPIRED and, if the
class changes, a selection; entries whose age reaches 3 × M leave together (log entry 8), with one selection; the
checks see what these left. Then, spelled out, a frame start at which no selection arises. -/
def Obligations.FrameStartDiscipline : Prop :=
  (∀ (s : State) (c : Settled) (g : Gen) (n : Node), s.node.Works c → s.node.tb.gen = some g →
    reached s.node.tb.e g.scheduled = true → n = s.node.frameStartTb c →
    n.du = s.node.du ∧ n.mh = s.node.mh ∧ n.si = s.node.si ∧ ∃ n1 n2 : Node,
      (s.node.du.state ≠ .selfHold → n1 = n)
      ∧ (s.node.du.state = .selfHold → 2 ≤ s.node.du.credit →
          n1 = { n with du := { s.node.du with credit := s.node.du.credit - 1 } })
      ∧ (s.node.du.state = .selfHold → s.node.du.credit ≤ 1 → ∃ m : Node,
          m.du = { s.node.du with state := .selfFree, credit := 0, lock := 0 } ∧ m.tb = { n.tb with q := s.node.du.i }
          ∧ m.rh.isPending 5 = true
          ∧ m = { n with du := m.du, tb := m.tb, rh := { n.rh with notices := m.rh.notices } }
          ∧ (m.du.ownClass = m.du.cls → n1 = m) ∧ (m.du.ownClass ≠ m.du.cls → n1 = m.select c))
      ∧ ((∀ k ∈ n1.du.cands, k.age + 1 < 3 * c.m) → n2 = { n1 with
          du := { n1.du with cands := n1.du.cands.map fun k => { k with age := k.age + 1 } } })
      ∧ ((∃ k ∈ n1.du.cands, 3 * c.m ≤ k.age + 1) → n2 = Node.select c { n1 with
          du := { n1.du with cands :=
            (n1.du.cands.map fun k => { k with age := k.age + 1 }).filter fun k => decide (k.age < 3 * c.m) } })
      ∧ Yields .frameStart s fun t =>
        t.du = { n2.du with
          probe := t.du.probe, probeAbandoned := t.du.probeAbandoned, countdown := t.du.countdown }
        ∧ (n2.du.probe = none → t.du.probe = none ∧ t.du.probeAbandoned = n2.du.probeAbandoned)
        ∧ (∀ p, n2.du.probe = some p → 2 ≤ p.frames →
            t.du.probe = some { p with frames := p.frames - 1 } ∧ t.du.probeAbandoned = n2.du.probeAbandoned)
        ∧ (∀ p, n2.du.probe = some p → p.frames ≤ 1 →
            t.du.probe = none ∧ t.du.probeAbandoned = Counter.bump n2.du.probeAbandoned)
        ∧ ((n2.du.state.isSelf = false ∧ n2.si.listenOnly = false ∧ n2.mh.probe = none ∧ t.du.probe = none
              ∧ (n2.du.dValid = false ∨ n2.du.countdown - 1 = 0)) →
            t.mh.probe = some n2.du.source ∧ t.du.countdown = 4 * c.m)
        ∧ (¬ (n2.du.state.isSelf = false ∧ n2.si.listenOnly = false ∧ n2.mh.probe = none ∧ t.du.probe = none
              ∧ (n2.du.dValid = false ∨ n2.du.countdown - 1 = 0)) →
            t.mh.probe = n2.mh.probe ∧ t.du.countdown = n2.du.countdown - 1)
        ∧ (t.mh.announce = true ↔ n2.mh.announce = true
            ∨ (n2.tb.frameNo.toNat % c.m = 0 ∧ n2.du.state.isSelf = true ∧ n2.rh.lifecycle = .running
              ∧ n2.si.listenOnly = false))
        ∧ t = { n2 with du := t.du, mh := { n2.mh with announce := t.mh.announce, probe := t.mh.probe } })
  ∧ ∀ (s : State) (c : Settled) (g : Gen), s.node.Works c → s.node.tb.gen = some g →
    reached s.node.tb.e g.scheduled = true →
    (∀ k ∈ s.node.du.cands, k.age + 1 < 3 * c.m) → (s.node.du.state = .selfHold → 2 ≤ s.node.du.credit) →
    Yields .frameStart s fun t =>
      t.du.state = s.node.du.state ∧ t.du.source = s.node.du.source ∧ t.du.cls = s.node.du.cls
      ∧ t.du.cands = s.node.du.cands.map (fun k => { k with age := k.age + 1 })
      ∧ t.du.credit = (if s.node.du.state = .selfHold then s.node.du.credit - 1 else s.node.du.credit)
      ∧ (s.node.du.probe = none → t.du.probe = none ∧ t.du.probeAbandoned = s.node.du.probeAbandoned)
      ∧ (∀ p, s.node.du.probe = some p → 2 ≤ p.frames →
          t.du.probe = some { p with frames := p.frames - 1 } ∧ t.du.probeAbandoned = s.node.du.probeAbandoned)
      ∧ (∀ p, s.node.du.probe = some p → p.frames = 1 →
          t.du.probe = none ∧ t.du.probeAbandoned = Counter.bump s.node.du.probeAbandoned)
      ∧ ((s.node.du.state.isSelf = false ∧ s.node.si.listenOnly = false ∧ s.node.mh.probe = none
            ∧ t.du.probe = none ∧ (s.node.du.dValid = false ∨ s.node.du.countdown - 1 = 0)) →
          t.mh.probe = some s.node.du.source ∧ t.du.countdown = 4 * c.m)
      ∧ (¬ (s.node.du.state.isSelf = false ∧ s.node.si.listenOnly = false ∧ s.node.mh.probe = none
            ∧ t.du.probe = none ∧ (s.node.du.dValid = false ∨ s.node.du.countdown - 1 = 0)) →
          t.mh.probe = s.node.mh.probe ∧ t.du.countdown = s.node.du.countdown - 1)
      ∧ (t.mh.announce = true ↔ s.node.mh.announce = true
          ∨ ((s.node.tb.frameNo + 1).toNat % c.m = 0 ∧ s.node.du.state.isSelf = true
            ∧ t.rh.lifecycle = .running ∧ s.node.si.listenOnly = false))

/-- RUNNING_ENTRY with the joining count at 0; CANDIDATE_REMOVED with an aged-out entry; HOLDOVER_EXPIRED with no
credit left; PROBE_TIMEOUT with no frame left. That these act alone where their condition stands is the model's reading
(log entry 5). -/
def Obligations.FrameStartEventsAlone : Prop :=
  ∀ (s : State) (c : Settled), s.node.Works c →
    (s.node.rh.lifecycle = .joining → s.node.rh.joining = 0 → Yields .runningEntry s fun t =>
      t.rh = { s.node.rh with lifecycle := .running }
      ∧ (t.mh.announce = true ↔ s.node.mh.announce = true
          ∨ (s.node.tb.frameNo.toNat % c.m = 0 ∧ s.node.du.state.isSelf = true ∧ s.node.si.listenOnly = false))
      ∧ t = { s.node with rh := t.rh, mh := { s.node.mh with announce := t.mh.announce } })
    ∧ ((∃ k ∈ s.node.du.cands, 3 * c.m ≤ k.age) → Yields .candidateRemoved s fun t =>
      t.du.cands = s.node.du.cands.filter (fun k => decide (k.age < 3 * c.m))
      ∧ (t.du.cands = [] → t.du.source = s.node.rh.straps.node ∧ t.du.state.isSelf = true))
    ∧ (s.node.du.state = .selfHold → s.node.du.credit = 0 → Yields .holdoverExpired s fun t =>
      t.rh.isPending 5 = true ∧ t.du.state ≠ .selfHold ∧ t.du.credit = 0
      ∧ (s.node.du.cands = [] → s.node.du.mon ≠ .locked → s.node.du.source = s.node.rh.straps.node →
          t.du.state = .selfFree ∧ t.du.cls = 2 ∧ t.tb.q = s.node.du.i))
    ∧ (∀ p, s.node.du.probe = some p → p.frames = 0 → Yields .probeTimeout s fun t =>
      t = { s.node with du := { s.node.du with
        probe := none, probeAbandoned := Counter.bump s.node.du.probeAbandoned } })

/-- The timebase's arithmetic. The trim of a frame: floor(Q / 16), one more where the number modulo 16 is below Q's
remainder; between −64 and 64 for a legal Q; over any sixteen consecutive numbers the trims add up to Q. The timecode
one frame on, counted in frames of the day: with D = 1 one more, with D = 2 the pair flag inverted and one more when it
goes from set to clear; the value stays legal. The reduced phase error lies in (−P/2, +P/2] and differs from the error
by whole periods; the start chosen for a measurement is one of the history's or the scheduled next start, and none is
nearer; a renumbering shifts the frame number and every history entry so that the named start carries the new number,
and nothing else of TB changes. -/
def Obligations.TimebaseArithmetic : Prop :=
  (∀ (q : Int) (n : Word16),
     (trimOf q n = if ((n.toNat % 16 : Nat) : Int) < q % 16 then q / 16 + 1 else q / 16)
     ∧ (-1023 ≤ q → q ≤ 1023 → -64 ≤ trimOf q n ∧ trimOf q n ≤ 64)
     ∧ ((List.range 16).map (fun k => trimOf q (n + BitVec.ofNat 16 k))).sum = q)
  ∧ (∀ (r : Nat) (t : Timecode), (r = 24 ∨ r = 25 ∨ r = 30) →
       (t.legal r 1 = true →
         (t.advance r 1).legal r 1 = true ∧ (t.advance r 1).count r = (t.count r + 1) % (86400 * r))
       ∧ (t.legal r 2 = true →
         (t.advance r 2).legal r 2 = true ∧ (t.advance r 2).pair = !t.pair
         ∧ (t.advance r 2).count r = (if t.pair = true then (t.count r + 1) % (86400 * r) else t.count r)))
  ∧ ((∀ (p : Nat) (e : Int), 0 < p →
       -(p : Int) < 2 * reduceError p e ∧ 2 * reduceError p e ≤ p ∧ ∃ k : Int, e = reduceError p e + k * p)
     ∧ (∀ (tb : Tb) (t : Word32),
       (tb.starts = [] → tb.nearest t = none)
       ∧ (tb.starts ≠ [] → ∃ x, tb.nearest t = some x ∧ x ∈ tb.starts
           ∧ ∀ y ∈ tb.starts, (sdiff x.2 t).natAbs ≤ (sdiff y.2 t).natAbs))
     ∧ ∀ (tb : Tb) (label number : Word16),
       (tb.renumber label number).frameNo = tb.frameNo + (number - label)
       ∧ (tb.renumber label number).history
           = tb.history.map (fun h => { h with number := h.number + (number - label) })
       ∧ (∀ h ∈ tb.history, h.number = label →
           { h with number := number } ∈ (tb.renumber label number).history)
       ∧ tb.renumber label number
           = { tb with
             frameNo := (tb.renumber label number).frameNo, history := (tb.renumber label number).history })

/-! ## Discipline unit -/

/-- A selection: the best of the candidates' ranks and the node's own rank, taken with the class of the state that
choosing itself would bring; the state that choosing itself brings. A change of state or source makes Q equal to I and
the lock count 0; a change of source raises SOURCE_CHANGED and forgets the delay estimate; leaving FOLLOW_LOCK, or
SELF_REF while tracking, raises LOCK_LOST; leaving the SELF states withdraws an ANNOUNCE not started (when one has
started is the model's reading, log entry 54), a change of source empties the PROBE place of a probe not started, and
both places stay otherwise; entering SELF_HOLD sets the credit, leaving it makes it 0; without a change nothing but the
class is taken anew. What else may change is named. -/
def Obligations.Selection : Prop :=
  ∀ (n : Node) (c : Settled),
    ((∀ k ∈ n.du.cands, rankOf (n.du.selfClass c.h) n.rh.straps.node ≤ k.rank) →
      (n.select c).du.source = n.rh.straps.node
      ∧ (n.du.mon = .locked → (n.select c).du.state = .selfRef)
      ∧ (n.du.mon ≠ .locked → (n.du.state = .selfRef ∨ n.du.state = .followLock) →
          (n.select c).du.state = (if c.h = 0 then .selfFree else .selfHold)
          ∧ (c.h ≠ 0 → (n.select c).du.credit = c.h))
      ∧ (n.du.mon ≠ .locked → n.du.state = .selfHold → (n.select c).du.state = .selfHold)
      ∧ (n.du.mon ≠ .locked → (n.du.state = .selfFree ∨ n.du.state = .followAcq) →
          (n.select c).du.state = .selfFree))
    ∧ (∀ k ∈ n.du.cands, k.rank < rankOf (n.du.selfClass c.h) n.rh.straps.node →
        (∀ j ∈ n.du.cands, j ≠ k → k.rank < j.rank) →
        (n.select c).du.source = k.node ∧ (n.select c).du.state.isSelf = false
        ∧ (n.du.follows k.node = true → (n.select c).du.state = n.du.state)
        ∧ (n.du.follows k.node = false →
            (n.select c).du.state = .followAcq ∧ (n.select c).du.srcCls = k.cls
            ∧ (n.select c).du.dValid = false ∧ (n.select c).du.probe = none ∧ (n.select c).du.countdown = 0
            ∧ (n.started .probe = false → (n.select c).mh.probe = none)))
    ∧ ((n.select c).du.state = n.du.state → (n.select c).du.source = n.du.source →
        (n.select c).tb = n.tb ∧ (n.select c).rh = n.rh ∧ (n.select c).mh = n.mh
        ∧ (n.select c).du = { n.du with cls := (n.select c).du.cls, srcCls := (n.select c).du.srcCls })
    ∧ (((n.select c).du.state ≠ n.du.state ∨ (n.select c).du.source ≠ n.du.source) →
        (n.select c).tb.q = n.du.i ∧ (n.select c).du.lock = 0)
    ∧ ((n.select c).du.source ≠ n.du.source → (n.select c).rh.isPending 1 = true
        ∧ (n.select c).du.dValid = false ∧ (n.select c).du.probe = none
        ∧ (n.started .probe = false → (n.select c).mh.probe = none))
    ∧ (n.started .probe = true → (n.select c).mh.probe = n.mh.probe)
    ∧ ((∀ k ∈ n.du.cands, rankOf (n.du.selfClass c.h) n.rh.straps.node ≤ k.rank) →
        n.du.source = n.rh.straps.node → (n.select c).mh.probe = n.mh.probe)
    ∧ ((n.started .announce = true ∨ n.du.state.isSelf = false ∨ (n.select c).du.state.isSelf = true) →
        (n.select c).mh.announce = n.mh.announce)
    ∧ (n.du.state ≠ .selfHold → (n.select c).du.state = .selfHold → (n.select c).du.credit = c.h)
    ∧ (n.du.state = .selfHold → (n.select c).du.state ≠ .selfHold → (n.select c).du.credit = 0)
    ∧ (n.du.state = .selfHold → (n.select c).du.state = .selfHold → (n.select c).du.source = n.du.source →
        (n.select c).du.credit = n.du.credit)
    ∧ (n.du.state ≠ .selfHold → (n.select c).du.state ≠ .selfHold → (n.select c).du.credit = n.du.credit)
    ∧ (n.du.state = .followLock → (n.select c).du.state ≠ .followLock →
        (n.select c).rh.isPending 3 = true ∧ (n.select c).tb.adoption = none)
    ∧ (n.du.state = .selfRef → (n.select c).du.state ≠ .selfRef → (n.select c).du.tracking = false
        ∧ (n.du.tracking = true → (n.select c).rh.isPending 3 = true))
    ∧ (n.du.state.isSelf = true → (n.select c).du.state.isSelf = false → n.started .announce = false →
        (n.select c).mh.announce = false)
    ∧ (n.select c).du.cls = (n.select c).du.ownClass
    ∧ (n.select c).du.i = n.du.i ∧ (n.select c).du.cands = n.du.cands ∧ (n.select c).du.mon = n.du.mon
    ∧ n.select c = { n with
        tb := { n.tb with q := (n.select c).tb.q, adoption := (n.select c).tb.adoption }, du := (n.select c).du
        mh := { n.mh with announce := (n.select c).mh.announce, probe := (n.select c).mh.probe }
        rh := { n.rh with notices := (n.select c).rh.notices } }

/-- ANNOUNCE_RECEIVED: SI counts the message; an ANNOUNCE of the node's own number or of class 3, and a newcomer that a
full table does not take, is counted and ignored. Else the table takes it as the four cases say, and the class that the
selected source announces becomes the source class; a changed table, or a class of the node's own that differs then,
starts a selection; one of a better-ranked sender than the node then is withdraws the node's own pending ANNOUNCE; and
what AnnounceMeasures says follows. That a newcomer's place is the end of the table, and that the source class is
taken with the table, before the selection, are the model's choices (log entries 43 and 63). The first clauses on the
table are the same spelled out for a node with no valid delay estimate, so that no measurement, and no frame start of a
step, follows. -/
def Obligations.AnnounceReceived : Prop :=
  ∀ (s : State) (c : Settled) (key : Key) (payload : List Byte) (stamp : Word32) (marked : Bool),
    s.node.Receives c → isGood 1 key payload = true →
    ((announceNode key = s.node.rh.straps.node ∨ announceClass key = 3) →
      Yields (.announceReceived key payload ⟨stamp, marked⟩) s fun t =>
        t.du = { s.node.du with announceIgnored := Counter.bump s.node.du.announceIgnored } ∧ t.tb = s.node.tb)
    ∧ (announceNode key ≠ s.node.rh.straps.node → announceClass key ≠ 3 → s.node.du.dValid = false →
      ((∃ k ∈ s.node.du.cands, k.node = announceNode key) →
        Yields (.announceReceived key payload ⟨stamp, marked⟩) s fun t =>
          t.du.cands = s.node.du.cands.map (fun k =>
            if k.node = announceNode key then ⟨announceNode key, announceClass key, 0⟩ else k)
          ∧ t.du.announceIgnored = s.node.du.announceIgnored)
      ∧ ((∀ k ∈ s.node.du.cands, k.node ≠ announceNode key) →
        (s.node.du.cands.length < 4 → Yields (.announceReceived key payload ⟨stamp, marked⟩) s fun t =>
          t.du.cands = s.node.du.cands ++ [⟨announceNode key, announceClass key, 0⟩]
          ∧ t.du.announceIgnored = s.node.du.announceIgnored)
        ∧ (s.node.du.cands.length = 4 → ∀ w ∈ s.node.du.cands,
            (∀ k ∈ s.node.du.cands, k ≠ w → k.rank < w.rank) →
            (rankOf (announceClass key) (announceNode key) < w.rank →
              Yields (.announceReceived key payload ⟨stamp, marked⟩) s fun t =>
                t.du.cands = s.node.du.cands.erase w ++ [⟨announceNode key, announceClass key, 0⟩]
                ∧ t.du.announceIgnored = s.node.du.announceIgnored)
            ∧ (w.rank ≤ rankOf (announceClass key) (announceNode key) →
              Yields (.announceReceived key payload ⟨stamp, marked⟩) s fun t =>
                t.du = { s.node.du with announceIgnored := Counter.bump s.node.du.announceIgnored })))
      ∧ ((s.node.du.cands.length < 4 ∨ ∃ k ∈ s.node.du.cands, k.node = announceNode key) →
        Yields (.announceReceived key payload ⟨stamp, marked⟩) s fun t =>
          rankOf (announceClass key) (announceNode key) < rankOf t.du.cls s.node.rh.straps.node →
            t.mh.announce = false))
    ∧ ∀ b : Node, b = s.node.received c key payload marked →
      b = { s.node with si := b.si, rh := { s.node.rh with notices := b.rh.notices } }
      ∧ b.si.receivedOk = Counter.bump s.node.si.receivedOk
      ∧ ((announceNode key = s.node.rh.straps.node ∨ announceClass key = 3
          ∨ (∀ k ∈ s.node.du.cands, k.node ≠ announceNode key) ∧ s.node.du.cands.length = 4
            ∧ ∀ k ∈ s.node.du.cands, k.rank ≤ rankOf (announceClass key) (announceNode key)) →
        Yields (.announceReceived key payload ⟨stamp, marked⟩) s fun t =>
          t = { b with du := { s.node.du with announceIgnored := Counter.bump s.node.du.announceIgnored } })
      ∧ ∀ (l : List Cand) (changed : Bool) (n1 n2 n3 : Node),
        announceNode key ≠ s.node.rh.straps.node → announceClass key ≠ 3 →
        ((∃ k ∈ s.node.du.cands, k.node = announceNode key)
            ∧ l = s.node.du.cands.map (fun k =>
                if k.node = announceNode key then ⟨announceNode key, announceClass key, 0⟩ else k)
            ∧ (changed = true ∧ (∀ k ∈ s.node.du.cands, k.node = announceNode key → k.cls ≠ announceClass key)
              ∨ changed = false ∧ (∀ k ∈ s.node.du.cands, k.node = announceNode key → k.cls = announceClass key))
          ∨ (∀ k ∈ s.node.du.cands, k.node ≠ announceNode key) ∧ changed = true
            ∧ (s.node.du.cands.length < 4 ∧ l = s.node.du.cands ++ [⟨announceNode key, announceClass key, 0⟩]
              ∨ s.node.du.cands.length = 4 ∧ ∃ w ∈ s.node.du.cands,
                (∀ k ∈ s.node.du.cands, k ≠ w → k.rank < w.rank)
                ∧ rankOf (announceClass key) (announceNode key) < w.rank
                ∧ l = s.node.du.cands.erase w ++ [⟨announceNode key, announceClass key, 0⟩])) →
        n1 = { b with du := { s.node.du with
          cands := l
          srcCls := if s.node.du.state.isSelf = false ∧ s.node.du.source = announceNode key then announceClass key
            else s.node.du.srcCls } } →
        n2 = (if changed = true ∨ n1.du.ownClass ≠ n1.du.cls then n1.select c else n1) →
        n3 = (if rankOf (announceClass key) (announceNode key) < rankOf n2.du.cls s.node.rh.straps.node
          then { n2 with mh := { n2.mh with announce := false } } else n2) →
        Yields (.announceReceived key payload ⟨stamp, marked⟩) s fun t =>
          t = n3.followAnnounce c (announceNode key) (AnnounceBody.ofBytes payload) (s.node.stampOf stamp)

/-- ANNOUNCE_RECEIVED from the source of a follower with a valid delay estimate and a history, its class as the table
has it: the target is the start stamp less the estimate, S and, on a head, the estimate and LEAD; the phase error is
that of the history entry with the announced number, else that of the nearest start, which a renumbering then makes
carry that number, raising RENUMBERED; the error is corrected as measured every M frames; a node then in FOLLOW_LOCK
hands an announced timecode that is legal on to TB. The message comes whole (log entry 14). Then the same of any node
that has dealt with the ANNOUNCE otherwise (AnnounceReceived): one in a SELF state, with another source, with no valid
estimate or with an empty history neither measures nor hands on. -/
def Obligations.AnnounceMeasures : Prop :=
  (∀ (s : State) (c : Settled) (key : Key) (payload : List Byte) (stamp : Word32) (marked : Bool) (a : AnnounceBody)
      (target : Word32),
    s.node.Receives c → isGood 1 key payload = true → a = AnnounceBody.ofBytes payload →
    announceNode key ≠ s.node.rh.straps.node → announceClass key ≠ 3 → s.node.du.state.isSelf = false →
    s.node.du.source = announceNode key → s.node.du.dValid = true → s.node.tb.history ≠ [] →
    (∃ k ∈ s.node.du.cands, k.node = announceNode key) →
    (∀ k ∈ s.node.du.cands, k.node = announceNode key → k.cls = announceClass key) →
    s.node.du.srcCls = announceClass key → s.node.du.cls = s.node.du.ownClass →
    target = s.node.stampOf stamp - BitVec.ofNat 32 s.node.du.dEst - a.s
      - BitVec.ofNat 32 (if s.node.rh.straps.role = .head then s.node.du.dEst + s.node.rh.runtime.lead else 0) →
    Yields (.announceReceived key payload ⟨stamp, marked⟩) s fun t => ∃ n m : Node,
      n = { s.node with
        du := { s.node.du with cands := s.node.du.cands.map fun k =>
          if k.node = announceNode key then ⟨announceNode key, announceClass key, 0⟩ else k }
        tb := n.tb, si := n.si, mh := n.mh, rh := { s.node.rh with notices := n.rh.notices } }
      ∧ (∀ h, s.node.tb.entry a.nSrc = some h → n.tb = s.node.tb ∧ m = n.correct c c.m (sdiff h.e target))
      ∧ (∀ label e, s.node.tb.entry a.nSrc = none → s.node.tb.nearest target = some (label, e) →
          n.tb = (if label = a.nSrc then s.node.tb else s.node.tb.renumber label a.nSrc)
          ∧ (label ≠ a.nSrc → n.rh.isPending 7 = true) ∧ m = n.correct c c.m (sdiff e target))
      ∧ (m.du.state = .followLock → a.timecode.legal c.r c.d = true →
          t = { m with tb := { m.tb with adoption := some (a.timecode, a.nSrc) } })
      ∧ ((m.du.state ≠ .followLock ∨ a.timecode.legal c.r c.d = false) → t = m))
  ∧ ∀ (n : Node) (c : Settled) (sender : BitVec 4) (a : AnnounceBody) (stamp target : Word32),
    ((n.du.state.isSelf = true ∨ n.du.source ≠ sender ∨ n.du.dValid = false ∨ n.tb.history = []) →
      n.followAnnounce c sender a stamp = n)
    ∧ (n.du.state.isSelf = false → n.du.source = sender → n.du.dValid = true → n.tb.history ≠ [] →
      target = stamp - BitVec.ofNat 32 n.du.dEst - a.s
        - BitVec.ofNat 32 (if n.rh.straps.role = .head then n.du.dEst + n.rh.runtime.lead else 0) →
      ∃ x m : Node,
        x = { n with tb := x.tb, rh := { n.rh with notices := x.rh.notices } }
        ∧ (∀ h, n.tb.entry a.nSrc = some h → x = n ∧ m = n.correct c c.m (sdiff h.e target))
        ∧ (∀ label e, n.tb.entry a.nSrc = none → n.tb.nearest target = some (label, e) →
            (label = a.nSrc → x = n)
            ∧ (label ≠ a.nSrc → x.tb = n.tb.renumber label a.nSrc ∧ x.rh.isPending 7 = true)
            ∧ m = x.correct c c.m (sdiff e target))
        ∧ (m.du.state = .followLock → a.timecode.legal c.r c.d = true →
            n.followAnnounce c sender a stamp = { m with tb := { m.tb with adoption := some (a.timecode, a.nSrc) } })
        ∧ ((m.du.state ≠ .followLock ∨ a.timecode.legal c.r c.d = false) → n.followAnnounce c sender a stamp = m))

/-- A step, where the reduced error exceeds STEP_LIMIT: I stays, Q becomes I, the lock count 0, STEPS and STEP; a
moved start later than E is scheduled, any other ends the frame at once with the step flag; no follower stays locked.
That the frame start comes within the same step is the model's reading (log entry 7). -/
def Obligations.StepCorrection : Prop :=
  ∀ (n : Node) (c : Settled) (m : Nat) (e : Int) (g : Gen), n.tb.gen = some g →
    c.stepLimit < (reduceError c.period e).natAbs →
    (n.correct c m e).du.i = n.du.i ∧ (n.correct c m e).tb.q = n.du.i ∧ (n.correct c m e).du.lock = 0
    ∧ (n.correct c m e).du.steps = Counter.bump n.du.steps ∧ (n.correct c m e).rh.isPending 6 = true
    ∧ (n.correct c m e).du.state ≠ .followLock
    ∧ (n.du.state = .selfRef → (n.correct c m e).du.tracking = false)
    ∧ (reached n.tb.e (eAdd g.unstepped (-reduceError c.period e)) = false →
        (n.correct c m e).tb.frameNo = n.tb.frameNo ∧ (n.correct c m e).tb.history = n.tb.history
        ∧ (n.correct c m e).tb.gen = some { g with
            scheduled := eAdd g.unstepped (-reduceError c.period e), step := some (reduceError c.period e) })
    ∧ (reached n.tb.e (eAdd g.unstepped (-reduceError c.period e)) = true →
        (n.correct c m e).tb.frameNo = n.tb.frameNo + 1
        ∧ (n.correct c m e).tb.history = lastFour (n.tb.history ++ [⟨n.tb.frameNo + 1, n.tb.e, true⟩]))

/-- A slew, where the reduced error is within STEP_LIMIT: I and Q by their clamped formulas, the lock count up by one
to 4 or to 0. A slew that completes the count in FOLLOW_ACQ enters FOLLOW_LOCK with that Q and a count of 4 and raises
LOCK_GAINED, with a selection where the class changes; in SELF_REF it sets the tracking flag with the same notice; a
larger error in SELF_REF takes the flag back with LOCK_LOST. -/
def Obligations.SlewCorrection : Prop :=
  ∀ (n : Node) (c : Settled) (m : Nat) (e : Int), (reduceError c.period e).natAbs ≤ c.stepLimit →
    (n.correct c m e).du.i = clamp (n.du.i + (clamp ((-8 * reduceError c.period e).tdiv m)).tdiv 8)
    ∧ (¬ ((reduceError c.period e).natAbs ≤ c.lockWindow ∧ n.du.lock = 3) → n.du.lock ≤ 4 →
        (n.correct c m e).tb.q
            = clamp ((n.correct c m e).du.i + clamp ((-8 * reduceError c.period e).tdiv m))
        ∧ (n.correct c m e).du.lock
            = (if (reduceError c.period e).natAbs ≤ c.lockWindow then min 4 (n.du.lock + 1) else 0)
        ∧ (n.correct c m e).tb = { n.tb with q := (n.correct c m e).tb.q })
    ∧ ((reduceError c.period e).natAbs ≤ c.lockWindow → n.du.lock = 3 →
        (n.du.state = .followAcq → ∃ a : Node,
          a.du = { n.du with
            state := .followLock, lock := 4
            i := clamp (n.du.i + (clamp ((-8 * reduceError c.period e).tdiv m)).tdiv 8) }
          ∧ a.tb = { n.tb with q := clamp (a.du.i + clamp ((-8 * reduceError c.period e).tdiv m)) }
          ∧ a.rh.isPending 2 = true ∧ a = { n with du := a.du, tb := a.tb, rh := { n.rh with notices := a.rh.notices } }
          ∧ (a.du.ownClass = a.du.cls → n.correct c m e = a)
          ∧ (a.du.ownClass ≠ a.du.cls → n.correct c m e = a.select c))
        ∧ (n.du.state ≠ .followAcq → (n.correct c m e).du.lock = 4
          ∧ (n.correct c m e).tb = { n.tb with q := clamp ((n.correct c m e).du.i
              + clamp ((-8 * reduceError c.period e).tdiv m)) })
        ∧ (n.du.state = .selfRef → (n.correct c m e).rh.isPending 2 = true ∧ (n.correct c m e).du.tracking = true
          ∧ (n.correct c m e).du = { n.du with
              i := (n.correct c m e).du.i, lock := 4, tracking := true }))
    ∧ (c.lockWindow < (reduceError c.period e).natAbs → n.du.state = .selfRef → n.du.tracking = true →
        (n.correct c m e).du.tracking = false ∧ (n.correct c m e).rh.isPending 3 = true)

/-- DELAY_REPLY_RECEIVED: ignored for another requester; used with a follower's own source and its outstanding probe,
which it clears; else discarded and counted. The raw delay is the floor of half the round trip; out of 0..4,095 it is
rejected and counted; it is taken whole into an invalid estimate, a quarter of the difference into a valid one, which
stays in range. DELAY_MARGIN is raised where twice the estimate is above the propagation segment. That the message
comes whole, with the stamp it brings, is the model's reading (log entry 14). -/
def Obligations.DelayReplyReceived : Prop :=
  ∀ (s : State) (c : Settled) (key : Key) (t2 t3 : Word32) (payload : List Byte) (stamp : Word32)
      (marked : Bool),
    s.node.Receives c → isGood 3 key payload = true → payload = u32 t2.toNat ++ u32 t3.toNat →
    (Sys2Proof.Machine.Key.first key ≠ s.node.rh.straps.node →
      Yields (.delayReplyReceived key payload ⟨stamp, marked⟩) s fun t => t.du = s.node.du)
    ∧ (Sys2Proof.Machine.Key.first key = s.node.rh.straps.node →
      (¬ (s.node.du.state.isSelf = false ∧ Sys2Proof.Machine.Key.second key = s.node.du.source
          ∧ ∃ p, s.node.du.probe = some p ∧ p.target = s.node.du.source) →
        Yields (.delayReplyReceived key payload ⟨stamp, marked⟩) s fun t =>
          t.du = { s.node.du with replyDiscarded := Counter.bump s.node.du.replyDiscarded })
      ∧ (∀ p, s.node.du.probe = some p → s.node.du.state.isSelf = false →
          Sys2Proof.Machine.Key.second key = s.node.du.source → p.target = s.node.du.source →
          (s.node.du.dValid = true → s.node.du.dEst ≤ 4095) →
          Yields (.delayReplyReceived key payload ⟨stamp, marked⟩) s fun t =>
            ∃ d : Int, d = (sdiff t2 p.t1 + sdiff (s.node.stampOf stamp) t3) / 2
              ∧ ((d < 0 ∨ 4095 < d) →
                  t.du = { s.node.du with probe := none, implausible := Counter.bump s.node.du.implausible })
              ∧ (0 ≤ d → d ≤ 4095 →
                  t.du = { s.node.du with probe := none, dValid := true, dEst := t.du.dEst }
                  ∧ (s.node.du.dValid = false → (t.du.dEst : Int) = d)
                  ∧ (s.node.du.dValid = true →
                      (t.du.dEst : Int) = s.node.du.dEst + (d - s.node.du.dEst).tdiv 4)
                  ∧ (c.prop * (c.pre + 1) < 2 * t.du.dEst → t.rh.isPending 8 = true))
              ∧ (t.du.dValid = true → t.du.dEst ≤ 4095)))

/-- The reference monitor. REFIN_PULSE: a valid pulse (the first of a train, or within floor(P/64) of the anchor plus
P) becomes the anchor and is counted, the fourth locks the monitor and brings a node without candidates to SELF_REF
with class 0; an invalid one is counted, the third sends the monitor to ABSENT. In SELF_REF with a history a valid
pulse measures the phase of the start nearest its E plus R_off, corrected as measured every frame. REFERENCE_SILENCE, 3
× P ticks after the anchor: the monitor is ABSENT and forgets its anchor and counts; leaving LOCKED raises
REFERENCE_LOST, and a node in SELF_REF without candidates holds or runs free. With any candidates: a class that differs
after a pulse or a loss starts a selection, and the pulse measures in the state that this brings. That the silence is
due at the tick at which 3 × P have passed is the model's reading (log entry 33). -/
def Obligations.ReferenceMonitor : Prop :=
  (∀ (s : State) (c : Settled), s.node.Works c →
     (s.node.du.mon = .absent → s.node.du.validRun = 0 → Yields .refinPulse s fun t =>
       t.du.mon = .checking ∧ t.du.anchor = some s.node.tb.e ∧ t.du.validRun = 1 ∧ t.du.invalidRun = 0)
     ∧ (∀ a, s.node.du.mon ≠ .absent → s.node.du.anchor = some a →
       ((sdiff s.node.tb.e (eAdd a c.period)).natAbs ≤ c.period / 64 → Yields .refinPulse s fun t =>
         t.du.mon = (if s.node.du.mon = .locked ∨ 4 ≤ s.node.du.validRun + 1 then .locked else .checking)
         ∧ t.du.anchor = some s.node.tb.e ∧ t.du.validRun = s.node.du.validRun + 1 ∧ t.du.invalidRun = 0)
       ∧ (c.period / 64 < (sdiff s.node.tb.e (eAdd a c.period)).natAbs → s.node.du.invalidRun + 1 < 3 →
           Yields .refinPulse s fun t =>
             t = { s.node with du := { s.node.du with
               invalidRun := s.node.du.invalidRun + 1, validRun := 0 } })
       ∧ (c.period / 64 < (sdiff s.node.tb.e (eAdd a c.period)).natAbs → 3 ≤ s.node.du.invalidRun + 1 →
           Yields .refinPulse s fun t =>
             t.du.mon = .absent ∧ t.du.anchor = none ∧ t.du.validRun = 0 ∧ t.du.invalidRun = 0
             ∧ (s.node.du.mon = .locked → t.rh.isPending 4 = true)))
     ∧ (∀ a, s.node.du.mon = .checking → s.node.du.validRun = 3 → s.node.du.anchor = some a →
         (sdiff s.node.tb.e (eAdd a c.period)).natAbs ≤ c.period / 64 → s.node.du.cands = [] → s.node.du.cls ≠ 0 →
         Yields .refinPulse s fun t =>
           t.du.mon = .locked ∧ t.du.state = .selfRef ∧ t.du.cls = 0 ∧ t.du.source = s.node.rh.straps.node))
  ∧ (∀ (s : State) (c : Settled) (a : Word32) (x : Word16 × Word32), s.node.Works c → s.node.du.mon = .locked →
       s.node.du.state = .selfRef → s.node.du.cls = 0 → s.node.du.anchor = some a →
       (sdiff s.node.tb.e (eAdd a c.period)).natAbs ≤ c.period / 64 → s.node.tb.history ≠ [] →
       s.node.tb.nearest (eAdd s.node.tb.e c.rOff) = some x →
       Yields .refinPulse s fun t =>
         t = Node.correct c 1 (sdiff x.2 (eAdd s.node.tb.e c.rOff)) { s.node with du := { s.node.du with
           anchor := some s.node.tb.e, validRun := s.node.du.validRun + 1, invalidRun := 0 } })
  ∧ (∀ (s : State) (c : Settled) (a : Word32), s.node.Works c → s.node.du.mon ≠ .absent → s.node.du.anchor = some a →
       (3 * c.period : Int) ≤ sdiff s.node.tb.e a →
       Yields .referenceSilence s fun t =>
         t.du.mon = .absent ∧ t.du.anchor = none ∧ t.du.validRun = 0 ∧ t.du.invalidRun = 0
         ∧ (s.node.du.mon = .locked → t.rh.isPending 4 = true)
         ∧ (s.node.du.mon = .locked → s.node.du.state = .selfRef → s.node.du.cls = 0 → s.node.du.cands = [] →
             t.du.state = (if c.h = 0 then .selfFree else .selfHold) ∧ t.du.cls = (if c.h = 0 then 2 else 1)
             ∧ (c.h ≠ 0 → t.du.credit = c.h)))
  ∧ (∀ (s : State) (c : Settled) (n1 n2 : Node), s.node.Works c →
       (s.node.du.mon = .absent ∨ ∃ a, s.node.du.mon ≠ .absent ∧ s.node.du.anchor = some a
         ∧ (sdiff s.node.tb.e (eAdd a c.period)).natAbs ≤ c.period / 64) →
       n1 = { s.node with du := { s.node.du with
         mon := if s.node.du.mon ≠ .absent ∧ (s.node.du.mon = .locked ∨ 4 ≤ s.node.du.validRun + 1) then .locked
           else .checking
         anchor := some s.node.tb.e, validRun := s.node.du.validRun + 1, invalidRun := 0 } } →
       n2 = (if n1.du.ownClass ≠ n1.du.cls then n1.select c else n1) →
       ((n2.du.state ≠ .selfRef ∨ n2.du.mon ≠ .locked ∨ n2.tb.history = []) → Yields .refinPulse s fun t => t = n2)
       ∧ (∀ x, n2.du.state = .selfRef → n2.du.mon = .locked → n2.tb.history ≠ [] →
           n2.tb.nearest (eAdd n2.tb.e c.rOff) = some x →
           Yields .refinPulse s fun t => t = n2.correct c 1 (sdiff x.2 (eAdd n2.tb.e c.rOff))))
  ∧ (∀ (s : State) (c : Settled) (a : Word32) (n n1 n2 : Node), s.node.Works c → s.node.du.mon ≠ .absent →
       s.node.du.anchor = some a →
       n = { s.node with du := { s.node.du with mon := .absent, anchor := none, validRun := 0, invalidRun := 0 } } →
       n1 = (if s.node.du.mon = .locked then n.raise .referenceLost else n) →
       n2 = (if n1.du.ownClass ≠ n1.du.cls then n1.select c else n1) →
       ((3 * c.period : Int) ≤ sdiff s.node.tb.e a → Yields .referenceSilence s fun t => t = n2)
       ∧ (c.period / 64 < (sdiff s.node.tb.e (eAdd a c.period)).natAbs → 3 ≤ s.node.du.invalidRun + 1 →
         Yields .refinPulse s fun t => t = n2))

/-! ## Strobes -/

/-- STROBE_FIRE at a tick not yet matched, at which no frame start is due, in a line within its length: the entries of
the active schedule that match the position fire in index order, each pin set, cleared or inverted against the level
the earlier entries left; nothing else of the node changes but that the levels before are kept, with which this tick
counts as matched: the model's choice (log entry 6). -/
def Obligations.StrobeFire : Prop :=
  (∀ (e : StrobeEntry) (pins : BitVec 6) (b : Nat), b < 6 →
    (e.fire pins).getLsbD b =
      (if e.setMask.getLsbD b && e.clearMask.getLsbD b then !pins.getLsbD b
        else if e.setMask.getLsbD b then true
        else if e.clearMask.getLsbD b then false
        else pins.getLsbD b))
  ∧ ∀ (s : State) (c : Settled), s.node.Works c → s.node.tb.gen ≠ none → s.node.sg.prior = none →
      s.node.tb.frameDue = false →
      (s.node.tb.line + 1 ≠ c.lTot ∨ s.node.tb.tick < c.lineLength s.node.tb.line s.node.tb.trim) →
      Yields .strobeFire s fun t =>
        t.sg.pins = (s.node.sg.active.filter fun e =>
          decide ((e.line = none ∨ e.line = some s.node.tb.line) ∧ e.tick = s.node.tb.tick)).foldl
            (fun pins e => e.fire pins) s.node.sg.pins
        ∧ t = { s.node with sg := { s.node.sg with pins := t.sg.pins, prior := some s.node.sg.pins } }

/-! ## Segment store -/

/-- A grant: the lowest-numbered FREE buffer, FILLING with the requester as owner and no bytes; refused with no FREE
buffer, and to a lane at 4 FREE buffers or fewer for any key but the head line's; each counted, and no other buffer
changed. -/
def Obligations.StoreGrants : Prop :=
  ∀ (ss : Ss) (e : EngineState) (r : Requester),
    (ss.freeCount = 0 →
      ss.grant e r = ({ ss with refusedEmpty := Counter.bump ss.refusedEmpty }, none))
    ∧ (∀ p f l, 1 ≤ ss.freeCount → ss.freeCount ≤ 4 → r = .lane p f l → e.isHeadLine f l = false →
      ss.grant e r = ({ ss with refusedReserve := Counter.bump ss.refusedReserve }, none))
    ∧ (1 ≤ ss.freeCount → (5 ≤ ss.freeCount ∨ r = .lu ∨ ∃ p f l, r = .lane p f l ∧ e.isHeadLine f l = true) →
      ∃ b, b < ss.bufs.length ∧ (ss.buf b).state = .free ∧ (∀ k, k < b → (ss.buf k).state ≠ .free)
        ∧ ss.grant e r = ({ ss with
            bufs := ss.bufs.set b ⟨.filling r.owner, []⟩, grants := Counter.bump ss.grants
            lowWater := min ss.lowWater (ss.freeCount - 1) }, some b))

/-! ## Launching a plane -/

/-- FRAME_BEGIN and LINE_BEGIN on a head node: the latch, the line count, the line in progress given up with its buffer
FREE again, the new line's number and buffer, the drops and their counters; only LU, the store and the notices change.
-/
def Obligations.LinesBegin : Prop :=
  ∀ (s : State) (c : Settled), s.node.WorksHead c →
    (Yields .frameBegin s fun t =>
      t.lu.latch = some (s.node.tb.frameNo.setWidth 8, s.node.tb.tc) ∧ t.lu.lineCount = 0 ∧ t.lu.line = .outside
      ∧ (∀ b, s.node.lu.line = .filling b → t.ss = s.node.ss.release b
          ∧ t.lu.brokenLine = Counter.bump s.node.lu.brokenLine ∧ t.rh.isPending 11 = true)
      ∧ ((∀ b, s.node.lu.line ≠ .filling b) → t.ss = s.node.ss ∧ t.lu.brokenLine = s.node.lu.brokenLine
          ∧ t.rh = s.node.rh)
      ∧ t.lu.queue = s.node.lu.queue
      ∧ t = { s.node with lu := t.lu, ss := t.ss, rh := { s.node.rh with notices := t.rh.notices } })
    ∧ (s.node.lu.latch = none → Yields .lineBegin s fun t =>
      t.lu = { s.node.lu with line := .discarding, noFrame := Counter.bump s.node.lu.noFrame }
      ∧ t.rh.isPending 11 = true
      ∧ t = { s.node with lu := t.lu, rh := { s.node.rh with notices := t.rh.notices } })
    ∧ (s.node.lu.latch ≠ none → (∀ b, s.node.lu.line ≠ .filling b) →
      (1 ≤ s.node.ss.freeCount → Yields .lineBegin s fun t =>
        t.lu.lineNo = s.node.lu.lineCount ∧ t.lu.lineCount = min 65535 (s.node.lu.lineCount + 1)
        ∧ (∃ b, t.lu.line = .filling b ∧ (s.node.ss.buf b).state = .free ∧ t.ss.buf b = ⟨.filling .lu, []⟩)
        ∧ (∀ j, t.lu.line ≠ .filling j → t.ss.buf j = s.node.ss.buf j)
        ∧ t.ss.grants = Counter.bump s.node.ss.grants
        ∧ t = { s.node with
          lu := { s.node.lu with lineNo := t.lu.lineNo, lineCount := t.lu.lineCount, line := t.lu.line }, ss := t.ss })
      ∧ (s.node.ss.freeCount = 0 → Yields .lineBegin s fun t =>
        t.lu = { s.node.lu with
          lineNo := s.node.lu.lineCount, lineCount := min 65535 (s.node.lu.lineCount + 1), line := .discarding
          launchOverflow := Counter.bump s.node.lu.launchOverflow }
        ∧ t.rh.isPending 11 = true
        ∧ t = { s.node with
          lu := t.lu, ss := { s.node.ss with refusedEmpty := Counter.bump s.node.ss.refusedEmpty }
          rh := { s.node.rh with notices := t.rh.notices } }))
    ∧ (∀ b, s.node.lu.latch ≠ none → s.node.lu.line = .filling b → b < s.node.ss.bufs.length →
        Yields .lineBegin s fun t => ∃ k,
          t.lu = { s.node.lu with
            brokenLine := Counter.bump s.node.lu.brokenLine, lineNo := s.node.lu.lineCount
            lineCount := min 65535 (s.node.lu.lineCount + 1), line := .filling k }
          ∧ (s.node.ss.release b).grant s.node.se.state .lu = (t.ss, some k)
          ∧ t.ss.buf k = ⟨.filling .lu, []⟩ ∧ (b ≠ k → t.ss.buf b = Buf.free)
          ∧ (∀ j, j ≠ k → j ≠ b → t.ss.buf j = s.node.ss.buf j) ∧ t.rh.isPending 11 = true
          ∧ t = { s.node with lu := t.lu, ss := t.ss, rh := { s.node.rh with notices := t.rh.notices } })

/-- What a word of the plane port is, by its PCTL code. PAYLOAD_WORD: PD's most significant bytes, as many as the code
says, written after those of the filling buffer; the 6,145th byte drops the line; outside a line the word is counted,
in a discard it is ignored. The bytes are written into a buffer of the store: that LU's line names one in every state
that a run reaches, StepKeepsStore says. -/
def Obligations.PayloadWord : Prop :=
  (∀ pd : Word32,
     portCommand 1 pd = some .frameBegin ∧ portCommand 2 pd = some .lineBegin ∧ portCommand 3 pd = some .lineEnd
     ∧ (∀ k : BitVec 4, 4 ≤ k.toNat → k.toNat ≤ 7 → portCommand k pd = some (.payloadWord k pd))
     ∧ ∀ k : BitVec 4, (k = 0 ∨ 7 < k.toNat) → portCommand k pd = none)
  ∧ (∀ (s : State) (c : Settled) (pctl : BitVec 4) (pd : Word32), s.node.WorksHead c →
       4 ≤ pctl.toNat → pctl.toNat ≤ 7 →
       (s.node.lu.line = .outside → Yields (.payloadWord pctl pd) s fun t =>
         t = { s.node with lu := { s.node.lu with unframed := Counter.bump s.node.lu.unframed } })
       ∧ (s.node.lu.line = .discarding → Yields (.payloadWord pctl pd) s fun t => t = s.node)
       ∧ (∀ b, s.node.lu.line = .filling b →
         (b < s.node.ss.bufs.length → (s.node.ss.buf b).bytes.length + (pctl.toNat - 3) ≤ 6144 →
           Yields (.payloadWord pctl pd) s fun t =>
           t.ss.buf b = ⟨(s.node.ss.buf b).state, (s.node.ss.buf b).bytes ++ (u32 pd.toNat).take (pctl.toNat - 3)⟩
           ∧ (∀ k, k ≠ b → t.ss.buf k = s.node.ss.buf k)
           ∧ t = { s.node with ss := { s.node.ss with bufs := t.ss.bufs } })
         ∧ (6144 < (s.node.ss.buf b).bytes.length + (pctl.toNat - 3) → Yields (.payloadWord pctl pd) s fun t =>
           t.ss.buf b = Buf.free ∧ (∀ k, k ≠ b → t.ss.buf k = s.node.ss.buf k)
           ∧ t.lu = { s.node.lu with line := .discarding, overlongLine := Counter.bump s.node.lu.overlongLine }
           ∧ t.rh.isPending 11 = true
           ∧ t = { s.node with
             lu := t.lu, ss := { s.node.ss with bufs := t.ss.bufs }
             rh := { s.node.rh with notices := t.rh.notices } })))

/-- LINE_END: the four tests in their order; a line that passes them joins the launch queue with the plane, the latched
frame, its number, its length and, on line 0, the latched timecode, and its buffer is QUEUED. -/
def Obligations.LineEnd : Prop :=
  ∀ (s : State) (c : Settled), s.node.WorksHead c →
    (s.node.lu.line = .outside → Yields .lineEnd s fun t =>
      t = { s.node with lu := { s.node.lu with unframed := Counter.bump s.node.lu.unframed } })
    ∧ (s.node.lu.line = .discarding → Yields .lineEnd s fun t =>
      t = { s.node with lu := { s.node.lu with line := .outside } })
    ∧ (∀ b, s.node.lu.line = .filling b →
      (c.aLines ≤ s.node.lu.lineNo → Yields .lineEnd s fun t =>
        t.lu = { s.node.lu with line := .outside, excessLine := Counter.bump s.node.lu.excessLine }
        ∧ t.ss = s.node.ss.release b ∧ t.rh.isPending 11 = true)
      ∧ (s.node.lu.lineNo < c.aLines → (s.node.ss.buf b).bytes = [] → Yields .lineEnd s fun t =>
        t.lu = { s.node.lu with line := .outside, emptyLine := Counter.bump s.node.lu.emptyLine }
        ∧ t.ss = s.node.ss.release b ∧ t.rh.isPending 11 = true)
      ∧ (s.node.lu.lineNo < c.aLines → (s.node.ss.buf b).bytes ≠ [] → 8 ≤ s.node.lu.queue.length →
        Yields .lineEnd s fun t =>
          t.lu = { s.node.lu with line := .outside, launchOverflow := Counter.bump s.node.lu.launchOverflow }
          ∧ t.ss = s.node.ss.release b ∧ t.rh.isPending 11 = true)
      ∧ (∀ frame tc, s.node.lu.lineNo < c.aLines → (s.node.ss.buf b).bytes ≠ [] → s.node.lu.queue.length < 8 →
          s.node.lu.latch = some (frame, tc) → Yields .lineEnd s fun t =>
            t.lu.queue = s.node.lu.queue ++
              [⟨s.node.rh.straps.plane, frame, s.node.lu.lineNo, (s.node.ss.buf b).bytes.length,
                if s.node.lu.lineNo = 0 then some tc else none, b⟩]
            ∧ t.ss.buf b = ⟨.queued, (s.node.ss.buf b).bytes⟩ ∧ (∀ k, k ≠ b → t.ss.buf k = s.node.ss.buf k)
            ∧ t.lu.line = .outside ∧ t.lu.carrier = .sending ∧ t.lu.latch = s.node.lu.latch
            ∧ t = { s.node with lu := t.lu, ss := { s.node.ss with bufs := t.ss.bufs } }))

/-- SEGMENT_LAUNCHED, once the oldest queued segment has had its time, 9/125 of a tick for each of its bytes: it has
gone out between its delimiters as header, payload and check; its buffer is FREE, it is counted, and the carrier sends
the next, which begins at the exact end of this one, or falls back to idle fill. The uplink output of the node's own
plane shows idle fill, or the start delimiter and the bytes sent so far; those of the other planes, and its own while
the carrier is OFF, are undriven. What the symbols show is the model's own view of the uplink (log entries 29 and 31).
-/
def Obligations.SegmentLaunched : Prop :=
  (∀ (s : State) (c : Settled) (g : Segment) (rest : List Segment), s.node.WorksHead c → s.node.lu.queue = g :: rest →
    s.node.lu.beganPart + (20 + g.length) * 9 ≤ (sdiff s.node.tb.e s.node.lu.began).toNat * 125 →
    Yields .segmentLaunched s fun t =>
      t.lu = { s.node.lu with
        queue := rest, linesLaunched := Counter.bump s.node.lu.linesLaunched
        carrier := if rest = [] then .idleFill else .sending
        began := s.node.lu.began + BitVec.ofNat 32 ((s.node.lu.beganPart + (20 + g.length) * 9) / 125)
        beganPart := (s.node.lu.beganPart + (20 + g.length) * 9) % 125
        uplink := .startDelimiter :: (g.header.bytes ++ (s.node.ss.buf g.buf).bytes
            ++ crc32Bytes (g.header.bytes ++ (s.node.ss.buf g.buf).bytes)).map .byte ++ [.endDelimiter] }
      ∧ t.ss.buf g.buf = Buf.free ∧ (∀ k, k ≠ g.buf → t.ss.buf k = s.node.ss.buf k)
      ∧ t = { s.node with lu := t.lu, ss := { s.node.ss with bufs := t.ss.bufs } })
  ∧ ∀ (n : Node) (p : Fin 4),
    ((p.val ≠ n.rh.straps.plane.toNat ∨ n.lu.carrier = .off) → n.uplinkOutput p = none)
    ∧ (p.val = n.rh.straps.plane.toNat → n.lu.carrier ≠ .off →
      (n.lu.queue = [] → n.uplinkOutput p = some [.idleFill])
      ∧ (∀ g rest, n.lu.queue = g :: rest → n.uplinkOutput p = some (.startDelimiter ::
          ((g.header.bytes ++ (n.ss.buf g.buf).bytes ++ crc32Bytes (g.header.bytes ++ (n.ss.buf g.buf).bytes)).take
            (((sdiff n.tb.e n.lu.began).toNat * 125 - n.lu.beganPart) / 9)).map .byte)))

/-! ## Receive lanes -/

/-- CARRIER_LOSS, and SILENCE_TIMEOUT past the deadline: a LOCKED lane goes to DARK with its segment abandoned, its
buffer FREE and no other buffer but a referenced one changed, LANE_CHANGE raised, the loss counted under its cause and
its plane out of the locked set; a LOCKING lane goes to DARK at the loss of its carrier and only forgets its good run
at silence. No other lane changes. What the engine does of a lost plane: in FLUSHING and RUN the plane leaves J; in RUN
every record is evaluated anew and what may go out goes out, but with J empty the engine flushes, the contributions
discarded and counted, with RESYNC_EMPTY and STITCH_RESYNC. That the level of CP stands in State, and that the flush
comes before any release, are the model's choices (log entries 4 and 44). -/
def Obligations.LaneLosses : Prop :=
  (∀ (n : Node) (c : Settled) (p : Fin 4),
    (n.se.state = .idle → n.planeLost c p = { n with se := { n.se with
      lockedSet := PlaneSet.remove n.se.lockedSet p } })
    ∧ (∀ f, n.se.state = .flushing f → n.planeLost c p = { n with se := { n.se with
      lockedSet := PlaneSet.remove n.se.lockedSet p, state := .flushing { f with j := PlaneSet.remove f.j p } } })
    ∧ (∀ f, n.se.state = .run f → PlaneSet.remove f.j p ≠ 0 → n.planeLost c p = Node.runEngine c { n with
      se := { n.se with
        lockedSet := PlaneSet.remove n.se.lockedSet p, state := .run { f with j := PlaneSet.remove f.j p }
        table := n.se.table.map (Record.evaluate (PlaneSet.remove f.j p) n.tb.e) } })
    ∧ (∀ f, n.se.state = .run f → PlaneSet.remove f.j p = 0 → ∃ m k, n.planeLost c p = Node.runEngine c m
      ∧ k = (n.se.table.map fun r => contribCount r.contribs).sum
      ∧ m = { n with
        se := { n.se with
          lockedSet := PlaneSet.remove n.se.lockedSet p, state := .flushing { f with j := 0 }, table := []
          strayRun := 0, resyncEmpty := Counter.bump n.se.resyncEmpty
          contribDiscarded := Counter.bumps k n.se.contribDiscarded }
        rh := { n.rh with notices := m.rh.notices } }
      ∧ m.rh.isPending 10 = true ∧ (0 < k → m.rh.isPending 11 = true)))
  ∧ ∀ (s : State) (c : Settled) (p : Fin 4), s.node.WorksBase c →
    ((s.node.lane p).state = .dark → Yields (.carrierLoss p) s fun t => t = s.node.seeCarrier p false)
    ∧ ((s.node.lane p).state = .locking → Yields (.carrierLoss p) s fun t =>
      t.lane p = { s.node.lane p with state := .dark, goodRun := 0, badRun := 0, seg := .none, deadline := none }
      ∧ (∀ b, (s.node.lane p).seg.buffer = some b → t.ss = s.node.ss.release b)
      ∧ ((s.node.lane p).seg.buffer = none → t.ss = s.node.ss)
      ∧ (∀ q, q ≠ p → t.lane q = s.node.lane q) ∧ t.pins.cp.get p = false
      ∧ t = { s.node with rl := t.rl, ss := t.ss, pins := t.pins })
    ∧ ((s.node.lane p).state = .locked → Yields (.carrierLoss p) s fun t =>
      t.lane p = { s.node.lane p with
        state := .dark, goodRun := 0, badRun := 0, seg := .none, deadline := none
        lossCarrier := Counter.bump (s.node.lane p).lossCarrier }
      ∧ (∀ q, q ≠ p → t.lane q = s.node.lane q) ∧ t.pins.cp.get p = false
      ∧ t.rh.isPending 9 = true ∧ t.se.lockedSet = PlaneSet.remove s.node.se.lockedSet p
      ∧ (s.node.se.state = .idle → t.se = { s.node.se with lockedSet := t.se.lockedSet } ∧ t.ou = s.node.ou)
      ∧ (∀ b, (s.node.lane p).seg.buffer = some b → t.ss.buf b = Buf.free)
      ∧ (∀ b, (s.node.lane p).seg.buffer ≠ some b → (∀ k, (s.node.ss.buf b).state ≠ .referenced k) →
          t.ss.buf b = s.node.ss.buf b)
      ∧ (∃ m : Node, t = (m.planeLost c p).settleRefs
        ∧ (∀ b, (s.node.lane p).seg.buffer = some b → m.ss = s.node.ss.release b)
        ∧ ((s.node.lane p).seg.buffer = none → m.ss = s.node.ss)
        ∧ m = { s.node with
          rl := t.rl, ss := m.ss, pins := t.pins, rh := { s.node.rh with notices := m.rh.notices } })
      ∧ t = { s.node with
        rl := t.rl, ss := t.ss, se := t.se, ou := t.ou, pins := t.pins
        rh := { s.node.rh with notices := t.rh.notices } })
    ∧ ((s.node.lane p).isSilent s.node.tb.e = true → (s.node.lane p).state = .locking →
      Yields (.silenceTimeout p) s fun t =>
        t.lane p = { s.node.lane p with goodRun := 0, deadline := none }
        ∧ (∀ q, q ≠ p → t.lane q = s.node.lane q) ∧ t = { s.node with rl := t.rl })
    ∧ ((s.node.lane p).isSilent s.node.tb.e = true → (s.node.lane p).state = .locked →
      Yields (.silenceTimeout p) s fun t =>
        t.lane p = { s.node.lane p with
          state := .dark, goodRun := 0, badRun := 0, seg := .none, deadline := none
          lossSilence := Counter.bump (s.node.lane p).lossSilence }
        ∧ (∀ q, q ≠ p → t.lane q = s.node.lane q) ∧ t.pins = s.node.pins
        ∧ t.rh.isPending 9 = true ∧ t.se.lockedSet = PlaneSet.remove s.node.se.lockedSet p
        ∧ (s.node.se.state = .idle → t.se = { s.node.se with lockedSet := t.se.lockedSet } ∧ t.ou = s.node.ou)
        ∧ (∀ b, (s.node.lane p).seg.buffer = some b → t.ss.buf b = Buf.free)
        ∧ (∀ b, (s.node.lane p).seg.buffer ≠ some b → (∀ k, (s.node.ss.buf b).state ≠ .referenced k) →
            t.ss.buf b = s.node.ss.buf b)
        ∧ (∃ m : Node, t = (m.planeLost c p).settleRefs
          ∧ (∀ b, (s.node.lane p).seg.buffer = some b → m.ss = s.node.ss.release b)
          ∧ ((s.node.lane p).seg.buffer = none → m.ss = s.node.ss)
          ∧ m = { s.node with
            rl := t.rl, ss := m.ss, pins := t.pins, rh := { s.node.rh with notices := m.rh.notices } })
        ∧ t = { s.node with
          rl := t.rl, ss := t.ss, se := t.se, ou := t.ou, rh := { s.node.rh with notices := t.rh.notices } })

/-- START_DELIMITER with CP asserted opens a segment, a DARK lane listening from then on, and ends one in progress as
truncated: a bad segment, with its buffer FREE, the fourth in a row in LOCKED losing the lane, which then listens anew
(what the engine does of that: LaneLosses).
With CP deasserted it is the loss of the carrier. SEGMENT_HEADER settles how the segment is received: for its check
only, or into a granted buffer, or without one where none is FREE or, at 4 FREE buffers or fewer, the key is not the
head line's. That a start delimiter brings the level of CP is the model's choice (log entry 4). -/
def Obligations.SegmentStarts : Prop :=
  ∀ (s : State) (c : Settled) (p : Fin 4), s.node.WorksBase c →
    exec (.startDelimiter p false) s = exec (.carrierLoss p) s
    ∧ ((s.node.lane p).seg = .none → Yields (.startDelimiter p true) s fun t =>
      t.lane p = (if (s.node.lane p).state = .dark
        then { s.node.lane p with state := .locking, goodRun := 0, seg := .started }
        else { s.node.lane p with seg := .started })
      ∧ (∀ q, q ≠ p → t.lane q = s.node.lane q) ∧ t.pins.cp.get p = true
      ∧ t = { s.node with rl := t.rl, pins := t.pins })
    ∧ ((s.node.lane p).seg ≠ .none → (s.node.lane p).state ≠ .dark →
      ((s.node.lane p).state = .locking ∨ (s.node.lane p).badRun < 3) → Yields (.startDelimiter p true) s fun t =>
        t.lane p = (if (s.node.lane p).state = .locking
          then { s.node.lane p with
            seg := .started, goodRun := 0, checkFail := Counter.bump (s.node.lane p).checkFail }
          else { s.node.lane p with
            seg := .started, badRun := (s.node.lane p).badRun + 1
            checkFail := Counter.bump (s.node.lane p).checkFail })
        ∧ (∀ q, q ≠ p → t.lane q = s.node.lane q) ∧ t.pins.cp.get p = true ∧ t.rh.isPending 11 = true
        ∧ (∀ b, (s.node.lane p).seg.buffer = some b → t.ss = s.node.ss.release b)
        ∧ ((s.node.lane p).seg.buffer = none → t.ss = s.node.ss)
        ∧ t = { s.node with
          rl := t.rl, ss := t.ss, pins := t.pins, rh := { s.node.rh with notices := t.rh.notices } })
    ∧ ((s.node.lane p).seg ≠ .none → (s.node.lane p).state = .locked → 3 ≤ (s.node.lane p).badRun →
      Yields (.startDelimiter p true) s fun t =>
        t.lane p = { s.node.lane p with
          state := .locking, goodRun := 0, badRun := 0, seg := .started, deadline := none
          checkFail := Counter.bump (s.node.lane p).checkFail, lossBad := Counter.bump (s.node.lane p).lossBad }
        ∧ (∀ q, q ≠ p → t.lane q = s.node.lane q) ∧ t.rh.isPending 9 = true ∧ t.rh.isPending 11 = true
        ∧ t.se.lockedSet = PlaneSet.remove s.node.se.lockedSet p
        ∧ (∀ b, (s.node.lane p).seg.buffer = some b → t.ss.buf b = Buf.free)
        ∧ (∃ m : Node, t = { (m.planeLost c p).settleRefs with rl := t.rl }
          ∧ (∀ b, (s.node.lane p).seg.buffer = some b → m.ss = s.node.ss.release b)
          ∧ ((s.node.lane p).seg.buffer = none → m.ss = s.node.ss)
          ∧ m = { s.node with
            rl := m.rl, ss := m.ss, pins := { s.node.pins with cp := s.node.pins.cp.set p true }
            rh := { s.node.rh with notices := m.rh.notices } }))
    ∧ (∀ (bytes : List Byte) (h : SegHeader), h = SegHeader.ofBytes bytes → bytes.length = 16 →
        (s.node.lane p).seg = .started →
      ((headerGood c p h = false ∨ (s.node.lane p).asks = false ∨ s.node.judge p h.frame h.line ≠ .accept) →
        Yields (.segmentHeader p bytes) s fun t =>
          t.lane p = { s.node.lane p with seg := .body bytes h .checkOnly }
          ∧ (∀ q, q ≠ p → t.lane q = s.node.lane q) ∧ t = { s.node with rl := t.rl })
      ∧ (headerGood c p h = true → (s.node.lane p).asks = true → s.node.judge p h.frame h.line = .accept →
        ((5 ≤ s.node.ss.freeCount ∨ 1 ≤ s.node.ss.freeCount ∧ s.node.se.state.isHeadLine h.frame h.line = true) →
          Yields (.segmentHeader p bytes) s fun t =>
            (∃ b, t.lane p = { s.node.lane p with seg := .body bytes h (.filling b) }
              ∧ (s.node.ss.buf b).state = .free ∧ t.ss.buf b = ⟨.filling (.lane p), []⟩
              ∧ ∀ k, k ≠ b → t.ss.buf k = s.node.ss.buf k)
            ∧ (∀ q, q ≠ p → t.lane q = s.node.lane q) ∧ t = { s.node with rl := t.rl, ss := t.ss })
        ∧ ((s.node.ss.freeCount = 0 ∨ s.node.ss.freeCount ≤ 4 ∧ s.node.se.state.isHeadLine h.frame h.line = false) →
          Yields (.segmentHeader p bytes) s fun t =>
            t.lane p = { s.node.lane p with
              seg := .body bytes h .refused, noBuffer := Counter.bump (s.node.lane p).noBuffer }
            ∧ t.ss = (if s.node.ss.freeCount = 0
                then { s.node.ss with refusedEmpty := Counter.bump s.node.ss.refusedEmpty }
                else { s.node.ss with refusedReserve := Counter.bump s.node.ss.refusedReserve })
            ∧ t.rh.isPending 11 = true ∧ (∀ q, q ≠ p → t.lane q = s.node.lane q)
            ∧ t = { s.node with
              rl := t.rl, ss := t.ss, rh := { s.node.rh with notices := t.rh.notices } })))

/-- SEGMENT_END. A good segment was ended by its delimiter without a violation, with the lane's own plane, a line below
A_lines, a length of 1 to 6,144 that is the number of bytes before the check, a timecode on line 0 alone, and a check
that is the CRC of header and payload. A bad segment is counted CHECK_FAIL, as is one that ended before its header was
read, or MALFORMED, its buffer is FREE, and the lane's run follows its state, the fourth in LOCKED losing the lane
(LaneLosses says what the engine does of that). A good one is counted and restarts the silence timer; the first in
LOCKING is only counted in the good run and its buffer given back, the second locks the lane and tells the engine, and
one in LOCKED clears the bad run. The payload of one in LOCKED, and of the one that locks the lane, is then delivered
with its buffer, which goes back FREE unless the engine accepts it, or it is presented without payload; the answer is
counted (the Delivery statements say what the engine does). Which bytes are an overlong or a too short segment's check
is open (log entries 12 and 13). -/
def Obligations.SegmentEnds : Prop :=
  (∀ (c : Settled) (p : Fin 4) (how : SegEnd) (v : Bool) (bytes rest : List Byte) (h : SegHeader),
    (headerGood c p h = true ↔ h.plane.toNat = p.val ∧ h.line < c.aLines ∧ 1 ≤ h.length ∧ h.length ≤ 6144
      ∧ (h.timecode.isSome = true ↔ h.line = 0))
    ∧ (segmentGood c p how v bytes h rest = true ↔ headerGood c p h = true ∧ how = .delimiter ∧ v = false
      ∧ rest.length = h.length + 4 ∧ crc32Bytes (bytes ++ rest.take h.length) = rest.drop h.length)
    ∧ ((v = true ∨ how = .truncation) → segmentCheck how v bytes rest = false)
    ∧ (how = .delimiter → rest.length ≤ 6148 → (segmentCheck how v bytes rest = true ↔ v = false ∧ 4 ≤ rest.length
      ∧ crc32Bytes (bytes ++ rest.take (rest.length - 4)) = rest.drop (rest.length - 4))))
  ∧ ∀ (s : State) (c : Settled) (p : Fin 4) (how : SegEnd) (v : Bool) (rest : List Byte), s.node.WorksBase c →
    ((s.node.lane p).seg = .started → Yields (.segmentEnd p how v rest) s fun t =>
      (t.lane p).seg = .none ∧ (t.lane p).checkFail = Counter.bump (s.node.lane p).checkFail
      ∧ (t.lane p).malformed = (s.node.lane p).malformed ∧ (t.lane p).good = (s.node.lane p).good
      ∧ t.rh.isPending 11 = true
      ∧ ((s.node.lane p).state = .locking → (t.lane p).state = .locking ∧ (t.lane p).goodRun = 0)
      ∧ ((s.node.lane p).state = .locked → (s.node.lane p).badRun < 3 →
          (t.lane p).state = .locked ∧ (t.lane p).badRun = (s.node.lane p).badRun + 1)
      ∧ ((s.node.lane p).state = .locked → 3 ≤ (s.node.lane p).badRun → (t.lane p).state = .dark
          ∧ (t.lane p).lossBad = Counter.bump (s.node.lane p).lossBad))
    ∧ ∀ (bytes : List Byte) (h : SegHeader) (disp : Disposition), (s.node.lane p).seg = .body bytes h disp →
      (segmentGood c p how v bytes h rest = false →
        ((s.node.lane p).state = .locking → Yields (.segmentEnd p how v rest) s fun t =>
          (t.lane p).seg = .none ∧ (t.lane p).state = .locking ∧ (t.lane p).goodRun = 0
          ∧ (t.lane p).deadline = (s.node.lane p).deadline)
        ∧ ((s.node.lane p).state = .locked → (s.node.lane p).badRun < 3 → Yields (.segmentEnd p how v rest) s fun t =>
          (t.lane p).seg = .none ∧ (t.lane p).state = .locked ∧ (t.lane p).badRun = (s.node.lane p).badRun + 1
          ∧ (t.lane p).deadline = (s.node.lane p).deadline ∧ t.se = s.node.se)
        ∧ ((s.node.lane p).state = .locked → (s.node.lane p).badRun = 3 → Yields (.segmentEnd p how v rest) s fun t =>
          (t.lane p).seg = .none ∧ (t.lane p).state = .dark
          ∧ (t.lane p).lossBad = Counter.bump (s.node.lane p).lossBad ∧ t.rh.isPending 9 = true
          ∧ t.se.lockedSet = PlaneSet.remove s.node.se.lockedSet p
          ∧ ∃ m : Node, t = (m.planeLost c p).settleRefs
            ∧ (∀ b, disp = .filling b → m.ss = s.node.ss.release b)
            ∧ ((∀ b, disp ≠ .filling b) → m.ss = s.node.ss)
            ∧ m = { s.node with rl := t.rl, ss := m.ss, rh := { s.node.rh with notices := m.rh.notices } })
        ∧ Yields (.segmentEnd p how v rest) s fun t =>
          t.rh.isPending 11 = true ∧ (t.lane p).good = (s.node.lane p).good
          ∧ (∀ q, q ≠ p → t.lane q = s.node.lane q)
          ∧ (∀ b, disp = .filling b → t.ss.buf b = Buf.free)
          ∧ (∀ b, disp ≠ .filling b → (∀ k, (s.node.ss.buf b).state ≠ .referenced k) →
              t.ss.buf b = s.node.ss.buf b)
          ∧ (segmentCheck how v bytes rest = false →
            (t.lane p).checkFail = Counter.bump (s.node.lane p).checkFail
            ∧ (t.lane p).malformed = (s.node.lane p).malformed)
          ∧ (segmentCheck how v bytes rest = true →
            (t.lane p).malformed = Counter.bump (s.node.lane p).malformed
            ∧ (t.lane p).checkFail = (s.node.lane p).checkFail))
      ∧ (segmentGood c p how v bytes h rest = true → (s.node.lane p).state ≠ .dark →
        (Yields (.segmentEnd p how v rest) s fun t =>
          (t.lane p).good = Counter.bump (s.node.lane p).good ∧ (t.lane p).seg = .none
          ∧ (∀ q, q ≠ p → t.lane q = s.node.lane q)
          ∧ (t.lane p).deadline = some (eAdd s.node.tb.e
              (if h.line + 4 < c.aLines then (4 * c.tpl : Nat) else ((c.lTot - c.aLines + 4) * c.tpl : Nat))))
        ∧ ((s.node.lane p).state = .locking → (s.node.lane p).goodRun = 0 → Yields (.segmentEnd p how v rest) s fun t =>
          (t.lane p).state = .locking ∧ (t.lane p).goodRun = 1
          ∧ (∀ b, disp = .filling b → t.ss = s.node.ss.release b)
          ∧ ((∀ b, disp ≠ .filling b) → t.ss = s.node.ss)
          ∧ t = { s.node with rl := t.rl, ss := t.ss })
        ∧ ((s.node.lane p).state = .locking → (s.node.lane p).goodRun ≠ 0 → Yields (.segmentEnd p how v rest) s fun t =>
          (t.lane p).state = .locked ∧ (t.lane p).goodRun = 0 ∧ (t.lane p).badRun = 0 ∧ t.rh.isPending 9 = true
          ∧ t.se.lockedSet = PlaneSet.add s.node.se.lockedSet p)
        ∧ (∀ n : Node,
            ((s.node.lane p).state = .locked ∧ n = { s.node with rl := s.node.rl.set p { s.node.lane p with
                seg := .none, badRun := 0, good := Counter.bump (s.node.lane p).good
                deadline := some (eAdd s.node.tb.e (c.silenceLimit h.line)) } }
              ∨ (s.node.lane p).state = .locking ∧ (s.node.lane p).goodRun ≠ 0 ∧ n = Node.raise { s.node with
                rl := s.node.rl.set p { s.node.lane p with
                  state := .locked, seg := .none, goodRun := 0, badRun := 0
                  good := Counter.bump (s.node.lane p).good
                  deadline := some (eAdd s.node.tb.e (c.silenceLimit h.line)) }
                se := { s.node.se with lockedSet := PlaneSet.add s.node.se.lockedSet p } } .laneChange) →
          (∀ b m, disp = .filling b → m = Node.deliver c ⟨p, h.frame, h.line, h.length, h.timecode, b, s.node.tb.e⟩
              { n with ss := n.ss.write b (rest.take (rest.length - 4)) } →
            (m.2 = .accept → Yields (.segmentEnd p how v rest) s fun t => t = m.1.settleRefs)
            ∧ (m.2 ≠ .accept → Yields (.segmentEnd p how v rest) s fun t =>
              t = (Node.countLane p m.2.count { m.1 with ss := m.1.ss.release b }).settleRefs))
          ∧ (disp = .refused → Yields (.segmentEnd p how v rest) s fun t =>
              t = (n.present c p h.frame h.line).1.settleRefs)
          ∧ (disp = .checkOnly → Yields (.segmentEnd p how v rest) s fun t =>
              t = (Node.countLane p (n.present c p h.frame h.line).2.count
                (n.present c p h.frame h.line).1).settleRefs)))

/-! ## Stitch engine -/

/-- The engine's classification of a segment by plane, frame and line, in the order of its tests: the answers of IDLE,
RUN and FLUSHING. -/
def Obligations.Classification : Prop :=
  ∀ (n : Node) (p : Fin 4) (frame : BitVec 8) (line : Nat),
    (n.se.state = .idle →
      n.judge p frame line = (if PlaneSet.has n.rh.runtime.mask p = false then .unexpectedPlane
        else if line = 0 then .accept else .stray))
    ∧ (∀ f, n.se.state = .flushing f → n.judge p frame line = .flushing)
    ∧ (∀ f, n.se.state = .run f →
      (PlaneSet.has (if frame = f.fCur then f.mask else n.rh.runtime.mask) p = false →
        n.judge p frame line = .unexpectedPlane)
      ∧ (PlaneSet.has (if frame = f.fCur then f.mask else n.rh.runtime.mask) p = true →
        (frame ≠ f.fCur → frame ≠ f.fCur + 1 → n.judge p frame line = .stray)
        ∧ (frame = f.fCur → line < f.nNext → n.judge p frame line = .late)
        ∧ (((frame = f.fCur ∧ f.nNext ≤ line) ∨ frame = f.fCur + 1) →
          (∀ r, findRecord frame line n.se.table = some r → (r.contribs.get p).isSome = true →
            n.judge p frame line = .duplicate)
          ∧ ((∀ r, findRecord frame line n.se.table = some r → (r.contribs.get p).isSome = false) →
            n.judge p frame line = .accept))))

/-- The release of a line: the LINE descriptor with each plane PRESENT, REPEATED, FILLED or ABSENT, the skew, the cause
and, on line 0, the timecode; the hold slots of the planes PRESENT; N_next and the tallies: lines, complete, concealed
and gap lines, forced ones, the worst skew and the contributing planes. Only the queue and the engine change. -/
def Obligations.LineRelease : Prop :=
  ∀ (n : Node) (f : FrameCtx) (r : Record) (cause : Cause),
    (n.releaseRecord f r cause).ou.queue = n.ou.queue ++
      [.line ⟨f.fCur, f.nNext, Four.build (planeOut n.rh.runtime.mode f.mask n.se.holds r.contribs),
        if f.nNext = 0 then r.timecode else none, min 65535 (sdiff r.last r.first).toNat, cause⟩]
    ∧ (∀ p k, r.contribs.get p = some k →
        planeOut n.rh.runtime.mode f.mask n.se.holds r.contribs p = .present k.buf k.length
        ∧ (n.releaseRecord f r cause).se.holds.get p = some ⟨k.buf, k.length, f.fCur, f.nNext⟩)
    ∧ (∀ p, r.contribs.get p = none →
        (n.releaseRecord f r cause).se.holds.get p = n.se.holds.get p
        ∧ (PlaneSet.has f.mask p = false →
            planeOut n.rh.runtime.mode f.mask n.se.holds r.contribs p = .absent)
        ∧ (PlaneSet.has f.mask p = true → (n.rh.runtime.mode = .fill ∨ n.se.holds.get p = none) →
            planeOut n.rh.runtime.mode f.mask n.se.holds r.contribs p = .filled)
        ∧ (∀ h, PlaneSet.has f.mask p = true → n.rh.runtime.mode = .repeatLast → n.se.holds.get p = some h →
            planeOut n.rh.runtime.mode f.mask n.se.holds r.contribs p = .repeated h.buf h.length))
    ∧ (n.releaseRecord f r cause).se.table = n.se.table.erase r
    ∧ (∃ g, (n.releaseRecord f r cause).se.state = .run g ∧ g.fCur = f.fCur ∧ g.nNext = f.nNext + 1
        ∧ g.mask = f.mask ∧ g.j = f.j ∧ g.tallies.lines = f.tallies.lines + 1
        ∧ g.tallies.forced = (if cause = .forced then f.tallies.forced + 1 else f.tallies.forced)
        ∧ g.tallies.worstSkew = max f.tallies.worstSkew (min 65535 (sdiff r.last r.first).toNat)
        ∧ g.tallies.complete = (if f.mask &&& ~~~ contribPlanes r.contribs = 0 then f.tallies.complete + 1
            else f.tallies.complete)
        ∧ g.tallies.gap = (if f.mask &&& ~~~ contribPlanes r.contribs ≠ 0 ∧ contribPlanes r.contribs = 0
            then f.tallies.gap + 1 else f.tallies.gap)
        ∧ g.tallies.concealed = (if f.mask &&& ~~~ contribPlanes r.contribs ≠ 0 ∧ contribPlanes r.contribs ≠ 0
            then f.tallies.concealed + 1 else f.tallies.concealed)
        ∧ g.tallies.contributing = f.tallies.contributing ||| contribPlanes r.contribs
        ∧ g.tallies.joined = f.tallies.joined)
    ∧ n.releaseRecord f r cause = { n with
        ou := (n.releaseRecord f r cause).ou, se := (n.releaseRecord f r cause).se }

/-- The end of a frame: its FRAME_END with its tallies, then the next frame with the applied mask and its locked planes
joined, or IDLE with an empty table and STITCH_RESYNC where no plane would join. The contributions of planes outside the
mask are withdrawn, each counted in CONTRIB_WITHDRAWN, with SEGMENT_LOSS; a record left with none leaves the table, and
the others keep their arrivals, deadline and timecode and are evaluated anew against J: COMPLETE with a contribution of
every plane of J, else OPEN, or EXPIRED past the deadline, while EXPIRED stays. Where no plane would join, every
contribution kept is discarded, counted in CONTRIB_DISCARDED, with SEGMENT_LOSS. -/
def Obligations.FrameAdvance : Prop :=
  (∀ (n : Node) (f : FrameCtx) (j : PlaneSet) (within outside : Record → Four (Option Contribution))
      (kept : List Record) (k : Nat),
    j = n.rh.runtime.mask &&& n.se.lockedSet →
    within = (fun r => Four.build fun p => if PlaneSet.has n.rh.runtime.mask p then r.contribs.get p else none) →
    outside = (fun r => Four.build fun p => if PlaneSet.has n.rh.runtime.mask p then none else r.contribs.get p) →
    kept = (n.se.table.map fun r => { r with contribs := within r }).filter
      (fun r => decide (contribCount r.contribs ≠ 0)) →
    k = (n.se.table.map fun r => contribCount (outside r)).sum →
    (n.advanceFrame f).ou.queue = n.ou.queue ++ [.frameEnd ⟨f.fCur, .normal, f.tallies⟩]
    ∧ (n.advanceFrame f).se.framesEnded = Counter.bump n.se.framesEnded
    ∧ (n.advanceFrame f).se.lastTallies = f.tallies
    ∧ (n.advanceFrame f).se.contribWithdrawn = Counter.bumps k n.se.contribWithdrawn
    ∧ (0 < k → (n.advanceFrame f).rh.isPending 11 = true)
    ∧ n.advanceFrame f = { n with
        ou := (n.advanceFrame f).ou, se := (n.advanceFrame f).se
        rh := { n.rh with notices := (n.advanceFrame f).rh.notices } }
    ∧ (j ≠ 0 → ∃ g, (n.advanceFrame f).se.state = .run g
        ∧ g.fCur = f.fCur + 1 ∧ g.nNext = 0 ∧ g.mask = n.rh.runtime.mask
        ∧ g.j = j ∧ g.tallies = { Tallies.zero with joined := g.j }
        ∧ (n.advanceFrame f).se.framesStarted = Counter.bump n.se.framesStarted
        ∧ (n.advanceFrame f).se.table = kept.map (Record.evaluate j n.tb.e)
        ∧ (∀ r ∈ (n.advanceFrame f).se.table, ∀ p, (r.contribs.get p).isSome = true →
            PlaneSet.has n.rh.runtime.mask p = true)
        ∧ (n.advanceFrame f).se.contribDiscarded = n.se.contribDiscarded
        ∧ (n.advanceFrame f).se.holds = n.se.holds ∧ (n.advanceFrame f).se.strayRun = n.se.strayRun
        ∧ (k = 0 → (n.advanceFrame f).rh = n.rh))
    ∧ (j = 0 →
        (n.advanceFrame f).se.state = .idle ∧ (n.advanceFrame f).se.table = []
        ∧ (n.advanceFrame f).se.holds = Four.const none
        ∧ (n.advanceFrame f).se.resyncEmpty = Counter.bump n.se.resyncEmpty
        ∧ (n.advanceFrame f).se.framesStarted = n.se.framesStarted
        ∧ (n.advanceFrame f).rh.isPending 10 = true
        ∧ (∀ d, d = (kept.map fun r => contribCount r.contribs).sum →
          (n.advanceFrame f).se.contribDiscarded = Counter.bumps d n.se.contribDiscarded
          ∧ (0 < d → (n.advanceFrame f).rh.isPending 11 = true))))
  ∧ ∀ (r : Record) (j : PlaneSet) (e : Word32),
    r.evaluate j e = { r with state := (r.evaluate j e).state }
    ∧ ((∀ p, PlaneSet.has j p = true → (r.contribs.get p).isSome = true) → r.state ≠ .expired →
      (r.evaluate j e).state = .complete)
    ∧ (∀ p, PlaneSet.has j p = true → r.contribs.get p = none →
      (r.state = .opened → (r.evaluate j e).state = .opened)
      ∧ (r.state = .complete → (r.evaluate j e).state = (if passed e r.deadline = true then .expired else .opened)))
    ∧ (r.state = .expired → (r.evaluate j e).state = .expired)

/-- A delivery with its buffer. In IDLE a line 0 of a masked plane starts the engine at its frame; in RUN an accepted
one creates its record, with its arrival and its deadline W ticks later, or joins it; COMPLETE is a record that covers
J; the buffer is REFERENCED once, the stray run 0, and the engine takes every step then possible. Any other answer, and
a presentation without payload that is no STRAY of RUN, leaves the engine as it is. (A delivery that needs a record on
a full table: FullTable; a STRAY: StraysAndFlush.) -/
def Obligations.DeliveryRecords : Prop :=
  ∀ (n : Node) (c : Settled) (d : Delivery),
    (∀ f, n.se.state = .run f → n.judgeRun f d.plane d.frame d.line = .accept →
      (findRecord d.frame d.line n.se.table = none → n.se.table.length < 16 →
        n.deliver c d = (Node.runEngine c { n with
          ss := n.ss.mark d.buf (.referenced 1)
          se := { n.se with
            strayRun := 0
            table := n.se.table ++ [⟨d.frame, d.line, (Four.const none).set d.plane (some ⟨d.buf, d.length⟩), d.arrival,
              d.arrival,
              d.arrival + BitVec.ofNat 32 n.rh.runtime.w, if d.line = 0 then d.timecode else none,
              if f.j &&& ~~~ PlaneSet.single d.plane = 0 then .complete else .opened⟩] } }, .accept))
      ∧ (∀ r, findRecord d.frame d.line n.se.table = some r →
        n.deliver c d = (Node.runEngine c { n with
          ss := n.ss.mark d.buf (.referenced 1)
          se := { n.se with
            strayRun := 0
            table := n.se.table.map fun x =>
              if x.isAt d.frame d.line = true then (x.join d).evaluate f.j n.tb.e else x } }, .accept)))
    ∧ (∀ (r : Record) (j : PlaneSet) (e : Word32),
      ((r.join d).contribs = r.contribs.set d.plane (some ⟨d.buf, d.length⟩) ∧ (r.join d).last = d.arrival
        ∧ (r.join d).timecode = (if r.timecode = none ∧ d.line = 0 then d.timecode else r.timecode)
        ∧ r.join d = { r with
          contribs := (r.join d).contribs, last := (r.join d).last, timecode := (r.join d).timecode })
      ∧ r.evaluate j e = { r with state := (r.evaluate j e).state }
      ∧ (r.state = .opened →
          (r.evaluate j e).state = if j &&& ~~~ contribPlanes r.contribs = 0 then .complete else .opened)
      ∧ (r.state = .complete → (r.evaluate j e).state = if j &&& ~~~ contribPlanes r.contribs = 0 then .complete
          else if passed e r.deadline = true then .expired else .opened)
      ∧ (r.state = .expired → (r.evaluate j e).state = .expired))
    ∧ (n.se.state = .idle →
      (PlaneSet.has n.rh.runtime.mask d.plane = false → n.deliver c d = (n, .unexpectedPlane))
      ∧ (PlaneSet.has n.rh.runtime.mask d.plane = true → d.line ≠ 0 → n.deliver c d = (n, .stray))
      ∧ (PlaneSet.has n.rh.runtime.mask d.plane = true → d.line = 0 → ∀ f,
          f = ⟨d.frame, 0, n.rh.runtime.mask, n.rh.runtime.mask &&& n.se.lockedSet,
            { Tallies.zero with joined := n.rh.runtime.mask &&& n.se.lockedSet }⟩ →
          n.deliver c d = (Node.accept c f d { n with se := { n.se with
            state := .run f, framesStarted := Counter.bump n.se.framesStarted } }, .accept)))
    ∧ (∀ f, n.se.state = .flushing f → n.deliver c d = (n, .flushing))
    ∧ (∀ f, n.se.state = .run f → n.judgeRun f d.plane d.frame d.line ≠ .accept →
        n.judgeRun f d.plane d.frame d.line ≠ .stray →
        n.deliver c d = (n, n.judgeRun f d.plane d.frame d.line))
    ∧ (n.present c d.plane d.frame d.line).2 = n.judge d.plane d.frame d.line
    ∧ ((n.judge d.plane d.frame d.line ≠ .stray ∨ n.se.state = .idle) →
        (n.present c d.plane d.frame d.line).1 = n)

/-- A STRAY in RUN, delivered or presented, raises the stray run; the eighth in a row brings FLUSHING, the table's
contributions discarded and counted and STITCH_RESYNC raised, and the flush steps follow. The engine's next step with a
place free: in FLUSHING a LINE of cause FLUSH for each line left, then FRAME_END and IDLE; in RUN the end of the frame
after its last line, else the head record, complete or expired, at its line, or a gap line before it; with no place, or
none of these, no step. The engine takes steps as long as there is one. -/
def Obligations.StraysAndFlush : Prop :=
  ∀ (n : Node) (c : Settled),
    (∀ (d : Delivery) (f : FrameCtx), n.se.state = .run f → n.judgeRun f d.plane d.frame d.line = .stray →
      n.present c d.plane d.frame d.line = n.deliver c d ∧ (n.deliver c d).2 = .stray
      ∧ (n.se.strayRun < 7 → (n.deliver c d).1 = { n with se := { n.se with strayRun := n.se.strayRun + 1 } })
      ∧ (7 ≤ n.se.strayRun → ∃ m k, (n.deliver c d).1 = Node.runEngine c m
          ∧ k = (n.se.table.map fun r => contribCount r.contribs).sum
          ∧ m = { n with
            se := { n.se with
              state := .flushing f, table := [], strayRun := 0, resyncStray := Counter.bump n.se.resyncStray
              contribDiscarded := Counter.bumps k n.se.contribDiscarded }
            rh := { n.rh with notices := m.rh.notices } }
          ∧ m.rh.isPending 10 = true ∧ (0 < k → m.rh.isPending 11 = true)))
    ∧ (n.engineStep c = none → n.runEngine c = n)
    ∧ (∀ m, n.engineStep c = some m → n.runEngine c = m.runEngine c)
    ∧ ((n.ou.freePlaces = 0 ∨ n.se.state = .idle) → n.engineStep c = none)
    ∧ (∀ f, n.ou.freePlaces ≠ 0 → n.se.state = .flushing f →
      (f.nNext < c.aLines → ∃ m d, n.engineStep c = some m
        ∧ d = ⟨f.fCur, f.nNext, Four.build (planeOut n.rh.runtime.mode f.mask n.se.holds noContribs), none, 0, .flush⟩
        ∧ m.ou = n.ou.enqueue (.line d)
        ∧ m.se = { n.se with state := .flushing { f with nNext := f.nNext + 1, tallies := f.tallies.take f.mask d } }
        ∧ m = { n with ou := m.ou, se := m.se })
      ∧ (c.aLines ≤ f.nNext → n.engineStep c = some { n with
          ou := n.ou.enqueue (.frameEnd ⟨f.fCur, .flush, f.tallies⟩)
          se := { n.se with
            state := .idle, table := [], holds := Four.const none, strayRun := 0, lastTallies := f.tallies
            framesFlushed := Counter.bump n.se.framesFlushed } }))
    ∧ (∀ f, n.ou.freePlaces ≠ 0 → n.se.state = .run f →
      (c.aLines ≤ f.nNext → n.engineStep c = some (n.advanceFrame f))
      ∧ (f.nNext < c.aLines →
        (headRecord f.fCur n.se.table = none → n.engineStep c = none)
        ∧ (∀ r, headRecord f.fCur n.se.table = some r →
          (r.state = .opened → n.engineStep c = none)
          ∧ (r.state = .complete → r.frame = f.fCur → r.line = f.nNext →
              n.engineStep c = some (n.releaseRecord f r .complete))
          ∧ (r.state = .expired → r.frame = f.fCur → r.line = f.nNext →
              n.engineStep c = some (n.releaseRecord f r .expired))
          ∧ (r.state ≠ .opened → (r.frame ≠ f.fCur ∨ r.line ≠ f.nNext) → ∃ m d, n.engineStep c = some m
            ∧ d = ⟨f.fCur, f.nNext, Four.build (planeOut n.rh.runtime.mode f.mask n.se.holds noContribs), none, 0,
                .gap⟩
            ∧ m.ou = n.ou.enqueue (.line d)
            ∧ m.se = { n.se with state := .run { f with nNext := f.nNext + 1, tallies := f.tallies.take f.mask d } }
            ∧ m = { n with ou := m.ou, se := m.se }))))

/-- A delivery that needs a new record on a table of 16. With fewer places free than the lines up to the head record's,
or up to its own where its key is lower, it is TABLE_FULL and nothing changes. Else gap lines lead to the line, which is
released FORCED; a head record's release makes room for the delivery's own record, and a delivery below the head goes
out as a line of its own, its plane alone PRESENT, without entering the table. Where that line is in the next frame, gap
lines complete the frame in progress and its FRAME_END follows first; a contribution that the next frame's mask
withdraws ends a force where a record goes with it; and with no plane to join the next frame the engine is in IDLE and
judges the delivery afresh (the model's reading, log entry 27). That a line of its own goes out also where the advance
withdraws a record is the model's choice (log entry 55). -/
def Obligations.FullTable : Prop :=
  ∀ (n : Node) (c : Settled) (f : FrameCtx) (r : Record) (d : Delivery),
    n.se.state = .run f → n.judgeRun f d.plane d.frame d.line = .accept → findRecord d.frame d.line n.se.table = none →
    n.se.table.length = 16 → headRecord f.fCur n.se.table = some r →
    (keyRank f.fCur d.frame d.line < r.rank f.fCur → n.ou.freePlaces < placesTo c f d.frame d.line →
      n.deliver c d = (n, .tableFull))
    ∧ (r.rank f.fCur ≤ keyRank f.fCur d.frame d.line → n.ou.freePlaces < placesTo c f r.frame r.line →
      n.deliver c d = (n, .tableFull))
    ∧ (∀ frame line, frame = f.fCur → placesTo c f frame line = line - f.nNext + 1)
    ∧ (∀ frame line, frame ≠ f.fCur → placesTo c f frame line = (c.aLines - f.nNext) + line + 2)
    ∧ (keyRank f.fCur d.frame d.line < r.rank f.fCur → d.frame = f.fCur → d.line < c.aLines →
      d.line - f.nNext < n.ou.freePlaces →
      ∃ gaps own more, (n.deliver c d).2 = .accept
        ∧ (n.deliver c d).1.ou.queue = n.ou.queue ++ gaps ++ [.line own] ++ more
        ∧ gaps.length = d.line - f.nNext
        ∧ (∀ x ∈ gaps, ∃ l, x = .line l ∧ l.cause = .gap ∧ l.frame = f.fCur)
        ∧ own.frame = f.fCur ∧ own.line = d.line ∧ own.cause = .forced ∧ own.skew = 0
        ∧ own.planes.get d.plane = .present d.buf d.length
        ∧ (∀ p, p ≠ d.plane → (own.planes.get p).isPresent = false)
        ∧ own.timecode = (if d.line = 0 then d.timecode else none)
        ∧ (n.deliver c d).1.se.forcedLines = Counter.bump n.se.forcedLines
        ∧ ((n.deliver c d).1.ss.buf d.buf).state = ((n.ss.mark d.buf (.referenced 1)).buf d.buf).state)
    ∧ (r.rank f.fCur ≤ keyRank f.fCur d.frame d.line → r.frame = f.fCur → f.nNext ≤ r.line → r.line < c.aLines →
      r.line - f.nNext < n.ou.freePlaces →
      ∃ gaps forced more, (n.deliver c d).2 = .accept
        ∧ (n.deliver c d).1.ou.queue = n.ou.queue ++ gaps ++ [.line forced] ++ more
        ∧ gaps.length = r.line - f.nNext
        ∧ (∀ x ∈ gaps, ∃ l, x = .line l ∧ l.cause = .gap ∧ l.frame = f.fCur)
        ∧ forced.frame = f.fCur ∧ forced.line = r.line ∧ forced.cause = .forced
        ∧ (∀ p k, r.contribs.get p = some k → forced.planes.get p = .present k.buf k.length)
        ∧ (n.deliver c d).1.se.forcedLines = Counter.bump n.se.forcedLines
        ∧ ((n.deliver c d).1.ss.buf d.buf).state = ((n.ss.mark d.buf (.referenced 1)).buf d.buf).state)
    ∧ (keyRank f.fCur d.frame d.line < r.rank f.fCur → d.frame = f.fCur + 1 → d.line < c.aLines →
      (c.aLines - f.nNext) + d.line + 2 ≤ n.ou.freePlaces → n.rh.runtime.mask &&& n.se.lockedSet ≠ 0 →
      ∃ gaps ended next own more, (n.deliver c d).2 = .accept
        ∧ (n.deliver c d).1.ou.queue = n.ou.queue ++ gaps ++ [.frameEnd ended] ++ next ++ [.line own] ++ more
        ∧ gaps.length = c.aLines - f.nNext ∧ next.length = d.line
        ∧ (∀ x ∈ gaps, ∃ l, x = .line l ∧ l.cause = .gap ∧ l.frame = f.fCur)
        ∧ ended.frame = f.fCur ∧ ended.cause = .normal
        ∧ (∀ x ∈ next, ∃ l, x = .line l ∧ l.cause = .gap ∧ l.frame = f.fCur + 1)
        ∧ own.frame = f.fCur + 1 ∧ own.line = d.line ∧ own.cause = .forced ∧ own.skew = 0
        ∧ own.planes.get d.plane = .present d.buf d.length
        ∧ (∀ p, p ≠ d.plane → (own.planes.get p).isPresent = false)
        ∧ own.timecode = (if d.line = 0 then d.timecode else none))
    ∧ (r.rank f.fCur ≤ keyRank f.fCur d.frame d.line → r.frame = f.fCur + 1 → r.line < c.aLines →
      (c.aLines - f.nNext) + r.line + 2 ≤ n.ou.freePlaces → n.rh.runtime.mask &&& n.se.lockedSet ≠ 0 →
      ((∀ x ∈ n.se.table, ∃ p, PlaneSet.has n.rh.runtime.mask p = true ∧ (x.contribs.get p).isSome = true) →
        ∃ gaps ended next forced more, (n.deliver c d).2 = .accept
          ∧ (n.deliver c d).1.ou.queue = n.ou.queue ++ gaps ++ [.frameEnd ended] ++ next ++ [.line forced] ++ more
          ∧ gaps.length = c.aLines - f.nNext ∧ next.length = r.line
          ∧ (∀ x ∈ gaps, ∃ l, x = .line l ∧ l.cause = .gap ∧ l.frame = f.fCur)
          ∧ ended.frame = f.fCur ∧ ended.cause = .normal
          ∧ (∀ x ∈ next, ∃ l, x = .line l ∧ l.cause = .gap ∧ l.frame = f.fCur + 1)
          ∧ forced.frame = f.fCur + 1 ∧ forced.line = r.line ∧ forced.cause = .forced
          ∧ (∀ p k, r.contribs.get p = some k → PlaneSet.has n.rh.runtime.mask p = true →
              forced.planes.get p = .present k.buf k.length))
      ∧ ((∃ x ∈ n.se.table, ∀ p, PlaneSet.has n.rh.runtime.mask p = true → x.contribs.get p = none) →
        ∃ gaps ended more, (n.deliver c d).2 = .accept
          ∧ (n.deliver c d).1.ou.queue = n.ou.queue ++ gaps ++ [.frameEnd ended] ++ more
          ∧ gaps.length = c.aLines - f.nNext ∧ ended.frame = f.fCur ∧ ended.cause = .normal
          ∧ (n.deliver c d).1.se.forcedLines = n.se.forcedLines))
    ∧ ((keyRank f.fCur d.frame d.line < r.rank f.fCur ∧ d.frame = f.fCur + 1 ∧ d.line < c.aLines
          ∧ (c.aLines - f.nNext) + d.line + 2 ≤ n.ou.freePlaces
        ∨ r.rank f.fCur ≤ keyRank f.fCur d.frame d.line ∧ r.frame = f.fCur + 1 ∧ r.line < c.aLines
          ∧ (c.aLines - f.nNext) + r.line + 2 ≤ n.ou.freePlaces) →
      n.rh.runtime.mask &&& n.se.lockedSet = 0 →
      ∃ (m : Node) (gaps : List Descriptor) (ended : FrameEndDesc), n.deliver c d = m.deliver c d
        ∧ m.se.state = .idle ∧ m.se.table = [] ∧ m.ou.queue = n.ou.queue ++ gaps ++ [.frameEnd ended]
        ∧ gaps.length = c.aLines - f.nNext
        ∧ (∀ x ∈ gaps, ∃ l, x = .line l ∧ l.cause = .gap ∧ l.frame = f.fCur)
        ∧ ended.frame = f.fCur ∧ ended.cause = .normal
        ∧ m.se.resyncEmpty = Counter.bump n.se.resyncEmpty ∧ m.rh.isPending 10 = true)

/-- RECORD_DEADLINE. In a table of any records the one past its deadline becomes EXPIRED in its place, the others stay,
and the engine takes every step then possible: none while the head record is OPEN; gap lines up to the head record's
line and then that line with cause EXPIRED, if it is the one and the places suffice. Then the one record of a table,
spelled out: at the head line, with a free place and more lines to come, it goes out at once; with no free place it
stands EXPIRED in the table. -/
def Obligations.RecordDeadline : Prop :=
  (∀ (s : State) (c : Settled) (r : Record) (n : Node), s.node.WorksBase c → r ∈ s.node.se.table →
    r.state = .opened → passed s.node.tb.e r.deadline = true →
    n = { s.node with se := { s.node.se with table := s.node.se.table.map fun x =>
      if x.frame = r.frame ∧ x.line = r.line ∧ x.state = .opened ∧ passed s.node.tb.e x.deadline = true
        then { x with state := .expired } else x } } →
    (Yields (.recordDeadline r.frame r.line) s fun t => t = (n.runEngine c).settleRefs)
    ∧ ∀ f h, s.node.se.state = .run f → headRecord f.fCur n.se.table = some h → f.nNext < c.aLines →
      (h.state = .opened → Yields (.recordDeadline r.frame r.line) s fun t => t.ou = s.node.ou ∧ t.se = n.se
        ∧ t = { s.node with se := t.se, ss := t.ss })
      ∧ (h.state = .expired → h.frame = f.fCur → f.nNext ≤ h.line → h.line < c.aLines →
          h.line - f.nNext < s.node.ou.freePlaces → Yields (.recordDeadline r.frame r.line) s fun t =>
        ∃ gaps d more, t.ou.queue = s.node.ou.queue ++ gaps ++ [.line d] ++ more
          ∧ gaps.length = h.line - f.nNext
          ∧ (∀ x ∈ gaps, ∃ l, x = .line l ∧ l.cause = .gap ∧ l.frame = f.fCur)
          ∧ d.frame = f.fCur ∧ d.line = h.line ∧ d.cause = .expired
          ∧ (∀ p k, h.contribs.get p = some k → d.planes.get p = .present k.buf k.length)))
  ∧ ∀ (s : State) (c : Settled) (f : FrameCtx) (r : Record), s.node.WorksBase c → s.node.se.state = .run f →
    s.node.se.table = [r] → r.state = .opened → passed s.node.tb.e r.deadline = true →
    (r.frame = f.fCur → r.line = f.nNext → f.nNext + 1 < c.aLines → s.node.ou.queue.length < 4 →
      Yields (.recordDeadline r.frame r.line) s fun t =>
        t.ou.queue = s.node.ou.queue ++
          [.line ⟨f.fCur, f.nNext, Four.build (planeOut s.node.rh.runtime.mode f.mask s.node.se.holds r.contribs),
            if f.nNext = 0 then r.timecode else none, min 65535 (sdiff r.last r.first).toNat, .expired⟩]
        ∧ t.se.table = []
        ∧ t = { s.node with ou := t.ou, se := t.se, ss := t.ss })
    ∧ (s.node.ou.queue.length = 4 → Yields (.recordDeadline r.frame r.line) s fun t =>
        t.ou = s.node.ou ∧ t.se = { s.node.se with table := [{ r with state := .expired }] }
        ∧ t = { s.node with se := t.se, ss := t.ss })

/-! ## Output port -/

/-- WORD_TAKEN, RECORD_END, STALL and ABORT_TAKEN: one word taken; the last word's record leaves the queue and is
counted by its kind, the descriptors behind it in their order, and the engine takes every step that the freed place
allows, a buffer FREE that nothing names any more; a stalled record counts once; the pending ABORT goes, also while
RST_N is asserted; and the level of PREADY is seen, which alone happens where no word is there to take, to end or to
stall (log entry 2). A descriptor goes to the tail of the queue, the last free place counting QUEUE_FULL. The port
shows the idle code when there is nothing to present. That the level of PREADY stands in State, and that PD is 0 beside
the idle code, are the model's choices (log entries 4 and 45). -/
def Obligations.OutputPort : Prop :=
  (∀ (ou : Ou) (d : Descriptor), ou.enqueue d = { ou with
    queue := ou.queue ++ [d]
    queueFull := if ou.queue.length + 1 = 4 then Counter.bump ou.queueFull else ou.queueFull })
  ∧ (∀ (s : State) (c : Settled), s.node.baseCfg = some c → s.node.rstLow = false →
    ((s.node.ou.abort ≠ none ∨ s.node.ou.queue = []) →
      (∀ i ∈ [Instr.wordTaken, .recordEnd], Yields i s fun t =>
        t = { s.node with pins := { s.node.pins with pready := true } })
      ∧ Yields .stall s fun t => t = { s.node with pins := { s.node.pins with pready := false } })
    ∧ (∀ d rest, s.node.ou.abort = none → s.node.ou.queue = d :: rest →
      (d.words ≤ s.node.ou.taken + 1 → Yields .wordTaken s fun t =>
        t = { s.node with pins := { s.node.pins with pready := true } })
      ∧ (s.node.ou.taken + 1 < d.words → Yields .recordEnd s fun t =>
        t = { s.node with pins := { s.node.pins with pready := true } })
      ∧ (∀ m x : Node, d.words ≤ s.node.ou.taken + 1 →
        m = { s.node with ou := { s.node.ou with
          queue := rest, taken := 0, stalled := false
          linesOut := match d with
            | .line _ => Counter.bump s.node.ou.linesOut
            | .frameEnd _ => s.node.ou.linesOut
          framesOut := match d with
            | .line _ => s.node.ou.framesOut
            | .frameEnd _ => Counter.bump s.node.ou.framesOut } } →
        x = (m.runEngine c).settleRefs →
        Yields .recordEnd s fun t =>
          t = { x with pins := { s.node.pins with pready := true } }
          ∧ t = { s.node with
            ou := t.ou, se := t.se, ss := t.ss, pins := { s.node.pins with pready := true }
            rh := { s.node.rh with notices := t.rh.notices } }))
    ∧ (s.node.ou.abort = none → Yields .abortTaken s fun t =>
      t = { s.node with pins := { s.node.pins with pready := true } }))
  ∧ ∀ (s : State) (c : Settled), s.node.baseCfg = some c →
    (s.node.ou.abort = none → s.node.ou.queue = [] → s.node.port = some (0, 0))
    ∧ (∀ w, s.node.ou.abort = some w → s.node.port = some (2, packWord w.bytes)
      ∧ Yields .abortTaken s fun t =>
        t.ou = { s.node.ou with abort := none, abortsOut := Counter.bump s.node.ou.abortsOut }
        ∧ t = { s.node with ou := t.ou, pins := { s.node.pins with pready := true } })
    ∧ (∀ d rest, s.node.rstLow = false → s.node.ou.abort = none → s.node.ou.queue = d :: rest →
      (s.node.ou.taken + 1 < d.words → Yields .wordTaken s fun t =>
        t.ou = { s.node.ou with taken := s.node.ou.taken + 1 }
        ∧ t = { s.node with ou := t.ou, pins := { s.node.pins with pready := true } })
      ∧ (d.words = s.node.ou.taken + 1 → Yields .recordEnd s fun t =>
        (∃ more, t.ou.queue = rest ++ more) ∧ (s.node.se.state = .idle → t.ou.queue = rest)
        ∧ t.ou.taken = 0 ∧ t.ou.stalled = false ∧ t.pins.pready = true
        ∧ (∀ b, (∀ k, (s.node.ss.buf b).state ≠ .referenced k) → t.ss.buf b = s.node.ss.buf b)
        ∧ (∀ b k, (s.node.ss.buf b).state = .referenced k →
            t.ss.buf b = (if refCount t.se t.ou b = 0 then Buf.free
              else ⟨.referenced (refCount t.se t.ou b), (s.node.ss.buf b).bytes⟩))
        ∧ (s.node.se.state = .idle → t.se = s.node.se)
        ∧ (∀ x, d = .line x → t.ou.linesOut = Counter.bump s.node.ou.linesOut
            ∧ t.ou.framesOut = s.node.ou.framesOut)
        ∧ (∀ x, d = .frameEnd x → t.ou.framesOut = Counter.bump s.node.ou.framesOut
            ∧ t.ou.linesOut = s.node.ou.linesOut))
      ∧ Yields .stall s fun t =>
        t.ou.stalled = true
        ∧ t.ou.stalledRecords = (if s.node.ou.stalled = true then s.node.ou.stalledRecords
            else Counter.bump s.node.ou.stalledRecords)
        ∧ t.ou = { s.node.ou with stalled := true, stalledRecords := t.ou.stalledRecords }
        ∧ t = { s.node with ou := t.ou, pins := { s.node.pins with pready := false } })

/-- The words of a record as the port shows them, by the words already taken. LINE: eight header words, then for each
PRESENT or REPEATED plane in plane order its payload, four bytes to a word. FRAME_END: six words. PCTL is 1 at the
first word, 3 at a further one, 3 plus the byte count at the last of a plane, 7 plus it at the last of the record. -/
def Obligations.OutputWords : Prop :=
  ∀ (n : Node) (c : Settled) (rest : List Descriptor), n.baseCfg = some c → n.ou.abort = none →
    (∀ d : FrameEndDesc, n.ou.queue = .frameEnd d :: rest →
      Descriptor.words (.frameEnd d) = 6
      ∧ (n.ou.taken = 0 → n.port = some (1, packWord [2, d.frame, if d.cause = .normal then 0 else 1, 0]))
      ∧ (n.ou.taken = 1 → n.port = some (3, packWord (u16 d.tallies.lines ++ u16 d.tallies.complete)))
      ∧ (n.ou.taken = 2 → n.port = some (3, packWord (u16 d.tallies.concealed ++ u16 d.tallies.gap)))
      ∧ (n.ou.taken = 3 → n.port = some (3, packWord (u16 d.tallies.forced ++ u16 d.tallies.worstSkew)))
      ∧ (n.ou.taken = 4 → n.port = some (3, packWord
          (u8 d.tallies.contributing.toNat ++ u8 d.tallies.joined.toNat ++ [0, 0])))
      ∧ (n.ou.taken = 5 → n.port = some (11, 0)))
    ∧ ∀ d : LineDesc, n.ou.queue = .line d :: rest →
      Descriptor.words (.line d) = 8 + (d.planes.p0.length + 3) / 4 + (d.planes.p1.length + 3) / 4
        + (d.planes.p2.length + 3) / 4 + (d.planes.p3.length + 3) / 4
      ∧ (n.ou.taken = 0 → n.port = some (1, packWord ([1, d.frame] ++ u16 d.line)))
      ∧ (n.ou.taken = 1 → n.port = some (3, packWord
          (u8 (d.planes.p0.code * 64 + d.planes.p1.code * 16 + d.planes.p2.code * 4 + d.planes.p3.code)
            ++ u8 d.cause.code ++ [if d.timecode = none then 0 else 1, 0])))
      ∧ (n.ou.taken = 2 → n.port = some (3, packWord (u16 d.planes.p0.length ++ u16 d.planes.p1.length)))
      ∧ (n.ou.taken = 3 → n.port = some (3, packWord (u16 d.planes.p2.length ++ u16 d.planes.p3.length)))
      ∧ (n.ou.taken = 4 → (d.timecode = none → n.port = some (3, 0))
          ∧ ∀ t, d.timecode = some t → n.port = some (3, packWord t.bytes))
      ∧ (n.ou.taken = 5 → n.port = some (3, packWord (u16 d.skew ++ u16
          (d.planes.p0.length + d.planes.p1.length + d.planes.p2.length + d.planes.p3.length))))
      ∧ (n.ou.taken = 6 → n.port = some (3, 0))
      ∧ (n.ou.taken = 7 → n.port = some (if Descriptor.words (.line d) = 8 then 11 else 3, 0))
      ∧ (∀ (p : Fin 4) (b len j k : Nat),
          (d.planes.get p = .present b len ∨ d.planes.get p = .repeated b len) → len ≤ (n.ss.buf b).bytes.length →
          j < (len + 3) / 4 → n.ou.taken = 8 + ((d.planes.toList.take p.val).map PlaneOut.words).sum + j →
          k = min 4 (len - 4 * j) →
          n.port = some
            (if n.ou.taken + 1 = Descriptor.words (.line d) then BitVec.ofNat 4 (7 + k)
              else if j + 1 = (len + 3) / 4 then BitVec.ofNat 4 (3 + k) else 3,
              packWord ((((n.ss.buf b).bytes.take len).drop (4 * j)).take 4)))

/-! ## Service carrier -/

/-- MESSAGE_START at a bit boundary of an idle carrier, or at the edge of a start mark to join, with SI permitted to
send and no listen-only value about to take effect: with anything on offer the message is one of those on offer, with
the lowest key of all, is stamped with the present E and is driven as its bits say from the mark that begins at this
tick; a mail slot's becomes SENDING. With nothing on offer, or SI not permitted to send, nothing changes; a listen-only
value that an idle carrier lets take effect does so first. That a start mark is joined at its edge alone, and up to
when the carrier is idle, are the model's choices (log entries 48 and 56). Then what is on offer: an ANNOUNCE, while the
node may announce, under its class and number with t3', S, N_src and the timecode as they stand at this tick; a
DELAY_PROBE under its target and the node; the oldest reply with t2 and t3; a CONTROL_REPLY with its payload; and of the
PENDING slots the one with the lowest key, the lower-indexed of equals, or under INDEX the lowest-indexed. -/
def Obligations.MessageStart : Prop :=
  (∀ (s : State) (c : Settled), s.node.Works c → s.node.si.awaitsStart = true → s.node.si.bitPos = 0 →
    (s.node.si.phase = .idle ∨ s.node.si.level = false) →
    ((s.node.isIdle = false ∨ s.node.rh.pending.listenOnly = none) →
      ((s.node.si.listenOnly = true ∨ s.node.si.state = .silenced
          ∨ s.node.si.state = .guarded ∧ s.node.si.guardWait ≠ none) → Yields .messageStart s fun t => t = s.node)
      ∧ (s.node.si.listenOnly = false →
        (s.node.si.state = .active ∨ s.node.si.state = .guarded ∧ s.node.si.guardWait = none) →
        (s.node.choose c = none → Yields .messageStart s fun t => t = s.node)
        ∧ ((∃ x, x ∈ s.node.announceOffer ++ s.node.probeOffer ++ s.node.replyOffer ++ s.node.controlOffer
              ++ slotOffers 0 s.node.mh.slots) → ∃ o, s.node.choose c = some o)
        ∧ (∀ o, s.node.choose c = some o →
          o ∈ s.node.announceOffer ++ s.node.probeOffer ++ s.node.replyOffer ++ s.node.controlOffer
            ++ slotOffers 0 s.node.mh.slots
          ∧ (∀ x ∈ s.node.announceOffer ++ s.node.probeOffer ++ s.node.replyOffer ++ s.node.controlOffer,
            o.key.toNat ≤ x.key.toNat)
          ∧ (c.order = .key → ∀ x ∈ slotOffers 0 s.node.mh.slots, o.key.toNat ≤ x.key.toNat)
          ∧ (c.order = .index → ∀ x after, slotOffers 0 s.node.mh.slots = x :: after → o.key.toNat ≤ x.key.toNat)
          ∧ Yields .messageStart s fun t =>
            t.si = { s.node.si with
              onCarrier := some ⟨o.place, o.key, o.payload, s.node.tb.e, messageBits o.key o.payload, false⟩
              rxStamp := none, phase := .receiving, spaces := 0, bitPos := 0, bitNo := 0, tx := false
              resynced := false, reading := Reading.empty, found := none, acked := false }
            ∧ (∀ i m, o.place = .slot i → (s.node.mh.slot i).state = .pending m →
                t.mh = s.node.mh.setSlot i (.sending m))
            ∧ ((∀ i, o.place ≠ .slot i) → t.mh = s.node.mh)
            ∧ t = { s.node with si := t.si, mh := t.mh })))
    ∧ (∀ v, s.node.isIdle = true → s.node.rh.pending.listenOnly = some v →
      Yields .messageStart s fun t =>
        exec .messageStart { s with node := s.node.setListenOnly v } = .next { s with node := t }))
  ∧ (∀ (n : Node) (c : Settled) (l : List Offer),
    l = n.announceOffer ++ n.probeOffer ++ n.replyOffer ++ n.controlOffer ++ (mailCandidate c.order n.mh.slots).toList →
    (n.choose c = none ↔ l = [])
    ∧ ∀ o, n.choose c = some o → o ∈ l ∧ ∀ x ∈ l, o.key.toNat ≤ x.key.toNat)
  ∧ (∀ (order : OrderMode) (slots : List Slot),
    (mailCandidate order slots = none ↔ ∀ (i : Nat) (x : Slot), slots[i]? = some x → ∀ m, x.state ≠ .pending m)
    ∧ ∀ o, mailCandidate order slots = some o → ∃ (i : Nat) (x : Slot) (m : TxMail), slots[i]? = some x
      ∧ x.state = .pending m ∧ o = ⟨.slot i, m.key, m.payload⟩
      ∧ (order = .key → ∀ (j : Nat) (y : Slot) (k : TxMail), slots[j]? = some y → y.state = .pending k →
        m.key.toNat ≤ k.key.toNat ∧ (m.key = k.key → i ≤ j))
      ∧ (order = .index → ∀ (j : Nat) (y : Slot) (k : TxMail), slots[j]? = some y → y.state = .pending k → i ≤ j))
  ∧ ∀ n : Node,
    ((n.mh.announce = false ∨ n.du.state.isSelf = false ∨ n.rh.lifecycle ≠ .running ∨ n.si.listenOnly = true) →
      n.announceOffer = [])
    ∧ (∀ g, n.mh.announce = true → n.du.state.isSelf = true → n.rh.lifecycle = .running → n.si.listenOnly = false →
      n.tb.gen = some g → n.announceOffer = [⟨.announce,
        BitVec.ofNat 12 (0x100 + 64 * n.du.cls + 4 * n.rh.straps.node.toNat),
        u32 n.tb.e.toNat ++ u32 (n.tb.e - g.start).toNat ++ u16 n.tb.frameNo.toNat ++ n.tb.tc.bytes⟩])
    ∧ (n.mh.probe = none → n.probeOffer = [])
    ∧ (∀ target, n.mh.probe = some target → n.probeOffer = [⟨.probe,
        BitVec.ofNat 12 (0x200 + 16 * target.toNat + n.rh.straps.node.toNat), []⟩])
    ∧ (n.mh.replies = [] → n.replyOffer = [])
    ∧ (∀ x rest, n.mh.replies = x :: rest → n.replyOffer = [⟨.reply,
        BitVec.ofNat 12 (0x300 + 16 * x.requester.toNat + n.rh.straps.node.toNat),
        u32 x.t2.toNat ++ u32 n.tb.e.toNat⟩])
    ∧ (n.mh.controlReply = none → n.controlOffer = [])
    ∧ (∀ x, n.mh.controlReply = some x → n.controlOffer = [⟨.controlReply,
        BitVec.ofNat 12 (0x500 + 16 * x.requester.toNat + n.rh.straps.node.toNat), x.payload⟩])
    ∧ (∀ o, o ∈ slotOffers 0 n.mh.slots ↔ ∃ i x m, n.mh.slots[i]? = some x ∧ x.state = .pending m
        ∧ o = ⟨.slot i, m.key, m.payload⟩)

/-- The end of the node's own message. ARBITRATION_LOST, no error found in it: pending again, its stamp kept as the
receiver's, SVC_TX a space, the message in progress received; an ANNOUNCE of a node that now follows another is
withdrawn (log entry 18). MESSAGE_SENT, no error found in it: counted, TEC one lower and the state as the counts call
for, with SERVICE_STATE at a change, its place emptied (a mail slot DONE with MAIL_SENT), a probe recorded with its
stamp; the interspace follows. MESSAGE_FAILED, after an error in it or another node's burst: counted, its place emptied
(a mail slot FAILED with MAIL_SENT), a probe abandoned; the wait for 10 spaces follows. Sent or failed, a node then
GUARDED waits for 8 spaces (one GUARDED only after that does not: log entry 62). Each clause names all that changes: of
SI, of DU and MH, and which notices become pending. That the end is reached is the sender's word, or what the samples
found, and where the bit clock stands after a commanded end is the model's choice (log entries 2, 15 and 37). -/
def Obligations.OwnMessageEnds : Prop :=
  ∀ (s : State) (c : Settled) (o : OnCarrier), s.node.Works c → s.node.si.onCarrier = some o →
    (o.failed = false → Yields .arbitrationLost s fun t =>
      t.si.onCarrier = none ∧ t.si.rxStamp = some o.stamp ∧ t.si.tec = s.node.si.tec ∧ t.si.tx = true
      ∧ t.si.phase = .receiving ∧ t.si.guardWait = s.node.si.guardWait ∧ t.si.state = s.node.si.state
      ∧ t.mh.probe = s.node.mh.probe
      ∧ t.mh.announce = (s.node.mh.announce && s.node.du.state.isSelf)
      ∧ t.si.arbitrationLost = Counter.bump s.node.si.arbitrationLost
      ∧ (∀ i m, o.place = .slot i → (s.node.mh.slot i).state = .sending m →
          t.mh.slots = (s.node.mh.setSlot i (.pending m)).slots)
      ∧ ((∀ i, o.place ≠ .slot i) → t.mh.slots = s.node.mh.slots)
      ∧ t = { s.node with
        si := { s.node.si with
          onCarrier := none, rxStamp := some o.stamp, phase := .receiving, tx := true, found := none
          arbitrationLost := t.si.arbitrationLost }
        mh := { s.node.mh with announce := t.mh.announce, slots := t.mh.slots } })
    ∧ (o.failed = false → Yields .messageSent s fun t =>
      t.si.onCarrier = none ∧ t.si.sentOk = Counter.bump s.node.si.sentOk ∧ t.si.tec = s.node.si.tec - 1
      ∧ t.si.recCount = s.node.si.recCount ∧ t.si.phase = .interspace ∧ t.si.spaces = 0
      ∧ ((s.node.si.state = .active ∨ s.node.si.state = .guarded) →
          t.si.state = (if 192 ≤ t.si.tec then .silenced
            else if 96 ≤ t.si.tec ∨ 96 ≤ t.si.recCount then .guarded else .active)
          ∧ (t.si.state ≠ s.node.si.state → t.rh.isPending 12 = true))
      ∧ (s.node.si.state ≠ .active → s.node.si.state ≠ .guarded → t.si.state = s.node.si.state)
      ∧ t.si.guardWait = (if t.si.state = .guarded then some 8 else none)
      ∧ (o.place = .announce → t.mh = { s.node.mh with announce := false } ∧ t.du = s.node.du)
      ∧ (∀ x, o.place = .probe → s.node.mh.probe = some x →
          t.mh = { s.node.mh with probe := none } ∧ t.du = { s.node.du with probe := some ⟨x, o.stamp, 4⟩ })
      ∧ (o.place = .reply → t.mh = { s.node.mh with replies := s.node.mh.replies.tail } ∧ t.du = s.node.du)
      ∧ (o.place = .controlReply → t.mh = { s.node.mh with controlReply := none } ∧ t.du = s.node.du)
      ∧ (∀ i, o.place = .slot i → t.mh = s.node.mh.setSlot i .done ∧ t.rh.isPending 14 = true
          ∧ t.du = s.node.du)
      ∧ (∀ k, t.rh.isPending k = true ↔ s.node.rh.isPending k = true
          ∨ k = 12 ∧ t.si.state ≠ s.node.si.state ∨ k = 14 ∧ (∃ i, o.place = .slot i)
          ∨ k = 15 ∧ t.si.state = .silenced ∧ s.node.si.state ≠ .silenced)
      ∧ ((t.si.state = s.node.si.state ∨ t.si.state ≠ .silenced) →
          t.si.recovery = s.node.si.recovery ∧ t.si.recoveryRun = s.node.si.recoveryRun)
      ∧ t = { s.node with
        si := { s.node.si with
          onCarrier := none, sentOk := t.si.sentOk, tec := t.si.tec, state := t.si.state, phase := .interspace
          spaces := 0, guardWait := t.si.guardWait, bitPos := c.sampleTicks, found := none
          recovery := t.si.recovery, recoveryRun := t.si.recoveryRun }
        du := { s.node.du with probe := t.du.probe }, mh := t.mh, rh := { s.node.rh with notices := t.rh.notices } })
    ∧ Yields .messageFailed s fun t =>
      t.si.onCarrier = none ∧ t.si.sendFailed = Counter.bump s.node.si.sendFailed
      ∧ t.si.phase = .recovering ∧ t.si.spaces = (if o.failed = true then s.node.si.spaces else 0)
      ∧ t.si.state = s.node.si.state ∧ t.si.tec = s.node.si.tec
      ∧ t.si.guardWait = (if s.node.si.state = .guarded then some 8 else none)
      ∧ (o.place = .announce → t.mh = { s.node.mh with announce := false } ∧ t.du = s.node.du)
      ∧ (o.place = .probe → t.mh = { s.node.mh with probe := none }
          ∧ t.du = { s.node.du with probeAbandoned := Counter.bump s.node.du.probeAbandoned })
      ∧ (o.place = .reply → t.mh = { s.node.mh with replies := s.node.mh.replies.tail } ∧ t.du = s.node.du)
      ∧ (o.place = .controlReply → t.mh = { s.node.mh with controlReply := none } ∧ t.du = s.node.du)
      ∧ (∀ i, o.place = .slot i → t.mh = s.node.mh.setSlot i .failed ∧ t.rh.isPending 14 = true
          ∧ t.du = s.node.du)
      ∧ (∀ k, t.rh.isPending k = true ↔ s.node.rh.isPending k = true ∨ k = 14 ∧ ∃ i, o.place = .slot i)
      ∧ t = { s.node with
        si := { s.node.si with
          onCarrier := none, sendFailed := t.si.sendFailed, phase := .recovering, spaces := t.si.spaces
          guardWait := t.si.guardWait, found := none }
        du := { s.node.du with probeAbandoned := t.du.probeAbandoned }, mh := t.mh
        rh := { s.node.rh with notices := t.rh.notices } }

/-- SERVICE_ERROR where SI can find it: an error in the node's own message adds 4 to TEC (a no-acknowledge error only
below 96), one of a receiver 1 to REC unless SILENCED, both at most 255; it is counted by its kind, the own message is
marked failed, the node waits for 10 spaces, an ACTIVE one not made SILENCED by it with a burst of 8 marks from the
next bit on, or two bits later after a check error, the next bit having begun already where an edge ended the bit at
its sample; and the state follows the counts with its notices. Which error it was is the operand's word, or what the
sample found (log entries 15, 17 and 36). -/
def Obligations.ServiceError : Prop :=
  ∀ (s : State) (c : Settled) (k : CarrierError), s.node.Works c → s.node.si.canErr k = true →
    Yields (.serviceError k) s fun t =>
      t.si.tec = (if s.node.si.onCarrier = none ∨ (k = .noAck ∧ 96 ≤ s.node.si.tec) then s.node.si.tec
        else min 255 (s.node.si.tec + 4))
      ∧ t.si.recCount = (if s.node.si.onCarrier ≠ none ∨ s.node.si.state = .silenced then s.node.si.recCount
        else min 255 (s.node.si.recCount + 1))
      ∧ t.si.echoErrors = (if k = .echo then Counter.bump s.node.si.echoErrors else s.node.si.echoErrors)
      ∧ t.si.symbolErrors = (if k = .symbol then Counter.bump s.node.si.symbolErrors else s.node.si.symbolErrors)
      ∧ t.si.checkErrors = (if k = .check then Counter.bump s.node.si.checkErrors else s.node.si.checkErrors)
      ∧ t.si.noAckErrors = (if k = .noAck then Counter.bump s.node.si.noAckErrors else s.node.si.noAckErrors)
      ∧ (∀ o, s.node.si.onCarrier = some o → t.si.onCarrier = some { o with failed := true })
      ∧ t.si.phase = .recovering ∧ t.si.spaces = 0 ∧ t.si.rxStamp = none
      ∧ (s.node.si.state = .active → s.node.si.listenOnly = false → t.si.state ≠ .silenced →
          t.si.burst = 8
          ∧ t.si.burstWait = (if k = .check then 3 else 1) - (if s.node.si.bitEnded c = true then 1 else 0)
          ∧ (s.node.si.bitEnded c = true → t.si.tx = decide (k = .check)))
      ∧ (s.node.si.burst = 0 → (s.node.si.state ≠ .active ∨ s.node.si.listenOnly = true ∨ t.si.state = .silenced) →
          t.si.burst = 0 ∧ (s.node.si.bitEnded c = true → t.si.tx = true))
      ∧ (s.node.si.bitEnded c = false → t.si.tx = s.node.si.tx)
      ∧ t.si.bitPos = (if s.node.si.found = none then c.sampleTicks else s.node.si.bitPos)
      ∧ (s.node.si.state = .silenced → t.si.state = .silenced)
      ∧ (s.node.si.state ≠ .silenced →
          t.si.state = (if 192 ≤ t.si.tec then .silenced
            else if 96 ≤ t.si.tec ∨ 96 ≤ t.si.recCount then .guarded else .active)
          ∧ (t.si.state ≠ s.node.si.state → t.rh.isPending 12 = true)
          ∧ (t.si.state = .silenced → t.rh.isPending 15 = true))
      ∧ t = { s.node with si := t.si, rh := { s.node.rh with notices := t.rh.notices } }

/-- The ends of SI's waits. GUARDED_WAIT_END after the 8th space; SILENCED_RECOVERY at a recovery count of 48 returns
to ACTIVE with counts 0 and SERVICE_STATE; INTEGRATION_END after 10 spaces brings ACTIVE with the carrier idle;
LISTEN_ONLY_EFFECT on an idle carrier gives the pending value effect, which node 15 keeps set, and a set flag empties
the ANNOUNCE and PROBE places of messages not started. When such a message has started, and up to when the carrier is
idle, are the model's choices (log entries 54 and 56), and so is that the recovery's idle point gives up a message still
being received (log entry 58). -/
def Obligations.CarrierWaits : Prop :=
  ∀ s : State, s.node.rstLow = false →
    (s.node.si.guardWait = some 0 → Yields .guardedWaitEnd s fun t =>
      t = { s.node with si := { s.node.si with guardWait := none } })
    ∧ (s.node.si.state = .silenced → 48 ≤ s.node.si.recovery → Yields .silencedRecovery s fun t =>
      t.si = { s.node.si with
        state := .active, tec := 0, recCount := 0, recovery := 0, recoveryRun := 0, phase := .idle, spaces := 0
        rxStamp := none, found := none }
      ∧ t.rh.isPending 12 = true
      ∧ t = { s.node with si := t.si, rh := { s.node.rh with notices := t.rh.notices } })
    ∧ (s.node.si.state = .integrating → 10 ≤ s.node.si.spaces → Yields .integrationEnd s fun t =>
      t = { s.node with si := { s.node.si with state := .active, phase := .idle, spaces := 0 } })
    ∧ (∀ v, s.node.isIdle = true → s.node.rh.pending.listenOnly = some v →
      Yields .listenOnlyEffect s fun t =>
        t.si = { s.node.si with listenOnly := v || s.node.rh.straps.node == 15 }
        ∧ t.rh = { s.node.rh with pending := { s.node.rh.pending with listenOnly := none } }
        ∧ (t.si.listenOnly = true → t.mh = { s.node.mh with announce := false, probe := none })
        ∧ (t.si.listenOnly = false → t.mh = s.node.mh)
        ∧ t = { s.node with si := t.si, rh := t.rh, mh := t.mh })

/-! ## Messages -/

/-- DELAY_PROBE_RECEIVED for the node: under listen-only or SILENCED counted unanswered, with 4 replies queued counted
REPLY_QUEUE_FULL, else a reply to its requester joins the queue with the probe's start stamp as t2; the oldest reply is
offered under the key of requester and replier with t2 and, as t3, the E of its start mark. A probe for another node,
and a message that fails, file nothing. (ACTIVE and GUARDED have TEC below 192: StepKeepsRoles.) -/
def Obligations.DelayProbeReceived : Prop :=
  ∀ (s : State) (c : Settled) (key : Key) (stamp : Word32) (marked : Bool), s.node.Receives c → isGood 2 key [] = true →
    (Sys2Proof.Machine.Key.first key ≠ s.node.rh.straps.node →
      Yields (.delayProbeReceived key [] ⟨stamp, marked⟩) s fun t => t.mh = s.node.mh)
    ∧ (Sys2Proof.Machine.Key.first key = s.node.rh.straps.node →
      ((s.node.si.listenOnly = true ∨ s.node.si.state = .silenced) →
        Yields (.delayProbeReceived key [] ⟨stamp, marked⟩) s fun t =>
          t.mh = { s.node.mh with probesUnanswered := Counter.bump s.node.mh.probesUnanswered })
      ∧ (s.node.si.listenOnly = false → s.node.si.state ≠ .silenced → s.node.si.tec < 192 →
        4 ≤ s.node.mh.replies.length →
        Yields (.delayProbeReceived key [] ⟨stamp, marked⟩) s fun t =>
          t.mh = { s.node.mh with replyQueueFull := Counter.bump s.node.mh.replyQueueFull })
      ∧ (s.node.si.listenOnly = false → s.node.si.state ≠ .silenced → s.node.si.tec < 192 →
        s.node.mh.replies.length < 4 →
        Yields (.delayProbeReceived key [] ⟨stamp, marked⟩) s fun t =>
          t.mh = { s.node.mh with
            replies := s.node.mh.replies ++ [⟨Sys2Proof.Machine.Key.second key, s.node.stampOf stamp⟩] }))
    ∧ (∀ r rest, s.node.mh.replies = r :: rest → ∃ o, s.node.replyOffer = [o]
        ∧ Sys2Proof.Key.kind o.key = 3 ∧ Sys2Proof.Machine.Key.first o.key = r.requester
        ∧ Sys2Proof.Machine.Key.second o.key = s.node.rh.straps.node
        ∧ o.payload = u32 r.t2.toNat ++ u32 s.node.tb.e.toNat)
    ∧ (∀ k, Yields (.serviceError k) s fun t => t.mh = s.node.mh)

/-- CONTROL_RECEIVED for the node or for 15: with a reply waiting counted CONTROL_BUSY with no other effect; else the
request is carried out as from the mailbox (STATUS answered with its summary, any kind but ADJUST, STATUS and
SOFT_RESET UNKNOWN_KIND) and its reply placed, or under listen-only counted unreplied. Any other CONTROL has no effect
but that SI counts it. One that is taken while the node's own CONTROL_REPLY is on the carrier, before its end, is
counted and is CONTROL_BUSY, and the reply goes on. A remote STATUS is answered with the section's summary (Snapshots)
as it stood, and its clear flag clears that section's counters, with the store's low-water mark in the lanes section;
nothing else changes but the model's count of free bytes; its refusals are those of the mailbox. A remote ADJUST and a
remote SOFT_RESET do and answer what the mailbox's do (Adjust, SoftReset). That SI counts the CONTROL before its request
is carried out, that the reply of a node strapped as 15 to a SOFT_RESET is counted unreplied as under any listen-only
flag, and that a STATUS tests the length and the section before the lifecycle, are the model's choices (log entries 57,
52 and 20). -/
def Obligations.ControlReceived : Prop :=
  (∀ (s : State) (c : Settled) (key : Key) (kind : Byte) (body : List Byte) (stamp : Word32) (marked : Bool),
     isGood 4 key (kind :: body) = true →
     (s.node.Receives c →
       (Sys2Proof.Machine.Key.first key ≠ s.node.rh.straps.node → Sys2Proof.Machine.Key.first key ≠ 15 →
         Yields (.controlReceived key (kind :: body) ⟨stamp, marked⟩) s fun t =>
           t = s.node.received c key (kind :: body) marked)
       ∧ s.node.received c key (kind :: body) marked = { s.node with
           si := (s.node.received c key (kind :: body) marked).si
           rh := { s.node.rh with notices := (s.node.received c key (kind :: body) marked).rh.notices } }
       ∧ (s.node.received c key (kind :: body) marked).si.receivedOk = Counter.bump s.node.si.receivedOk
       ∧ ((Sys2Proof.Machine.Key.first key = s.node.rh.straps.node ∨ Sys2Proof.Machine.Key.first key = 15) →
         (s.node.mh.controlReply ≠ none → Yields (.controlReceived key (kind :: body) ⟨stamp, marked⟩) s fun t =>
           t = { s.node.received c key (kind :: body) marked with
             mh := { s.node.mh with controlBusy := Counter.bump s.node.mh.controlBusy } })
         ∧ (s.node.mh.controlReply = none → ∀ n r,
             ((kind = 2 ∧ (n, r) = (s.node.received c key (kind :: body) marked).adjust body)
               ∨ (kind = 5 ∧ (n, r) = (s.node.received c key (kind :: body) marked).remoteStatus body)
               ∨ (kind = 7 ∧ (n, r) = (s.node.received c key (kind :: body) marked).softResetRequest body)
               ∨ (kind ≠ 2 ∧ kind ≠ 5 ∧ kind ≠ 7
                 ∧ (n, r) = (s.node.received c key (kind :: body) marked, ⟨.unknownKind, []⟩))) →
             Yields (.controlReceived key (kind :: body) ⟨stamp, marked⟩) s fun t =>
               (n.si.listenOnly = false → t = { n with mh := { n.mh with
                 controlReply := some ⟨Sys2Proof.Machine.Key.second key, r.code.byte :: r.body⟩ } })
               ∧ (n.si.listenOnly = true → t = { n with mh := { n.mh with
                 controlUnreplied := Counter.bump n.mh.controlUnreplied } }))))
     ∧ (∀ o, s.node.rstLow = false → s.node.si.state.isOn = true → s.node.si.onCarrier = some o →
         o.place = .controlReply → s.node.mh.controlReply ≠ none →
         (Sys2Proof.Machine.Key.first key = s.node.rh.straps.node ∨ Sys2Proof.Machine.Key.first key = 15) →
         Yields (.controlReceived key (kind :: body) ⟨stamp, marked⟩) s fun t =>
           t.mh = { s.node.mh with controlBusy := Counter.bump s.node.mh.controlBusy }
           ∧ t.si.onCarrier = some o ∧ t.si.receivedOk = Counter.bump s.node.si.receivedOk
           ∧ t.si.recCount = (if s.node.si.state = .silenced then s.node.si.recCount else s.node.si.recCount - 1)
           ∧ t = { s.node with si := t.si, mh := t.mh, rh := { s.node.rh with notices := t.rh.notices } }))
  ∧ (∀ (b : Node) (body : List Byte),
    (body.length ≠ 2 → b.remoteStatus body = (b, ⟨.badLength, []⟩))
    ∧ ∀ k flag : Byte, body = [k, flag] →
      ((k = 0 ∨ 6 < k.toNat) → b.remoteStatus body = (b, ⟨.refusedRange, []⟩))
      ∧ (2 ≤ k.toNat → k.toNat ≤ 6 → b.rh.lifecycle = .unsettled →
          b.remoteStatus body = (b, ⟨.refusedState, []⟩))
      ∧ (1 ≤ k.toNat → k.toNat ≤ 6 → (b.rh.lifecycle ≠ .unsettled ∨ k = 1) → ∃ t,
          b.remoteStatus body = (t, ⟨.done, b.summary k.toNat⟩)
          ∧ (flag = 0 → t = { b with freeIdx := t.freeIdx })
          ∧ (flag ≠ 0 → ∀ x ∈ t.counters k.toNat, x = 0)
          ∧ (∀ j, j ≠ k.toNat → t.counters j = b.counters j)
          ∧ t.ss.lowWater = (if k = 3 ∧ flag ≠ 0 then b.ss.freeCount else b.ss.lowWater)
          ∧ b.OnlyCleared t))
  ∧ ∀ (s : State) (addr : BitVec 7) (body : List Byte), s.node.Hears addr body →
    Yields (.adjust addr body) s (fun t =>
      t = (s.node.adjust body).1.setMailbox (.held (s.node.adjust body).2))
    ∧ Yields (.softReset addr body) s fun t =>
      t = (s.node.softResetRequest body).1.setMailbox (.held (s.node.softResetRequest body).2)

/-- CONTROL_REPLY_RECEIVED, UNUSABLE_KIND, BAD_FORM and USER_MAIL_FILED: each correct message of its kind lowers REC
unless SILENCED and is counted, and no block but SI and MH changes, but for notices; a reply is discarded, the next two
are counted, and user mail goes to the lowest EMPTY slot its key matches, else over the highest match, else it is
counted unmatched. -/
def Obligations.OtherMessagesReceived : Prop :=
  ∀ (s : State) (c : Settled) (key : Key) (payload : List Byte) (stamp : Word32) (marked : Bool), s.node.Receives c →
    (∀ i ∈ [Instr.controlReplyReceived key payload ⟨stamp, marked⟩, .unusableKind key payload ⟨stamp, marked⟩,
        .badForm key payload ⟨stamp, marked⟩, .userMailFiled key payload ⟨stamp, marked⟩],
      i.wellFormed = true → Yields i s fun t =>
        t.si.receivedOk = Counter.bump s.node.si.receivedOk
        ∧ t.si.recCount = (if s.node.si.state = .silenced then s.node.si.recCount else s.node.si.recCount - 1)
        ∧ t = { s.node with si := t.si, mh := t.mh, rh := { s.node.rh with notices := t.rh.notices } })
    ∧ (isGood 5 key payload = true → Yields (.controlReplyReceived key payload ⟨stamp, marked⟩) s fun t =>
      t.mh = s.node.mh)
    ∧ (Sys2Proof.Key.kind key = 0 → payload.length ≤ 16 → Yields (.unusableKind key payload ⟨stamp, marked⟩) s fun t =>
      t.mh = { s.node.mh with unusableKind := Counter.bump s.node.mh.unusableKind })
    ∧ (1 ≤ Sys2Proof.Key.kind key → Sys2Proof.Key.kind key ≤ 5 → payload.length ≤ 16 →
      goodForm key payload = false → Yields (.badForm key payload ⟨stamp, marked⟩) s fun t =>
        t.mh = { s.node.mh with badForm := Counter.bump s.node.mh.badForm })
    ∧ (6 ≤ Sys2Proof.Key.kind key → payload.length ≤ 16 →
      (∀ i, i < s.node.mh.slots.length → (s.node.mh.slot i).defn.accepts key = true →
          (s.node.mh.slot i).state = .empty →
          (∀ j, j < i → ¬ ((s.node.mh.slot j).defn.accepts key = true ∧ (s.node.mh.slot j).state = .empty)) →
          Yields (.userMailFiled key payload ⟨stamp, marked⟩) s fun t =>
            t.mh = s.node.mh.setSlot i (.full ⟨key, payload, s.node.stampOf stamp⟩)
            ∧ t.rh.isPending 13 = true)
      ∧ (∀ i, i < s.node.mh.slots.length → (s.node.mh.slot i).defn.accepts key = true →
          (∀ j, i < j → (s.node.mh.slot j).defn.accepts key = false) →
          (∀ j, (s.node.mh.slot j).defn.accepts key = true → (s.node.mh.slot j).state ≠ .empty) →
          Yields (.userMailFiled key payload ⟨stamp, marked⟩) s fun t =>
            t.mh = { s.node.mh.setSlot i (.overrun ⟨key, payload, s.node.stampOf stamp⟩) with
              mailOverrun := Counter.bump s.node.mh.mailOverrun }
            ∧ t.rh.isPending 13 = true)
      ∧ ((∀ j, (s.node.mh.slot j).defn.accepts key = false) →
          Yields (.userMailFiled key payload ⟨stamp, marked⟩) s fun t =>
          t.mh = { s.node.mh with mailUnmatched := Counter.bump s.node.mh.mailUnmatched }))

/-! ## Formats -/

/-- Formats are read back as they are written. What a receiver reads of a sent message, taken whole or bit by bit, is
its key and payload, for every key and every payload of up to 16 bytes: start mark, stuff bits, length, check,
acknowledge slot and end field. So are the 16 header bytes of a segment, and the 14 payload bytes of an ANNOUNCE. -/
def Obligations.RoundTrips : Prop :=
  (∀ (key : Key) (payload : List Byte), payload.length ≤ 16 →
     receiveBits (stuff 0 true (stuffedPart key payload)) = .ok (key, payload))
  ∧ (∀ (key : Key) (payload : List Byte) (marked : Bool), payload.length ≤ 16 →
       ∃ r, (carrierBits key payload marked).foldlM (fun r b => Reading.take b r) Reading.empty = .ok r
         ∧ r.content = .ok (key, payload) ∧ r.tail = 9 ∧ r.marked = marked)
  ∧ ((∀ h : SegHeader, h.line < 65536 → h.length < 65536 → (∀ t, h.timecode = some t → t.hours.toNat < 128) →
       h.bytes.length = 16 ∧ SegHeader.ofBytes h.bytes = h)
     ∧ (∀ a : AnnounceBody, a.timecode.hours.toNat < 128 →
       a.bytes.length = 14 ∧ AnnounceBody.ofBytes a.bytes = a))

/-! ## Invariants -/

/-- Every step keeps the bounds: Q and I within ±1,023, the history, table, queues and schedules within their sizes, a
valid delay estimate within 4,095, the stray run below 8 and TEC and REC within 255, and an IDLE engine empty. -/
def Obligations.StepKeepsBounds : Prop :=
  ∀ s s' : State, s.node.Bounded → step s = .next s' → s'.node.Bounded

/-- Every step keeps the blocks that do not work in the node's role, or before the first accepted SETTLE, at rest; TEC
is 0 until SI has integrated and below 192 in ACTIVE and GUARDED. -/
def Obligations.StepKeepsRoles : Prop :=
  ∀ s s' : State, s.node.RoleFit → step s = .next s' → s'.node.RoleFit

/-- Every step keeps the store's accounts: each buffer's count is the number of records, descriptors and hold slots
that name it, a buffer being filled belongs to its one owner, and the queued ones are QUEUED and distinct. Recounting
the holders at the end of each event is the model's reading (log entry 26). In such a state every buffer that LU's
line, its launch queue, a lane, a record, a descriptor or a hold slot names is one of the store's. -/
def Obligations.StepKeepsStore : Prop :=
  (∀ s s' : State, s.node.StoreExact → step s = .next s' → s'.node.StoreExact)
  ∧ ∀ n : Node, n.StoreExact →
    (∀ b, n.lu.line = .filling b → b < n.ss.bufs.length)
    ∧ (∀ g ∈ n.lu.queue, g.buf < n.ss.bufs.length)
    ∧ (∀ p b, (n.lane p).seg.buffer = some b → b < n.ss.bufs.length)
    ∧ ∀ b, 0 < refCount n.se n.ou b → b < n.ss.bufs.length

/-- The three invariants hold at reset, for every strapping. -/
def Obligations.InvariantsAtReset : Prop :=
  (State.reset.node.Bounded ∧ State.reset.node.RoleFit ∧ State.reset.node.StoreExact)
  ∧ ∀ (straps : Straps) (pins : Pins) (k : Nat),
      (Node.powerOn straps pins k).Bounded ∧ (Node.powerOn straps pins k).RoleFit
      ∧ (Node.powerOn straps pins k).StoreExact
end

