-- ==== Sys2Proof/Laws/State.lean ====
section
/-! SUPPORT. The fields of the block after each named update: one lemma per field and update, so that no proof unfolds a
record update. -/

namespace Sys2Proof.Machine

/-! ## A notice raised -/

@[simp] theorem Node.raise_tb (n : Node) (src : Source) : (n.raise src).tb = n.tb := rfl
@[simp] theorem Node.raise_du (n : Node) (src : Source) : (n.raise src).du = n.du := rfl
@[simp] theorem Node.raise_sg (n : Node) (src : Source) : (n.raise src).sg = n.sg := rfl
@[simp] theorem Node.raise_ss (n : Node) (src : Source) : (n.raise src).ss = n.ss := rfl
@[simp] theorem Node.raise_lu (n : Node) (src : Source) : (n.raise src).lu = n.lu := rfl
@[simp] theorem Node.raise_rl (n : Node) (src : Source) : (n.raise src).rl = n.rl := rfl
@[simp] theorem Node.raise_se (n : Node) (src : Source) : (n.raise src).se = n.se := rfl
@[simp] theorem Node.raise_ou (n : Node) (src : Source) : (n.raise src).ou = n.ou := rfl
@[simp] theorem Node.raise_si (n : Node) (src : Source) : (n.raise src).si = n.si := rfl
@[simp] theorem Node.raise_mh (n : Node) (src : Source) : (n.raise src).mh = n.mh := rfl
@[simp] theorem Node.raise_pins (n : Node) (src : Source) : (n.raise src).pins = n.pins := rfl
@[simp] theorem Node.raise_rstLow (n : Node) (src : Source) : (n.raise src).rstLow = n.rstLow := rfl
@[simp] theorem Node.raise_freeIdx (n : Node) (src : Source) : (n.raise src).freeIdx = n.freeIdx := rfl
@[simp] theorem Node.raise_rh_straps (n : Node) (src : Source) : (n.raise src).rh.straps = n.rh.straps := rfl
@[simp] theorem Node.raise_rh_lifecycle (n : Node) (src : Source) : (n.raise src).rh.lifecycle = n.rh.lifecycle := rfl
@[simp] theorem Node.raise_rh_joining (n : Node) (src : Source) : (n.raise src).rh.joining = n.rh.joining := rfl
@[simp] theorem Node.raise_rh_settled (n : Node) (src : Source) : (n.raise src).rh.settled = n.rh.settled := rfl
@[simp] theorem Node.raise_rh_runtime (n : Node) (src : Source) : (n.raise src).rh.runtime = n.rh.runtime := rfl
@[simp] theorem Node.raise_rh_pending (n : Node) (src : Source) : (n.raise src).rh.pending = n.rh.pending := rfl
@[simp] theorem Node.raise_rh_levels (n : Node) (src : Source) : (n.raise src).rh.levels = n.rh.levels := rfl
@[simp] theorem Node.raise_rh_mailbox (n : Node) (src : Source) : (n.raise src).rh.mailbox = n.rh.mailbox := rfl
@[simp] theorem Node.raise_rh_busRead (n : Node) (src : Source) : (n.raise src).rh.busRead = n.rh.busRead := rfl
@[simp] theorem Node.raise_rh_notices (n : Node) (src : Source) :
    (n.raise src).rh.notices = raiseBit n.rh.notices src.num := rfl

/-! ## A notice raised on a condition -/

@[simp] theorem Node.raiseIf_tb (n : Node) (c : Bool) (src : Source) : (n.raiseIf c src).tb = n.tb := by
  cases c <;> rfl
@[simp] theorem Node.raiseIf_du (n : Node) (c : Bool) (src : Source) : (n.raiseIf c src).du = n.du := by
  cases c <;> rfl
@[simp] theorem Node.raiseIf_sg (n : Node) (c : Bool) (src : Source) : (n.raiseIf c src).sg = n.sg := by
  cases c <;> rfl
@[simp] theorem Node.raiseIf_ss (n : Node) (c : Bool) (src : Source) : (n.raiseIf c src).ss = n.ss := by
  cases c <;> rfl
@[simp] theorem Node.raiseIf_lu (n : Node) (c : Bool) (src : Source) : (n.raiseIf c src).lu = n.lu := by
  cases c <;> rfl
@[simp] theorem Node.raiseIf_rl (n : Node) (c : Bool) (src : Source) : (n.raiseIf c src).rl = n.rl := by
  cases c <;> rfl
@[simp] theorem Node.raiseIf_se (n : Node) (c : Bool) (src : Source) : (n.raiseIf c src).se = n.se := by
  cases c <;> rfl
@[simp] theorem Node.raiseIf_ou (n : Node) (c : Bool) (src : Source) : (n.raiseIf c src).ou = n.ou := by
  cases c <;> rfl
@[simp] theorem Node.raiseIf_si (n : Node) (c : Bool) (src : Source) : (n.raiseIf c src).si = n.si := by
  cases c <;> rfl
@[simp] theorem Node.raiseIf_mh (n : Node) (c : Bool) (src : Source) : (n.raiseIf c src).mh = n.mh := by
  cases c <;> rfl
@[simp] theorem Node.raiseIf_pins (n : Node) (c : Bool) (src : Source) : (n.raiseIf c src).pins = n.pins := by
  cases c <;> rfl
@[simp] theorem Node.raiseIf_rstLow (n : Node) (c : Bool) (src : Source) : (n.raiseIf c src).rstLow = n.rstLow := by
  cases c <;> rfl
@[simp] theorem Node.raiseIf_freeIdx (n : Node) (c : Bool) (src : Source) :
    (n.raiseIf c src).freeIdx = n.freeIdx := by
  cases c <;> rfl
@[simp] theorem Node.raiseIf_rh_straps (n : Node) (c : Bool) (src : Source) :
    (n.raiseIf c src).rh.straps = n.rh.straps := by
  cases c <;> rfl
@[simp] theorem Node.raiseIf_rh_lifecycle (n : Node) (c : Bool) (src : Source) :
    (n.raiseIf c src).rh.lifecycle = n.rh.lifecycle := by
  cases c <;> rfl
@[simp] theorem Node.raiseIf_rh_joining (n : Node) (c : Bool) (src : Source) :
    (n.raiseIf c src).rh.joining = n.rh.joining := by
  cases c <;> rfl
@[simp] theorem Node.raiseIf_rh_settled (n : Node) (c : Bool) (src : Source) :
    (n.raiseIf c src).rh.settled = n.rh.settled := by
  cases c <;> rfl
@[simp] theorem Node.raiseIf_rh_runtime (n : Node) (c : Bool) (src : Source) :
    (n.raiseIf c src).rh.runtime = n.rh.runtime := by
  cases c <;> rfl
@[simp] theorem Node.raiseIf_rh_pending (n : Node) (c : Bool) (src : Source) :
    (n.raiseIf c src).rh.pending = n.rh.pending := by
  cases c <;> rfl
@[simp] theorem Node.raiseIf_rh_levels (n : Node) (c : Bool) (src : Source) :
    (n.raiseIf c src).rh.levels = n.rh.levels := by
  cases c <;> rfl
@[simp] theorem Node.raiseIf_rh_mailbox (n : Node) (c : Bool) (src : Source) :
    (n.raiseIf c src).rh.mailbox = n.rh.mailbox := by
  cases c <;> rfl
@[simp] theorem Node.raiseIf_rh_busRead (n : Node) (c : Bool) (src : Source) :
    (n.raiseIf c src).rh.busRead = n.rh.busRead := by
  cases c <;> rfl
@[simp] theorem Node.raiseIf_rh_notices (n : Node) (c : Bool) (src : Source) :
    (n.raiseIf c src).rh.notices = if c then raiseBit n.rh.notices src.num else n.rh.notices := by
  cases c <;> rfl

/-! ## The mailbox -/

@[simp] theorem Node.setMailbox_tb (m : Mailbox) (n : Node) : (n.setMailbox m).tb = n.tb := rfl
@[simp] theorem Node.setMailbox_du (m : Mailbox) (n : Node) : (n.setMailbox m).du = n.du := rfl
@[simp] theorem Node.setMailbox_sg (m : Mailbox) (n : Node) : (n.setMailbox m).sg = n.sg := rfl
@[simp] theorem Node.setMailbox_ss (m : Mailbox) (n : Node) : (n.setMailbox m).ss = n.ss := rfl
@[simp] theorem Node.setMailbox_lu (m : Mailbox) (n : Node) : (n.setMailbox m).lu = n.lu := rfl
@[simp] theorem Node.setMailbox_rl (m : Mailbox) (n : Node) : (n.setMailbox m).rl = n.rl := rfl
@[simp] theorem Node.setMailbox_se (m : Mailbox) (n : Node) : (n.setMailbox m).se = n.se := rfl
@[simp] theorem Node.setMailbox_ou (m : Mailbox) (n : Node) : (n.setMailbox m).ou = n.ou := rfl
@[simp] theorem Node.setMailbox_si (m : Mailbox) (n : Node) : (n.setMailbox m).si = n.si := rfl
@[simp] theorem Node.setMailbox_mh (m : Mailbox) (n : Node) : (n.setMailbox m).mh = n.mh := rfl
@[simp] theorem Node.setMailbox_pins (m : Mailbox) (n : Node) : (n.setMailbox m).pins = n.pins := rfl
@[simp] theorem Node.setMailbox_rstLow (m : Mailbox) (n : Node) : (n.setMailbox m).rstLow = n.rstLow := rfl
@[simp] theorem Node.setMailbox_freeIdx (m : Mailbox) (n : Node) : (n.setMailbox m).freeIdx = n.freeIdx := rfl
@[simp] theorem Node.setMailbox_rh_straps (m : Mailbox) (n : Node) : (n.setMailbox m).rh.straps = n.rh.straps := rfl
@[simp] theorem Node.setMailbox_rh_lifecycle (m : Mailbox) (n : Node) :
    (n.setMailbox m).rh.lifecycle = n.rh.lifecycle := rfl
@[simp] theorem Node.setMailbox_rh_joining (m : Mailbox) (n : Node) :
    (n.setMailbox m).rh.joining = n.rh.joining := rfl
@[simp] theorem Node.setMailbox_rh_settled (m : Mailbox) (n : Node) :
    (n.setMailbox m).rh.settled = n.rh.settled := rfl
@[simp] theorem Node.setMailbox_rh_runtime (m : Mailbox) (n : Node) :
    (n.setMailbox m).rh.runtime = n.rh.runtime := rfl
@[simp] theorem Node.setMailbox_rh_pending (m : Mailbox) (n : Node) :
    (n.setMailbox m).rh.pending = n.rh.pending := rfl
@[simp] theorem Node.setMailbox_rh_levels (m : Mailbox) (n : Node) : (n.setMailbox m).rh.levels = n.rh.levels := rfl
@[simp] theorem Node.setMailbox_rh_notices (m : Mailbox) (n : Node) :
    (n.setMailbox m).rh.notices = n.rh.notices := rfl
@[simp] theorem Node.setMailbox_rh_busRead (m : Mailbox) (n : Node) :
    (n.setMailbox m).rh.busRead = n.rh.busRead := rfl
@[simp] theorem Node.setMailbox_rh_mailbox (m : Mailbox) (n : Node) : (n.setMailbox m).rh.mailbox = m := rfl

/-! ## Pin levels -/

@[simp] theorem Node.seeReady_tb (v : Bool) (n : Node) : (n.seeReady v).tb = n.tb := rfl
@[simp] theorem Node.seeReady_du (v : Bool) (n : Node) : (n.seeReady v).du = n.du := rfl
@[simp] theorem Node.seeReady_sg (v : Bool) (n : Node) : (n.seeReady v).sg = n.sg := rfl
@[simp] theorem Node.seeReady_ss (v : Bool) (n : Node) : (n.seeReady v).ss = n.ss := rfl
@[simp] theorem Node.seeReady_lu (v : Bool) (n : Node) : (n.seeReady v).lu = n.lu := rfl
@[simp] theorem Node.seeReady_rl (v : Bool) (n : Node) : (n.seeReady v).rl = n.rl := rfl
@[simp] theorem Node.seeReady_se (v : Bool) (n : Node) : (n.seeReady v).se = n.se := rfl
@[simp] theorem Node.seeReady_ou (v : Bool) (n : Node) : (n.seeReady v).ou = n.ou := rfl
@[simp] theorem Node.seeReady_si (v : Bool) (n : Node) : (n.seeReady v).si = n.si := rfl
@[simp] theorem Node.seeReady_mh (v : Bool) (n : Node) : (n.seeReady v).mh = n.mh := rfl
@[simp] theorem Node.seeReady_rh (v : Bool) (n : Node) : (n.seeReady v).rh = n.rh := rfl
@[simp] theorem Node.seeReady_pins (v : Bool) (n : Node) : (n.seeReady v).pins = { n.pins with pready := v } := rfl
@[simp] theorem Node.seeReady_rstLow (v : Bool) (n : Node) : (n.seeReady v).rstLow = n.rstLow := rfl
@[simp] theorem Node.seeReady_freeIdx (v : Bool) (n : Node) : (n.seeReady v).freeIdx = n.freeIdx := rfl
@[simp] theorem Node.seeCarrier_tb (p : Fin 4) (v : Bool) (n : Node) : (n.seeCarrier p v).tb = n.tb := rfl
@[simp] theorem Node.seeCarrier_du (p : Fin 4) (v : Bool) (n : Node) : (n.seeCarrier p v).du = n.du := rfl
@[simp] theorem Node.seeCarrier_sg (p : Fin 4) (v : Bool) (n : Node) : (n.seeCarrier p v).sg = n.sg := rfl
@[simp] theorem Node.seeCarrier_ss (p : Fin 4) (v : Bool) (n : Node) : (n.seeCarrier p v).ss = n.ss := rfl
@[simp] theorem Node.seeCarrier_lu (p : Fin 4) (v : Bool) (n : Node) : (n.seeCarrier p v).lu = n.lu := rfl
@[simp] theorem Node.seeCarrier_rl (p : Fin 4) (v : Bool) (n : Node) : (n.seeCarrier p v).rl = n.rl := rfl
@[simp] theorem Node.seeCarrier_se (p : Fin 4) (v : Bool) (n : Node) : (n.seeCarrier p v).se = n.se := rfl
@[simp] theorem Node.seeCarrier_ou (p : Fin 4) (v : Bool) (n : Node) : (n.seeCarrier p v).ou = n.ou := rfl
@[simp] theorem Node.seeCarrier_si (p : Fin 4) (v : Bool) (n : Node) : (n.seeCarrier p v).si = n.si := rfl
@[simp] theorem Node.seeCarrier_mh (p : Fin 4) (v : Bool) (n : Node) : (n.seeCarrier p v).mh = n.mh := rfl
@[simp] theorem Node.seeCarrier_rh (p : Fin 4) (v : Bool) (n : Node) : (n.seeCarrier p v).rh = n.rh := rfl
@[simp] theorem Node.seeCarrier_pins (p : Fin 4) (v : Bool) (n : Node) :
    (n.seeCarrier p v).pins = { n.pins with cp := n.pins.cp.set p v } := rfl
@[simp] theorem Node.seeCarrier_rstLow (p : Fin 4) (v : Bool) (n : Node) : (n.seeCarrier p v).rstLow = n.rstLow := rfl
@[simp] theorem Node.seeCarrier_freeIdx (p : Fin 4) (v : Bool) (n : Node) :
    (n.seeCarrier p v).freeIdx = n.freeIdx := rfl

@[simp] theorem Node.seePins_tb (cp : PlaneSet) (v : Bool) (n : Node) : (n.seePins cp v).tb = n.tb := rfl
@[simp] theorem Node.seePins_du (cp : PlaneSet) (v : Bool) (n : Node) : (n.seePins cp v).du = n.du := rfl
@[simp] theorem Node.seePins_sg (cp : PlaneSet) (v : Bool) (n : Node) : (n.seePins cp v).sg = n.sg := rfl
@[simp] theorem Node.seePins_ss (cp : PlaneSet) (v : Bool) (n : Node) : (n.seePins cp v).ss = n.ss := rfl
@[simp] theorem Node.seePins_lu (cp : PlaneSet) (v : Bool) (n : Node) : (n.seePins cp v).lu = n.lu := rfl
@[simp] theorem Node.seePins_rl (cp : PlaneSet) (v : Bool) (n : Node) : (n.seePins cp v).rl = n.rl := rfl
@[simp] theorem Node.seePins_se (cp : PlaneSet) (v : Bool) (n : Node) : (n.seePins cp v).se = n.se := rfl
@[simp] theorem Node.seePins_ou (cp : PlaneSet) (v : Bool) (n : Node) : (n.seePins cp v).ou = n.ou := rfl
@[simp] theorem Node.seePins_si (cp : PlaneSet) (v : Bool) (n : Node) : (n.seePins cp v).si = n.si := rfl
@[simp] theorem Node.seePins_mh (cp : PlaneSet) (v : Bool) (n : Node) : (n.seePins cp v).mh = n.mh := rfl
@[simp] theorem Node.seePins_rh (cp : PlaneSet) (v : Bool) (n : Node) : (n.seePins cp v).rh = n.rh := rfl
@[simp] theorem Node.seePins_rstLow (cp : PlaneSet) (v : Bool) (n : Node) : (n.seePins cp v).rstLow = n.rstLow := rfl
@[simp] theorem Node.seePins_freeIdx (cp : PlaneSet) (v : Bool) (n : Node) : (n.seePins cp v).freeIdx = n.freeIdx := rfl
@[simp] theorem Node.seePins_pready (cp : PlaneSet) (v : Bool) (n : Node) : (n.seePins cp v).pins.pready = v := rfl
@[simp] theorem Node.seePins_svc (cp : PlaneSet) (v : Bool) (n : Node) :
    (n.seePins cp v).pins.svc = n.pins.svc := rfl
@[simp] theorem Node.seePins_cp (cp : PlaneSet) (v : Bool) (n : Node) (p : Fin 4) :
    (n.seePins cp v).pins.cp.get p = PlaneSet.has cp p := by
  fin_cases p <;> rfl

/-! ## The engine's state -/

@[simp] theorem Node.setEngine_tb (e : EngineState) (n : Node) : (n.setEngine e).tb = n.tb := rfl
@[simp] theorem Node.setEngine_du (e : EngineState) (n : Node) : (n.setEngine e).du = n.du := rfl
@[simp] theorem Node.setEngine_sg (e : EngineState) (n : Node) : (n.setEngine e).sg = n.sg := rfl
@[simp] theorem Node.setEngine_ss (e : EngineState) (n : Node) : (n.setEngine e).ss = n.ss := rfl
@[simp] theorem Node.setEngine_lu (e : EngineState) (n : Node) : (n.setEngine e).lu = n.lu := rfl
@[simp] theorem Node.setEngine_rl (e : EngineState) (n : Node) : (n.setEngine e).rl = n.rl := rfl
@[simp] theorem Node.setEngine_se (e : EngineState) (n : Node) : (n.setEngine e).se = { n.se with state := e } := rfl
@[simp] theorem Node.setEngine_ou (e : EngineState) (n : Node) : (n.setEngine e).ou = n.ou := rfl
@[simp] theorem Node.setEngine_si (e : EngineState) (n : Node) : (n.setEngine e).si = n.si := rfl
@[simp] theorem Node.setEngine_mh (e : EngineState) (n : Node) : (n.setEngine e).mh = n.mh := rfl
@[simp] theorem Node.setEngine_rh (e : EngineState) (n : Node) : (n.setEngine e).rh = n.rh := rfl
@[simp] theorem Node.setEngine_pins (e : EngineState) (n : Node) : (n.setEngine e).pins = n.pins := rfl
@[simp] theorem Node.setEngine_rstLow (e : EngineState) (n : Node) : (n.setEngine e).rstLow = n.rstLow := rfl
@[simp] theorem Node.setEngine_freeIdx (e : EngineState) (n : Node) : (n.setEngine e).freeIdx = n.freeIdx := rfl

/-! ## One lane changed -/

@[simp] theorem Node.onLane_tb (p : Fin 4) (f : Lane → Lane) (n : Node) : (n.onLane p f).tb = n.tb := rfl
@[simp] theorem Node.onLane_du (p : Fin 4) (f : Lane → Lane) (n : Node) : (n.onLane p f).du = n.du := rfl
@[simp] theorem Node.onLane_sg (p : Fin 4) (f : Lane → Lane) (n : Node) : (n.onLane p f).sg = n.sg := rfl
@[simp] theorem Node.onLane_ss (p : Fin 4) (f : Lane → Lane) (n : Node) : (n.onLane p f).ss = n.ss := rfl
@[simp] theorem Node.onLane_lu (p : Fin 4) (f : Lane → Lane) (n : Node) : (n.onLane p f).lu = n.lu := rfl
@[simp] theorem Node.onLane_rl (p : Fin 4) (f : Lane → Lane) (n : Node) :
    (n.onLane p f).rl = n.rl.set p (f (n.lane p)) := rfl
@[simp] theorem Node.onLane_se (p : Fin 4) (f : Lane → Lane) (n : Node) : (n.onLane p f).se = n.se := rfl
@[simp] theorem Node.onLane_ou (p : Fin 4) (f : Lane → Lane) (n : Node) : (n.onLane p f).ou = n.ou := rfl
@[simp] theorem Node.onLane_si (p : Fin 4) (f : Lane → Lane) (n : Node) : (n.onLane p f).si = n.si := rfl
@[simp] theorem Node.onLane_mh (p : Fin 4) (f : Lane → Lane) (n : Node) : (n.onLane p f).mh = n.mh := rfl
@[simp] theorem Node.onLane_rh (p : Fin 4) (f : Lane → Lane) (n : Node) : (n.onLane p f).rh = n.rh := rfl
@[simp] theorem Node.onLane_pins (p : Fin 4) (f : Lane → Lane) (n : Node) : (n.onLane p f).pins = n.pins := rfl
@[simp] theorem Node.onLane_rstLow (p : Fin 4) (f : Lane → Lane) (n : Node) : (n.onLane p f).rstLow = n.rstLow := rfl
@[simp] theorem Node.onLane_freeIdx (p : Fin 4) (f : Lane → Lane) (n : Node) :
    (n.onLane p f).freeIdx = n.freeIdx := rfl
@[simp] theorem Four.get_set_self {α : Type} (q : Four α) (p : Fin 4) (a : α) : (q.set p a).get p = a := by
  fin_cases p <;> rfl

theorem Four.get_set_of_ne {α : Type} (q : Four α) {p r : Fin 4} (a : α) (h : r ≠ p) :
    (q.set p a).get r = q.get r := by
  fin_cases p <;> fin_cases r <;> first | rfl | exact absurd rfl h

@[simp] theorem Node.onLane_lane_self (p : Fin 4) (f : Lane → Lane) (n : Node) :
    (n.onLane p f).lane p = f (n.lane p) :=
  Four.get_set_self _ _ _

theorem Node.onLane_lane_of_ne {p r : Fin 4} (f : Lane → Lane) (n : Node) (h : r ≠ p) :
    (n.onLane p f).lane r = n.lane r := Four.get_set_of_ne _ _ h

/-! ## A lane's event counted -/

@[simp] theorem Node.countLane_tb (p : Fin 4) (k : LaneCount) (n : Node) : (n.countLane p k).tb = n.tb := by
  simp [Node.countLane]
@[simp] theorem Node.countLane_du (p : Fin 4) (k : LaneCount) (n : Node) : (n.countLane p k).du = n.du := by
  simp [Node.countLane]
@[simp] theorem Node.countLane_sg (p : Fin 4) (k : LaneCount) (n : Node) : (n.countLane p k).sg = n.sg := by
  simp [Node.countLane]
@[simp] theorem Node.countLane_ss (p : Fin 4) (k : LaneCount) (n : Node) : (n.countLane p k).ss = n.ss := by
  simp [Node.countLane]
@[simp] theorem Node.countLane_lu (p : Fin 4) (k : LaneCount) (n : Node) : (n.countLane p k).lu = n.lu := by
  simp [Node.countLane]
@[simp] theorem Node.countLane_se (p : Fin 4) (k : LaneCount) (n : Node) : (n.countLane p k).se = n.se := by
  simp [Node.countLane]
@[simp] theorem Node.countLane_ou (p : Fin 4) (k : LaneCount) (n : Node) : (n.countLane p k).ou = n.ou := by
  simp [Node.countLane]
@[simp] theorem Node.countLane_si (p : Fin 4) (k : LaneCount) (n : Node) : (n.countLane p k).si = n.si := by
  simp [Node.countLane]
@[simp] theorem Node.countLane_mh (p : Fin 4) (k : LaneCount) (n : Node) : (n.countLane p k).mh = n.mh := by
  simp [Node.countLane]
@[simp] theorem Node.countLane_pins (p : Fin 4) (k : LaneCount) (n : Node) : (n.countLane p k).pins = n.pins := by
  simp [Node.countLane]
@[simp] theorem Node.countLane_rstLow (p : Fin 4) (k : LaneCount) (n : Node) :
    (n.countLane p k).rstLow = n.rstLow := by
  simp [Node.countLane]
@[simp] theorem Node.countLane_freeIdx (p : Fin 4) (k : LaneCount) (n : Node) :
    (n.countLane p k).freeIdx = n.freeIdx := by
  simp [Node.countLane]

/-! ## The store's references recounted -/

@[simp] theorem Node.settleRefs_tb (n : Node) : n.settleRefs.tb = n.tb := rfl
@[simp] theorem Node.settleRefs_du (n : Node) : n.settleRefs.du = n.du := rfl
@[simp] theorem Node.settleRefs_sg (n : Node) : n.settleRefs.sg = n.sg := rfl
@[simp] theorem Node.settleRefs_ss (n : Node) :
    n.settleRefs.ss = { n.ss with bufs := recountFrom n.se n.ou 0 n.ss.bufs } := rfl
@[simp] theorem Node.settleRefs_lu (n : Node) : n.settleRefs.lu = n.lu := rfl
@[simp] theorem Node.settleRefs_rl (n : Node) : n.settleRefs.rl = n.rl := rfl
@[simp] theorem Node.settleRefs_se (n : Node) : n.settleRefs.se = n.se := rfl
@[simp] theorem Node.settleRefs_ou (n : Node) : n.settleRefs.ou = n.ou := rfl
@[simp] theorem Node.settleRefs_si (n : Node) : n.settleRefs.si = n.si := rfl
@[simp] theorem Node.settleRefs_mh (n : Node) : n.settleRefs.mh = n.mh := rfl
@[simp] theorem Node.settleRefs_rh (n : Node) : n.settleRefs.rh = n.rh := rfl
@[simp] theorem Node.settleRefs_pins (n : Node) : n.settleRefs.pins = n.pins := rfl
@[simp] theorem Node.settleRefs_rstLow (n : Node) : n.settleRefs.rstLow = n.rstLow := rfl
@[simp] theorem Node.settleRefs_freeIdx (n : Node) : n.settleRefs.freeIdx = n.freeIdx := rfl

/-! ## Places emptied -/

@[simp] theorem Node.withdrawAnnounce_tb (n : Node) : n.withdrawAnnounce.tb = n.tb := by
  unfold Node.withdrawAnnounce; split <;> rfl
@[simp] theorem Node.withdrawAnnounce_du (n : Node) : n.withdrawAnnounce.du = n.du := by
  unfold Node.withdrawAnnounce; split <;> rfl
@[simp] theorem Node.withdrawAnnounce_sg (n : Node) : n.withdrawAnnounce.sg = n.sg := by
  unfold Node.withdrawAnnounce; split <;> rfl
@[simp] theorem Node.withdrawAnnounce_ss (n : Node) : n.withdrawAnnounce.ss = n.ss := by
  unfold Node.withdrawAnnounce; split <;> rfl
@[simp] theorem Node.withdrawAnnounce_lu (n : Node) : n.withdrawAnnounce.lu = n.lu := by
  unfold Node.withdrawAnnounce; split <;> rfl
@[simp] theorem Node.withdrawAnnounce_rl (n : Node) : n.withdrawAnnounce.rl = n.rl := by
  unfold Node.withdrawAnnounce; split <;> rfl
@[simp] theorem Node.withdrawAnnounce_se (n : Node) : n.withdrawAnnounce.se = n.se := by
  unfold Node.withdrawAnnounce; split <;> rfl
@[simp] theorem Node.withdrawAnnounce_ou (n : Node) : n.withdrawAnnounce.ou = n.ou := by
  unfold Node.withdrawAnnounce; split <;> rfl
@[simp] theorem Node.withdrawAnnounce_si (n : Node) : n.withdrawAnnounce.si = n.si := by
  unfold Node.withdrawAnnounce; split <;> rfl
@[simp] theorem Node.withdrawAnnounce_rh (n : Node) : n.withdrawAnnounce.rh = n.rh := by
  unfold Node.withdrawAnnounce; split <;> rfl
@[simp] theorem Node.withdrawAnnounce_pins (n : Node) : n.withdrawAnnounce.pins = n.pins := by
  unfold Node.withdrawAnnounce; split <;> rfl
@[simp] theorem Node.withdrawAnnounce_rstLow (n : Node) : n.withdrawAnnounce.rstLow = n.rstLow := by
  unfold Node.withdrawAnnounce; split <;> rfl
@[simp] theorem Node.withdrawAnnounce_freeIdx (n : Node) : n.withdrawAnnounce.freeIdx = n.freeIdx := by
  unfold Node.withdrawAnnounce; split <;> rfl
@[simp] theorem Node.emptyProbe_tb (n : Node) : n.emptyProbe.tb = n.tb := by
  unfold Node.emptyProbe; split <;> rfl
@[simp] theorem Node.emptyProbe_du (n : Node) : n.emptyProbe.du = n.du := by
  unfold Node.emptyProbe; split <;> rfl
@[simp] theorem Node.emptyProbe_sg (n : Node) : n.emptyProbe.sg = n.sg := by
  unfold Node.emptyProbe; split <;> rfl
@[simp] theorem Node.emptyProbe_ss (n : Node) : n.emptyProbe.ss = n.ss := by
  unfold Node.emptyProbe; split <;> rfl
@[simp] theorem Node.emptyProbe_lu (n : Node) : n.emptyProbe.lu = n.lu := by
  unfold Node.emptyProbe; split <;> rfl
@[simp] theorem Node.emptyProbe_rl (n : Node) : n.emptyProbe.rl = n.rl := by
  unfold Node.emptyProbe; split <;> rfl
@[simp] theorem Node.emptyProbe_se (n : Node) : n.emptyProbe.se = n.se := by
  unfold Node.emptyProbe; split <;> rfl
@[simp] theorem Node.emptyProbe_ou (n : Node) : n.emptyProbe.ou = n.ou := by
  unfold Node.emptyProbe; split <;> rfl
@[simp] theorem Node.emptyProbe_si (n : Node) : n.emptyProbe.si = n.si := by
  unfold Node.emptyProbe; split <;> rfl
@[simp] theorem Node.emptyProbe_rh (n : Node) : n.emptyProbe.rh = n.rh := by
  unfold Node.emptyProbe; split <;> rfl
@[simp] theorem Node.emptyProbe_pins (n : Node) : n.emptyProbe.pins = n.pins := by
  unfold Node.emptyProbe; split <;> rfl
@[simp] theorem Node.emptyProbe_rstLow (n : Node) : n.emptyProbe.rstLow = n.rstLow := by
  unfold Node.emptyProbe; split <;> rfl
@[simp] theorem Node.emptyProbe_freeIdx (n : Node) : n.emptyProbe.freeIdx = n.freeIdx := by
  unfold Node.emptyProbe; split <;> rfl

/-! ## A buffer given back -/

@[simp] theorem Node.giveBack_tb (b : Option Nat) (n : Node) : (n.giveBack b).tb = n.tb := by
  cases b <;> rfl
@[simp] theorem Node.giveBack_du (b : Option Nat) (n : Node) : (n.giveBack b).du = n.du := by
  cases b <;> rfl
@[simp] theorem Node.giveBack_sg (b : Option Nat) (n : Node) : (n.giveBack b).sg = n.sg := by
  cases b <;> rfl
@[simp] theorem Node.giveBack_lu (b : Option Nat) (n : Node) : (n.giveBack b).lu = n.lu := by
  cases b <;> rfl
@[simp] theorem Node.giveBack_rl (b : Option Nat) (n : Node) : (n.giveBack b).rl = n.rl := by
  cases b <;> rfl
@[simp] theorem Node.giveBack_se (b : Option Nat) (n : Node) : (n.giveBack b).se = n.se := by
  cases b <;> rfl
@[simp] theorem Node.giveBack_ou (b : Option Nat) (n : Node) : (n.giveBack b).ou = n.ou := by
  cases b <;> rfl
@[simp] theorem Node.giveBack_si (b : Option Nat) (n : Node) : (n.giveBack b).si = n.si := by
  cases b <;> rfl
@[simp] theorem Node.giveBack_mh (b : Option Nat) (n : Node) : (n.giveBack b).mh = n.mh := by
  cases b <;> rfl
@[simp] theorem Node.giveBack_rh (b : Option Nat) (n : Node) : (n.giveBack b).rh = n.rh := by
  cases b <;> rfl
@[simp] theorem Node.giveBack_pins (b : Option Nat) (n : Node) : (n.giveBack b).pins = n.pins := by
  cases b <;> rfl
@[simp] theorem Node.giveBack_rstLow (b : Option Nat) (n : Node) : (n.giveBack b).rstLow = n.rstLow := by
  cases b <;> rfl
@[simp] theorem Node.giveBack_freeIdx (b : Option Nat) (n : Node) : (n.giveBack b).freeIdx = n.freeIdx := by
  cases b <;> rfl

/-! ## The state with its block replaced -/

@[simp] theorem State.next_eq (s : State) (n : Node) : s.next n = .next { s with node := n } := rfl

end Sys2Proof.Machine
end

