-- ==== Sys2Proof/Laws/Ops.lean ====
section
/-! SUPPORT. What each shared operation can do, once: time, counters, the store, when a command acts, requests, received
messages, what a STATUS clears, the frame of the engine's steps and that of the bit clock, the lowest offer. -/

namespace Sys2Proof.Machine

/-! ## How a command answers -/

/-- A command whose meaning answers the state with block `n` has every property of `n`. -/
theorem Yields.of_next {i : Instr} {s : State} {n : Node} {P : Node → Prop} (h : exec i s = s.next n) (hp : P n) :
    Yields i s P := ⟨{ s with node := n }, h, rfl, hp⟩

/-- A command that has one answer has the property `P` exactly if its block has. -/
theorem Yields.iff_next {i : Instr} {s : State} {n : Node} {P : Node → Prop} (h : exec i s = s.next n) :
    Yields i s P ↔ P n := by
  constructor
  · rintro ⟨t, ht, -, hp⟩
    rw [h, State.next_eq] at ht
    cases ht
    exact hp
  · exact Yields.of_next h

theorem Yields.mono {i : Instr} {s : State} {P Q : Node → Prop} (h : ∀ n, P n → Q n) (hy : Yields i s P) :
    Yields i s Q := by
  obtain ⟨t, ht, hq, hp⟩ := hy
  exact ⟨t, ht, hq, h _ hp⟩

/-! ## When a command acts -/

theorem Node.awake_of_low {n : Node} (h : n.rstLow = true) (f : Node → Node) : n.awake f = n := by
  simp [Node.awake, h]

theorem Node.awake_of_high {n : Node} (h : n.rstLow = false) (f : Node → Node) : n.awake f = f n := by
  simp [Node.awake, h]

theorem Node.withCfg_of {n : Node} {c : Settled} (h : n.rh.settled = some c) (f : Settled → Node → Node) :
    n.withCfg f = f c n := by
  simp [Node.withCfg, h]

theorem Node.asHead_of {n : Node} {c : Settled} (h : n.headCfg = some c) (f : Settled → Node → Node) :
    n.asHead f = f c n := by
  simp [Node.asHead, h]

theorem Node.asBase_of {n : Node} {c : Settled} (h : n.baseCfg = some c) (f : Settled → Node → Node) :
    n.asBase f = f c n := by
  simp [Node.asBase, h]

/-- A role's configuration is the settled one. -/
theorem Node.headCfg_eq_some {n : Node} {c : Settled} :
    n.headCfg = some c ↔ n.rh.straps.role = .head ∧ n.rh.settled = some c := by
  unfold Node.headCfg
  cases h : n.rh.straps.role <;> simp

/-- A role's configuration is the settled one. -/
theorem Node.baseCfg_eq_some {n : Node} {c : Settled} :
    n.baseCfg = some c ↔ n.rh.straps.role = .base ∧ n.rh.settled = some c := by
  unfold Node.baseCfg
  cases h : n.rh.straps.role <;> simp

/-! ## Requests and received messages -/

/-- A request heard: carried out with the mailbox TAKING, then its response held. -/
theorem Node.request_of_hears {n : Node} {addr : BitVec 7} {body : List Byte} (h : n.Hears addr body)
    (f : Node → Node × Response) :
    n.request addr body f = (f (n.setMailbox .taking)).1.setMailbox (.held (f (n.setMailbox .taking)).2) := by
  simp [Node.request, h.2.1, h.2.2]

/-- A request refused with the block untouched leaves only its answer. -/
theorem Node.request_of_refused {n : Node} {addr : BitVec 7} {body : List Byte} (h : n.Hears addr body)
    {f : Node → Node × Response} {r : Response} (hf : f (n.setMailbox .taking) = (n.setMailbox .taking, r)) :
    n.request addr body f = n.setMailbox (.held r) := by
  rw [Node.request_of_hears h, hf]
  rfl

/-- A message that can be received and is of its kind. -/
theorem Node.receive_of {n : Node} {c : Settled} (h : n.Receives c) (key : Key) (payload : List Byte) (stamp : Word32)
    (marked : Bool) (f : Settled → Word32 → Node → Node) :
    n.receive true key payload stamp marked f = f c (n.stampOf stamp) (n.received c key payload marked) := by
  simp [Node.receive, Node.withCfg, h.1.2, h.2, Node.stampOf]

/-- A message not of its kind is not taken. -/
theorem Node.receive_false (n : Node) (key : Key) (payload : List Byte) (stamp : Word32) (marked : Bool)
    (f : Settled → Word32 → Node → Node) : n.receive false key payload stamp marked f = n := by
  unfold Node.receive Node.withCfg
  split <;> rfl

/-- The state following the counts changes SI and the notices, no other block. -/
theorem Node.followCounts_frame (n : Node) :
    n.followCounts = { n with
      si := n.followCounts.si, rh := { n.rh with notices := n.followCounts.rh.notices } } := by
  unfold Node.followCounts
  split
  · simp only []
    cases (n.si.countState == SiState.silenced) <;> rfl
  · rfl

/-- A correct message changes SI and the notices, no other block. -/
theorem Node.received_frame (c : Settled) (key : Key) (payload : List Byte) (marked : Bool) (n : Node) :
    n.received c key payload marked = { n with
      si := (n.received c key payload marked).si
      rh := { n.rh with notices := (n.received c key payload marked).rh.notices } } :=
  Node.followCounts_frame _

/-! ## STATUS with its clear flag, and requests under the mailbox -/

theorem Node.OnlyCleared.refl (n : Node) : n.OnlyCleared n :=
  ⟨rfl, rfl, rfl, rfl, rfl, fun _ => rfl, rfl, rfl, rfl, rfl, rfl, rfl, rfl⟩

/-- Clearing a section changes at most event counters and the low-water mark. -/
theorem Node.clearSection_onlyCleared (k : Nat) (n : Node) : n.OnlyCleared (n.clearSection k) := by
  unfold Node.clearSection
  split
  case h_2 =>
    dsimp only
    split
    · exact ⟨rfl, rfl, rfl, rfl, rfl, fun _ => rfl, rfl, rfl, rfl, rfl, rfl, rfl, rfl⟩
    · refine ⟨rfl, rfl, rfl, rfl, rfl, fun p => ?_, rfl, rfl, rfl, rfl, rfl, rfl, rfl⟩
      fin_cases p <;> rfl
  all_goals exact ⟨rfl, rfl, rfl, rfl, rfl, fun _ => rfl, rfl, rfl, rfl, rfl, rfl, rfl, rfl⟩

/-- The low-water mark is set to the free count exactly in the lanes section. -/
theorem Node.clearSection_lowWater (k : Nat) (n : Node) :
    (n.clearSection k).ss.lowWater = if k = 3 then n.ss.freeCount else n.ss.lowWater := by
  unfold Node.clearSection
  split
  case h_2 => dsimp only; split <;> rfl
  all_goals first | rfl | simp_all

/-- A STATUS request clears at most what its section's clearing clears. -/
theorem Node.statusClear_onlyCleared (body : List Byte) (n : Node) : n.OnlyCleared (n.statusClear body) := by
  unfold Node.statusClear
  split
  · exact Node.OnlyCleared.refl n
  · exact Node.clearSection_onlyCleared _ n

theorem Node.takeItem_setMailbox (c : Settled) (i : AdjustItem) (m : Mailbox) (n : Node) :
    (n.setMailbox m).takeItem c i = (n.takeItem c i).setMailbox m := by
  cases i <;> rfl

theorem Node.withdrawAnnounce_setMailbox (m : Mailbox) (n : Node) :
    (n.setMailbox m).withdrawAnnounce = n.withdrawAnnounce.setMailbox m := by
  unfold Node.withdrawAnnounce
  rw [show (n.setMailbox m).started .announce = n.started .announce from rfl]
  split <;> rfl

theorem Node.emptyProbe_setMailbox (m : Mailbox) (n : Node) :
    (n.setMailbox m).emptyProbe = n.emptyProbe.setMailbox m := by
  unfold Node.emptyProbe
  rw [show (n.setMailbox m).started .probe = n.started .probe from rfl]
  split <;> rfl

theorem Node.setListenOnly_setMailbox (v : Bool) (m : Mailbox) (n : Node) :
    (n.setMailbox m).setListenOnly v = (n.setListenOnly v).setMailbox m := by
  simp only [Node.setListenOnly]
  rw [show (n.setMailbox m).rh.straps.node = n.rh.straps.node from rfl]
  split
  · rw [← Node.emptyProbe_setMailbox, ← Node.withdrawAnnounce_setMailbox]; rfl
  · rfl

theorem Node.atIdlePoint_setMailbox (m : Mailbox) (n : Node) :
    (n.setMailbox m).atIdlePoint = n.atIdlePoint.setMailbox m := by
  unfold Node.atIdlePoint
  rw [show (n.setMailbox m).isIdle = n.isIdle from rfl]
  split
  · unfold Node.takeListenOnly
    rw [show (n.setMailbox m).rh.pending.listenOnly = n.rh.pending.listenOnly from rfl]
    cases n.rh.pending.listenOnly with
    | none => rfl
    | some v =>
      dsimp only
      rw [Node.setListenOnly_setMailbox]
  · rfl

theorem foldl_takeItem_setMailbox (c : Settled) (m : Mailbox) (l : List AdjustItem) (n : Node) :
    l.foldl (fun n i => n.takeItem c i) (n.setMailbox m) = (l.foldl (fun n i => n.takeItem c i) n).setMailbox m := by
  induction l generalizing n with
  | nil => rfl
  | cons x xs ih =>
    simp only [List.foldl_cons, Node.takeItem_setMailbox]
    exact ih _

/-- ADJUST neither reads nor changes the mailbox. -/
theorem Node.adjust_setMailbox (body : List Byte) (m : Mailbox) (n : Node) :
    (n.setMailbox m).adjust body = ((n.adjust body).1.setMailbox m, (n.adjust body).2) := by
  unfold Node.adjust
  rw [show (n.setMailbox m).rh.settled = n.rh.settled from rfl]
  cases n.rh.settled with
  | none => rfl
  | some c =>
    dsimp only
    cases readItems (body.length + 1) body with
    | error r => rfl
    | ok l =>
      simp only [Node.adjustItems]
      split
      · simp only [Node.takeItems, foldl_takeItem_setMailbox, Node.atIdlePoint_setMailbox]
      · rfl

/-! ## Notices -/

theorem raiseBit_self (set : BitVec 16) (k : Nat) (h : k < 16) : (raiseBit set k).getLsbD k = true := by
  simp [raiseBit, h]

theorem raiseBit_keeps (set : BitVec 16) (k j : Nat) (h : set.getLsbD j = true) :
    (raiseBit set k).getLsbD j = true := by
  simp [raiseBit, h]

/-- A raised source is pending. -/
theorem Node.raise_pending (n : Node) (src : Source) : (n.raise src).rh.isPending src.num = true := by
  apply raiseBit_self
  cases src <;> decide

/-- Raising a source keeps every source that is pending. -/
theorem Node.raise_keeps (n : Node) (src : Source) (k : Nat) (h : n.rh.isPending k = true) :
    (n.raise src).rh.isPending k = true := raiseBit_keeps _ _ _ h

/-- Raising a source on a condition keeps every source that is pending. -/
theorem Node.raiseIf_keeps (n : Node) (c : Bool) (src : Source) (k : Nat) (h : n.rh.isPending k = true) :
    (n.raiseIf c src).rh.isPending k = true := by
  cases c
  · exact h
  · exact n.raise_keeps src k h

/-! ## The store -/

/-- A buffer set and read again. -/
theorem Ss.buf_setBuf_self {ss : Ss} {b : Nat} (h : b < ss.bufs.length) (x : Buf) : (ss.setBuf b x).buf b = x := by
  simp [Ss.buf, Ss.setBuf, List.getD_eq_getElem?_getD, h]

/-- A buffer set leaves the others. -/
theorem Ss.buf_setBuf_of_ne {ss : Ss} {b k : Nat} (h : k ≠ b) (x : Buf) : (ss.setBuf b x).buf k = ss.buf k := by
  simp [Ss.buf, Ss.setBuf, List.getD_eq_getElem?_getD, Ne.symm h]

/-- A buffer number beyond the store reads as a FREE buffer. -/
theorem Ss.buf_of_le {ss : Ss} {b : Nat} (h : ss.bufs.length ≤ b) : ss.buf b = Buf.free := by
  simp [Ss.buf, List.getD_eq_getElem?_getD, h]

/-- The lowest FREE buffer is FREE and in the store, and every lower one is not FREE. -/
theorem firstFree_spec {l : List Buf} {b : Nat} (h : firstFree l = some b) :
    b < l.length ∧ (l.getD b Buf.free).state = .free ∧ ∀ k, k < b → (l.getD k Buf.free).state ≠ .free := by
  induction l generalizing b with
  | nil => cases h
  | cons x xs ih =>
    unfold firstFree at h
    split at h
    · next hx =>
      cases h
      exact ⟨Nat.succ_pos _, by simpa [Buf.isFree] using hx, fun k hk => absurd hk (Nat.not_lt_zero k)⟩
    · next hx =>
      cases hf : firstFree xs with
      | none => rw [hf] at h; cases h
      | some j =>
        rw [hf] at h
        cases h
        obtain ⟨h1, h2, h3⟩ := ih hf
        refine ⟨Nat.succ_lt_succ h1, by simpa using h2, fun k hk => ?_⟩
        cases k with
        | zero => simpa [Buf.isFree] using hx
        | succ k => simpa using h3 k (Nat.lt_of_succ_lt_succ hk)

/-- No buffer is FREE exactly if the free count is 0. -/
theorem firstFree_eq_none {l : List Buf} : firstFree l = none ↔ l.countP Buf.isFree = 0 := by
  induction l with
  | nil => simp [firstFree]
  | cons x xs ih =>
    unfold firstFree
    by_cases hx : x.isFree = true
    · simp [hx]
    · simp [hx, ih]

/-! ## References -/

/-- A recount leaves the number of buffers. -/
theorem recountFrom_length (se : Se) (ou : Ou) (b : Nat) (l : List Buf) :
    (recountFrom se ou b l).length = l.length := by
  induction l generalizing b with
  | nil => rfl
  | cons x xs ih => simp [recountFrom, ih]

/-- A buffer after a recount. -/
theorem recountFrom_getElem? (se : Se) (ou : Ou) (b : Nat) (l : List Buf) (k : Nat) :
    (recountFrom se ou b l)[k]? = l[k]?.map fun x => x.recount (refCount se ou (b + k)) := by
  induction l generalizing b k with
  | nil => simp [recountFrom]
  | cons x xs ih =>
    cases k with
    | zero => simp [recountFrom]
    | succ k =>
      simp only [recountFrom, List.getElem?_cons_succ, ih]
      rw [Nat.add_assoc, Nat.add_comm 1 k]

/-- A buffer that is not REFERENCED is left by the recount. -/
theorem Buf.recount_of_not_referenced {x : Buf} (h : ∀ k, x.state ≠ .referenced k) (j : Nat) : x.recount j = x := by
  unfold Buf.recount
  split
  · next k hk => exact absurd hk (h k)
  · rfl

/-- Every buffer of the store after the end of an event. -/
theorem Node.settleRefs_buf (n : Node) (b : Nat) :
    n.settleRefs.ss.buf b = (n.ss.buf b).recount (refCount n.se n.ou b) := by
  unfold Ss.buf
  rw [Node.settleRefs_ss]
  simp only [List.getD_eq_getElem?_getD, recountFrom_getElem?, Nat.zero_add]
  cases n.ss.bufs[b]? <;> rfl

/-! ## The engine's steps -/

/-- What a step of the engine may change: descriptors join the output queue, the engine changes but for its locked
set, and notices are raised. -/
structure EngineFrame (n t : Node) : Prop where
  frame : t = { n with ou := t.ou, se := t.se, rh := { n.rh with notices := t.rh.notices } }
  locked : t.se.lockedSet = n.se.lockedSet
  queue : ∃ more, t.ou.queue = n.ou.queue ++ more
  port : t.ou = { n.ou with queue := t.ou.queue, queueFull := t.ou.queueFull }
  notices : ∀ k, n.rh.isPending k = true → t.rh.isPending k = true

theorem EngineFrame.refl (n : Node) : EngineFrame n n := ⟨rfl, rfl, ⟨[], (List.append_nil _).symm⟩, rfl, fun _ => id⟩

theorem EngineFrame.trans {a b c : Node} (h1 : EngineFrame a b) (h2 : EngineFrame b c) : EngineFrame a c := by
  obtain ⟨m1, q1⟩ := h1.queue
  obtain ⟨m2, q2⟩ := h2.queue
  refine ⟨?_, h2.locked.trans h1.locked, ⟨m1 ++ m2, by rw [q2, q1, List.append_assoc]⟩, ?_,
    fun k hk => h2.notices k (h1.notices k hk)⟩
  · rw [h2.frame, h1.frame]
  · rw [h2.port, h1.port]

/-- The engine changed, its locked set kept. -/
theorem EngineFrame.of_se (n : Node) (e : Se) (h : e.lockedSet = n.se.lockedSet := by rfl) :
    EngineFrame n { n with se := e } :=
  ⟨rfl, h, ⟨[], (List.append_nil _).symm⟩, rfl, fun _ => id⟩

/-- A descriptor queued and the engine changed, its locked set kept. -/
theorem EngineFrame.of_put (n : Node) (d : Descriptor) (e : Se) (h : e.lockedSet = n.se.lockedSet := by rfl) :
    EngineFrame n { n with ou := n.ou.enqueue d, se := e } := ⟨rfl, h, ⟨[d], rfl⟩, rfl, fun _ => id⟩

theorem EngineFrame.raiseIf (n : Node) (c : Bool) (src : Source) : EngineFrame n (n.raiseIf c src) := by
  refine ⟨?_, ?_, ⟨[], ?_⟩, ?_, fun k hk => n.raiseIf_keeps c src k hk⟩
  · cases c <;> rfl
  · cases c <;> rfl
  · cases c <;> exact (List.append_nil _).symm
  · cases c <;> rfl

theorem Node.releaseLine_frame (f : FrameCtx) (q : Four (Option Contribution)) (tc : Option Timecode) (k : Nat)
    (cause : Cause) (n : Node) : EngineFrame n (n.releaseLine f q tc k cause) := EngineFrame.of_put n _ _

theorem Node.discardTable_frame (n : Node) : EngineFrame n n.discardTable := by
  unfold Node.discardTable
  simp only []
  refine EngineFrame.trans ?_ (EngineFrame.raiseIf _ _ _)
  exact EngineFrame.of_se n _

theorem Node.withdraw_frame (m : PlaneSet) (n : Node) : EngineFrame n (n.withdraw m) := by
  unfold Node.withdraw
  simp only []
  refine EngineFrame.trans ?_ (EngineFrame.raiseIf _ _ _)
  exact EngineFrame.of_se n _

theorem Node.enterFlushing_frame (f : FrameCtx) (n : Node) : EngineFrame n (n.enterFlushing f) := by
  unfold Node.enterFlushing
  exact (n.discardTable_frame.trans (EngineFrame.of_se _ _)).trans (EngineFrame.raiseIf _ true _)

theorem Node.reevaluate_frame (j : PlaneSet) (n : Node) : EngineFrame n (n.reevaluate j) :=
  EngineFrame.of_se n _

theorem Node.putFrameEnd_frame (f : FrameCtx) (cause : EndCause) (n : Node) : EngineFrame n (n.putFrameEnd f cause) :=
  EngineFrame.of_put n _ _

theorem Node.advanceFrame_frame (f : FrameCtx) (n : Node) : EngineFrame n (n.advanceFrame f) := by
  unfold Node.advanceFrame
  extract_lets n1 se1 n2 mask g n3 n4 se4
  have h : EngineFrame n n3 :=
    ((n.putFrameEnd_frame f .normal).trans (EngineFrame.of_se n1 _)).trans
      ((Node.withdraw_frame mask n2).trans (Node.reevaluate_frame g.j _))
  split
  · exact h.trans (((Node.discardTable_frame n3).trans (EngineFrame.of_se n4 _)).trans (EngineFrame.raiseIf _ true _))
  · exact h.trans (EngineFrame.of_se n3 _)

theorem Node.flushStep_frame (c : Settled) (f : FrameCtx) (n : Node) : EngineFrame n (n.flushStep c f) := by
  unfold Node.flushStep
  split <;> exact EngineFrame.of_put n _ _

theorem Node.releaseStep_frame {c : Settled} {f : FrameCtx} {n t : Node} (h : n.releaseStep c f = some t) :
    EngineFrame n t := by
  unfold Node.releaseStep at h
  repeat' split at h
  all_goals (cases h)
  · exact n.advanceFrame_frame f
  · exact (EngineFrame.of_se n _).trans (Node.releaseLine_frame _ _ _ _ _ _)
  · exact Node.releaseLine_frame _ _ _ _ _ _

theorem Node.engineStep_frame {c : Settled} {n t : Node} (h : n.engineStep c = some t) : EngineFrame n t := by
  unfold Node.engineStep at h
  split at h
  · cases h
  · split at h
    · cases h
    · exact Node.releaseStep_frame h
    · cases h
      exact n.flushStep_frame c _

theorem Node.engineSteps_frame (c : Settled) (k : Nat) (n : Node) : EngineFrame n (n.engineSteps c k) := by
  induction k generalizing n with
  | zero => exact EngineFrame.refl n
  | succ k ih =>
    unfold Node.engineSteps
    split
    · exact EngineFrame.refl n
    · next t ht => exact (Node.engineStep_frame ht).trans (ih t)

/-- Every step the engine takes by itself, one after another. -/
theorem Node.runEngine_frame (c : Settled) (n : Node) : EngineFrame n (n.runEngine c) := Node.engineSteps_frame c 4 n

/-- The engine takes no step in IDLE. -/
theorem Node.runEngine_of_idle {c : Settled} {n : Node} (h : n.se.state = .idle) : n.runEngine c = n := by
  have h1 : n.engineStep c = none := by
    unfold Node.engineStep
    rw [h]
    split <;> rfl
  simp [Node.runEngine, Node.engineSteps, h1]

/-- The engine takes no step while no place of the output queue is free. -/
theorem Node.runEngine_of_full {c : Settled} {n : Node} (h : n.ou.freePlaces = 0) : n.runEngine c = n := by
  have h1 : n.engineStep c = none := by
    unfold Node.engineStep
    rw [if_pos h]
  simp [Node.runEngine, Node.engineSteps, h1]

/-! ## The bit clock -/

/-- What the bit clock may change of SI: where it stands in the carrier's bits and what it has read of them. State,
counts, counters, flag and the own message stay. -/
structure ClockFrame (si t : Si) : Prop where
  frame : t = { si with
    recovery := t.recovery, recoveryRun := t.recoveryRun, spaces := t.spaces, rxStamp := t.rxStamp, phase := t.phase
    guardWait := t.guardWait, burst := t.burst, burstWait := t.burstWait, bitPos := t.bitPos, tx := t.tx
    level := t.level, bitNo := t.bitNo, resynced := t.resynced, reading := t.reading, found := t.found
    acked := t.acked }

theorem ClockFrame.refl (si : Si) : ClockFrame si si := ⟨rfl⟩

theorem ClockFrame.trans {a b c : Si} (h1 : ClockFrame a b) (h2 : ClockFrame b c) : ClockFrame a c :=
  ⟨by rw [h2.frame, h1.frame]⟩

theorem ClockFrame.state {si t : Si} (h : ClockFrame si t) : t.state = si.state := by rw [h.frame]

theorem ClockFrame.tec {si t : Si} (h : ClockFrame si t) : t.tec = si.tec := by rw [h.frame]

theorem ClockFrame.recCount {si t : Si} (h : ClockFrame si t) : t.recCount = si.recCount := by rw [h.frame]

theorem ClockFrame.onCarrier {si t : Si} (h : ClockFrame si t) : t.onCarrier = si.onCarrier := by rw [h.frame]

theorem ClockFrame.listenOnly {si t : Si} (h : ClockFrame si t) : t.listenOnly = si.listenOnly := by rw [h.frame]

theorem Si.recoveryBit_frame (level : Bool) (si : Si) : ClockFrame si (si.recoveryBit level) := by
  unfold Si.recoveryBit
  repeat' split
  all_goals exact ⟨rfl⟩

theorem Si.foreignBit_frame (si : Si) : ClockFrame si si.foreignBit := by
  unfold Si.foreignBit
  repeat' split
  all_goals exact ⟨rfl⟩

theorem Si.ownBit_frame (o : OnCarrier) (si : Si) : ClockFrame si (si.ownBit o) := by
  unfold Si.ownBit
  split <;> exact ⟨rfl⟩

theorem Si.interspaceBit_frame (e : Word32) (si : Si) : ClockFrame si (si.interspaceBit e) := by
  unfold Si.interspaceBit
  repeat' split
  all_goals exact ⟨rfl⟩

theorem Si.recoveringBit_frame (si : Si) : ClockFrame si si.recoveringBit := by
  unfold Si.recoveringBit
  repeat' split
  all_goals exact ⟨rfl⟩

/-- The sample of a bit. -/
theorem Si.sample_frame (e : Word32) (si : Si) : ClockFrame si (si.sample e) := by
  refine (si.recoveryBit_frame si.level).trans ?_
  unfold Si.sample
  simp only []
  split
  · split <;> exact ⟨rfl⟩
  · exact Si.interspaceBit_frame _ _
  · split
    · exact Si.ownBit_frame _ _
    · exact Si.foreignBit_frame _
  · exact Si.recoveringBit_frame _

theorem Si.sampleDue_frame (c : Settled) (e : Word32) (si : Si) : ClockFrame si (si.sampleDue c e) := by
  unfold Si.sampleDue
  split
  · exact si.sample_frame e
  · exact ClockFrame.refl si

theorem Si.resync_frame (c : Settled) (si : Si) : ClockFrame si (si.resync c) := by
  unfold Si.resync
  simp only []
  repeat' split
  all_goals exact ⟨rfl⟩

theorem Si.edge_frame (c : Settled) (e : Word32) (si : Si) : ClockFrame si (si.edge c e) := by
  unfold Si.edge
  repeat' split
  · exact ⟨rfl⟩
  · exact (si.sampleDue_frame c e).trans (Si.resync_frame c _)
  · exact si.sampleDue_frame c e

/-- One tick of the bit clock. -/
theorem Si.tick_frame (c : Settled) (e : Word32) (rx : Bool) (si : Si) : ClockFrame si (si.tick c e rx) := by
  have h1 (x : Si) : ClockFrame x (x.advance c) := by
    unfold Si.advance
    split <;> exact ⟨rfl⟩
  have h2 (x : Si) : ClockFrame x (x.observe c e rx) := by
    unfold Si.observe
    split
    · exact ClockFrame.trans (b := { x with level := false }) ⟨rfl⟩ (Si.edge_frame c e _)
    · exact ClockFrame.trans (b := { x with level := x.tx && rx }) ⟨rfl⟩ (Si.sampleDue_frame c e _)
  unfold Si.tick
  split
  · exact ClockFrame.refl si
  · exact (ClockFrame.trans (b := { si with found := none }) ⟨rfl⟩ (h1 _)).trans (h2 _)

/-! ## The lowest offer -/

/-- The fold that takes the lowest offer keeps one of those it has seen, none below it. -/
theorem foldl_lowerOffer (l : List Offer) (b : Offer) : ∃ o, l.foldl lowerOffer (some b) = some o
    ∧ o ∈ b :: l ∧ (∀ x ∈ b :: l, o.key.toNat ≤ x.key.toNat) := by
  induction l generalizing b with
  | nil => exact ⟨b, rfl, by simp, by simp⟩
  | cons a l ih =>
    by_cases h : a.key.toNat < b.key.toNat
    · obtain ⟨o, h1, h2, h3⟩ := ih a
      refine ⟨o, by simpa [lowerOffer, h] using h1, by simp_all, ?_⟩
      intro x hx
      rcases List.mem_cons.mp hx with rfl | hx
      · exact (h3 a (by simp)).trans h.le
      · exact h3 x hx
    · obtain ⟨o, h1, h2, h3⟩ := ih b
      refine ⟨o, by simpa [lowerOffer, h] using h1, by simp at h2 ⊢; tauto, ?_⟩
      intro x hx
      rcases List.mem_cons.mp hx with rfl | hx
      · exact h3 _ (by simp)
      · rcases List.mem_cons.mp hx with rfl | hx
        · exact (h3 b (by simp)).trans (not_lt.mp h)
        · exact h3 x (by simp [hx])

/-- The lowest offer: there is none exactly if there is no offer, and else it is one of them with the lowest key. -/
theorem lowestOffer_spec (l : List Offer) : (lowestOffer l = none ↔ l = [])
    ∧ ∀ o, lowestOffer l = some o → o ∈ l ∧ ∀ x ∈ l, o.key.toNat ≤ x.key.toNat := by
  cases l with
  | nil => simp [lowestOffer]
  | cons a l =>
    obtain ⟨o, h1, h2, h3⟩ := foldl_lowerOffer l a
    have h : lowestOffer (a :: l) = some o := h1
    refine ⟨by simp [h], ?_⟩
    intro x hx
    rw [h] at hx
    cases hx
    exact ⟨h2, h3⟩

end Sys2Proof.Machine
end

