-- ==== Sys2Proof/Laws/BoundsTimebase.lean ====
section
/-! SUPPORT. One lemma for each shared operation: the timebase, the strobe generator and the discipline unit keep the
bounds of Safety.lean. -/

namespace Sys2Proof.Machine

/-! ## Notices and references -/

theorem Node.Bounded.raise {n : Node} (h : n.Bounded) (s : Source) : (n.raise s).Bounded :=
  { h with }

theorem Node.Bounded.raiseIf {n : Node} (h : n.Bounded) (c : Bool) (s : Source) : (n.raiseIf c s).Bounded := by
  unfold Node.raiseIf
  split
  · exact h.raise s
  · exact h

theorem Node.Bounded.settleRefs {n : Node} (h : n.Bounded) : n.settleRefs.Bounded :=
  { h with store := (recountFrom_length _ _ _ _).trans h.store }

theorem Ss.setBuf_length (ss : Ss) (b : Nat) (x : Buf) : (ss.setBuf b x).bufs.length = ss.bufs.length := by
  simp [Ss.setBuf]

theorem Ss.grant_length (ss : Ss) (e : EngineState) (r : Requester) :
    (ss.grant e r).1.bufs.length = ss.bufs.length := by
  unfold Ss.grant
  split
  · rfl
  · split
    · rfl
    · simp

/-! ## TB -/

theorem lastFour_length {α : Type} (l : List α) : (lastFour l).length ≤ 4 := by
  simp [lastFour]; omega

theorem Tb.Bounded.frameStart {tb : Tb} (h : tb.Bounded) (c : Settled) (p : Option Timecode) :
    (tb.frameStart c p).Bounded :=
  { h with history := lastFour_length _ }

theorem Tb.Bounded.frameZero {tb : Tb} (h : tb.Bounded) (c : Settled) : (tb.frameZero c).Bounded :=
  { h with history := Nat.zero_le _ }

theorem Tb.Bounded.softReset {tb : Tb} {i : Int} (hl : -1023 ≤ i) (hh : i ≤ 1023) (c : Settled) :
    (tb.softReset c i).Bounded :=
  ⟨hl, hh, Nat.zero_le _⟩

theorem Tb.Bounded.advance {tb : Tb} (h : tb.Bounded) (c : Settled) : (tb.advance c).Bounded := by
  unfold Tb.advance
  split <;> exact { h with }

theorem Tb.Bounded.onTick {tb : Tb} (h : tb.Bounded) (c : Option Settled) : (tb.onTick c).Bounded := by
  unfold Tb.onTick
  split
  · exact Tb.Bounded.advance (tb := { tb with e := tb.e + 1 }) { h with } _
  · exact { h with }

theorem Tb.Bounded.renumber {tb : Tb} (h : tb.Bounded) (a b : Word16) : (tb.renumber a b).Bounded :=
  { h with history := by simpa [Tb.renumber] using h.history }

theorem Tb.Bounded.handOff {tb : Tb} (h : tb.Bounded) (c : Settled) (t : Timecode) (k : Word16) :
    (tb.handOff c t k).Bounded := by
  unfold Tb.handOff
  split <;> exact { h with }

/-! ## SG -/

theorem Node.Bounded.strobeFire {n : Node} (h : n.Bounded) (c : Settled) : (n.strobeFire c).Bounded := by
  unfold Node.strobeFire
  split
  · exact { h with }
  · exact h

/-! ## DU -/

theorem Du.Bounded.enter {d : Du} (h : d.Bounded) (k : Nat) (st : TbState) (src : BitVec 4) :
    (d.enter k st src).Bounded where
  iLow := h.iLow
  iHigh := h.iHigh
  cands := h.cands
  delay := by
    intro hv
    simp only [Du.enter] at hv
    split at hv
    · exact h.delay hv
    · simp at hv
  lock := by
    simp only [Du.enter]
    split
    · exact h.lock
    · omega

theorem Tb.Bounded.enter {tb : Tb} {d : Du} (h : tb.Bounded) (hd : d.Bounded) (st : TbState) :
    (tb.enter d st).Bounded where
  qLow := by simp only [Tb.enter]; split; exacts [h.qLow, hd.iLow]
  qHigh := by simp only [Tb.enter]; split; exacts [h.qHigh, hd.iHigh]
  history := h.history

theorem Node.Bounded.withdrawAnnounce {n : Node} (h : n.Bounded) : n.withdrawAnnounce.Bounded := by
  unfold Node.withdrawAnnounce
  split
  · exact h
  · exact { h with mh := { h.mh with } }

theorem Node.Bounded.emptyProbe {n : Node} (h : n.Bounded) : n.emptyProbe.Bounded := by
  unfold Node.emptyProbe
  split
  · exact h
  · exact { h with mh := { h.mh with } }

theorem Node.Bounded.leavePlaces {n : Node} (h : n.Bounded) (d : Du) (st : TbState) (src : BitVec 4) :
    (n.leavePlaces d st src).Bounded := by
  have h1 : (if d.state.isSelf && !st.isSelf then n.withdrawAnnounce else n).Bounded := by
    split
    · exact h.withdrawAnnounce
    · exact h
  unfold Node.leavePlaces
  simp only []
  split
  · exact h1
  · exact h1.emptyProbe

theorem Node.Bounded.enter {n : Node} (h : n.Bounded) (c : Settled) (st : TbState) (src : BitVec 4) :
    (n.enter c st src).Bounded := by
  unfold Node.enter
  simp only []
  split
  · exact h
  · have h1 : ({ n with du := n.du.enter c.h st src, tb := n.tb.enter n.du st } : Node).Bounded :=
      { h with du := h.du.enter _ _ _, tb := h.tb.enter h.du _ }
    exact ((h1.raiseIf _ _).raiseIf _ _).leavePlaces _ _ _


theorem Node.Bounded.chooseSelf {n : Node} (h : n.Bounded) (c : Settled) : (n.chooseSelf c).Bounded :=
  h.enter c _ _

theorem Node.Bounded.choosePeer {n : Node} (h : n.Bounded) (c : Settled) (k : Cand) :
    (n.choosePeer c k).Bounded := by
  unfold Node.choosePeer
  split
  · exact h
  · have h1 := h.enter c .followAcq k.node
    exact Node.Bounded.emptyProbe { h1 with du := { h1.du with delay := by simp } }

theorem Du.Bounded.recompute {d : Du} (h : d.Bounded) : d.recompute.Bounded := { h with }

theorem Node.Bounded.select {n : Node} (h : n.Bounded) (c : Settled) : (n.select c).Bounded := by
  unfold Node.select
  simp only []
  have key : ∀ m : Node, m.Bounded → ({ m with du := m.du.recompute } : Node).Bounded :=
    fun m hm => { hm with du := hm.du.recompute }
  apply key
  split
  · exact h.chooseSelf c
  · split
    · exact h.choosePeer c _
    · exact h.chooseSelf c

theorem Node.Bounded.refreshClass {n : Node} (h : n.Bounded) (c : Settled) : (n.refreshClass c).Bounded := by
  unfold Node.refreshClass
  split
  · exact h
  · exact h.select c

theorem Node.Bounded.expireHoldover {n : Node} (h : n.Bounded) (c : Settled) : (n.expireHoldover c).Bounded :=
  ((h.enter c _ _).raise _).refreshClass c

theorem Node.Bounded.spendCredit {n : Node} (h : n.Bounded) (c : Settled) : (n.spendCredit c).Bounded := by
  unfold Node.spendCredit
  have h1 : ({ n with du := { n.du with credit := n.du.credit - 1 } } : Node).Bounded :=
    { h with du := { h.du with } }
  split
  · simp only []
    split
    · exact h1.expireHoldover c
    · exact h1
  · exact h

theorem youngCands_length (m : Nat) (l : List Cand) : (youngCands m l).length ≤ l.length :=
  List.length_filter_le _ _

theorem Node.Bounded.removeAged {n : Node} (h : n.Bounded) (c : Settled) : (n.removeAged c).Bounded := by
  unfold Node.removeAged
  split
  · exact h
  · have h1 : ({ n with du := { n.du with cands := youngCands c.m n.du.cands } } : Node).Bounded :=
      { h with du := { h.du with cands := (youngCands_length _ _).trans h.du.cands } }
    exact h1.select c

theorem Node.Bounded.ageCands {n : Node} (h : n.Bounded) (c : Settled) : (n.ageCands c).Bounded := by
  unfold Node.ageCands
  apply Node.Bounded.removeAged
  exact { h with du := { h.du with cands := by simpa using h.du.cands } }

theorem Du.Bounded.abandonProbe {d : Du} (h : d.Bounded) : d.abandonProbe.Bounded := { h with }

theorem Du.Bounded.lowerProbe {d : Du} (h : d.Bounded) : d.lowerProbe.Bounded := by
  unfold Du.lowerProbe
  split
  · exact h
  · split
    · exact h.abandonProbe
    · exact { h with }

theorem Node.Bounded.queueProbe {n : Node} (h : n.Bounded) (c : Settled) : (n.queueProbe c).Bounded := by
  unfold Node.queueProbe
  simp only []
  have h1 : ({ n with du := { n.du with countdown := n.du.countdown - 1 } } : Node).Bounded :=
    { h with du := { h.du with } }
  split
  · exact { h1 with mh := { h1.mh with }, du := { h1.du with } }
  · exact h1

theorem Node.Bounded.queueAnnounce {n : Node} (h : n.Bounded) (c : Settled) : (n.queueAnnounce c).Bounded := by
  unfold Node.queueAnnounce
  split
  · exact { h with mh := { h.mh with } }
  · exact h

theorem Sg.frameStart_active {sg : Sg} (ha : sg.active.length ≤ 12)
    (hh : ∀ l, sg.holder = some l → l.length ≤ 12) : sg.frameStart.active.length ≤ 12 := by
  unfold Sg.frameStart Sg.swap
  split
  · exact ha
  · next l hl => exact hh l hl

theorem Sg.frameStart_holder {sg : Sg} : sg.frameStart.holder = none := by
  unfold Sg.frameStart Sg.swap
  split
  · assumption
  · rfl

theorem Rh.countJoining_settled (rh : Rh) : rh.countJoining.settled = rh.settled := by
  unfold Rh.countJoining
  split
  · split <;> rfl
  · rfl

theorem Node.Bounded.frameStartTb {n : Node} (h : n.Bounded) (c : Settled) : (n.frameStartTb c).Bounded :=
  { h with
    tb := h.tb.frameStart c _
    active := Sg.frameStart_active h.active h.holder
    holder := by
      intro l hl
      simp [Node.frameStartTb, Sg.frameStart_holder] at hl
    settled := by
      intro k hk
      have h1 : (n.frameStartTb c).rh.settled = n.rh.settled := Rh.countJoining_settled _
      exact h.settled k (h1.symm.trans hk) }

theorem Node.Bounded.frameStartDu {n : Node} (h : n.Bounded) (c : Settled) : (n.frameStartDu c).Bounded := by
  unfold Node.frameStartDu
  have key : ∀ m : Node, m.Bounded → ({ m with du := m.du.lowerProbe } : Node).Bounded :=
    fun m hm => { hm with du := hm.du.lowerProbe }
  exact ((key _ ((h.spendCredit c).ageCands c)).queueProbe c).queueAnnounce c

theorem Node.Bounded.frameStart {n : Node} (h : n.Bounded) (c : Settled) : (n.frameStart c).Bounded :=
  (h.frameStartTb c).frameStartDu c

theorem clamp_low (k : Int) : -1023 ≤ clamp k := by unfold clamp; omega

theorem clamp_high (k : Int) : clamp k ≤ 1023 := by unfold clamp; omega

theorem Node.Bounded.stepBy {n : Node} (h : n.Bounded) (c : Settled) (e : Int) : (n.stepBy c e).Bounded := by
  unfold Node.stepBy
  simp only []
  have h1 : ({ n with
      tb := { n.tb.requestStep e with q := n.du.i }
      du := { n.du with
        lock := 0, tracking := !(n.du.state == .selfRef) && n.du.tracking
        steps := Counter.bump n.du.steps } } : Node).Bounded :=
    { h with
      tb := ⟨h.du.iLow, h.du.iHigh, h.tb.history⟩
      du := { h.du with lock := Nat.zero_le _ } }
  have h2 := (h1.raise .step).raiseIf (n.du.state == .selfRef && n.du.tracking) .lockLost
  have key : ∀ m : Node, m.Bounded → (if m.tb.frameDue then m.frameStart c else m).Bounded := by
    intro m hm
    split
    · exact hm.frameStart c
    · exact hm
  apply key
  split
  · exact (h2.enter c _ _).refreshClass c
  · exact h2

theorem Node.Bounded.gainLock {n : Node} (h : n.Bounded) (c : Settled) : (n.gainLock c).Bounded := by
  unfold Node.gainLock
  split
  · exact ((h.enter c _ _).raise _).refreshClass c
  · have h1 : ({ n with du := { n.du with tracking := true } } : Node).Bounded := { h with du := { h.du with } }
    exact h1.raise _
  · exact h

theorem Node.Bounded.loseTracking {n : Node} (h : n.Bounded) : n.loseTracking.Bounded := by
  unfold Node.loseTracking
  split
  · have h1 : ({ n with du := { n.du with tracking := false } } : Node).Bounded := { h with du := { h.du with } }
    exact h1.raise _
  · exact h

theorem Node.Bounded.slew {n : Node} (h : n.Bounded) (c : Settled) (m : Nat) (e : Int) :
    (n.slew c m e).Bounded := by
  have h1 : ({ n with
      tb := { n.tb with q := newTrim m e n.du.i }
      du := { n.du with
        i := newIntegral m e n.du.i
        lock := if e.natAbs ≤ c.lockWindow then min 4 (n.du.lock + 1) else 0 } } : Node).Bounded :=
    { h with
      tb := ⟨clamp_low _, clamp_high _, h.tb.history⟩
      du := ⟨clamp_low _, clamp_high _, h.du.cands, h.du.delay, by
        show (if _ then _ else _) ≤ 4
        split
        · exact Nat.min_le_left _ _
        · exact Nat.zero_le _⟩ }
  have key : ∀ (m : Node) (p q : Prop) [Decidable p] [Decidable q], m.Bounded →
      (if p then if q then m.gainLock c else m else m.loseTracking).Bounded := by
    intro m p q _ _ hm
    split
    · split
      · exact hm.gainLock c
      · exact hm
    · exact hm.loseTracking
  exact key _ _ _ h1

theorem Node.Bounded.correct {n : Node} (h : n.Bounded) (c : Settled) (m : Nat) (e : Int) :
    (n.correct c m e).Bounded := by
  unfold Node.correct
  split
  · exact h.stepBy c _
  · exact h.slew c m _

theorem tableAfter_length {node : BitVec 4} {cls : Nat} {l r : List Cand} {b : Bool} (hl : l.length ≤ 4)
    (h : tableAfter node cls l = some (r, b)) : r.length ≤ 4 := by
  unfold tableAfter at h
  split at h
  · cases h
    simpa using hl
  · split at h
    · next h4 => cases h; simp; omega
    · split at h
      · cases h
      · next w hw =>
        split at h
        · cases h
          have hm : w ∈ l := by
            have : ∀ (l : List Cand) (b : Option Cand), (∀ x, b = some x → x ∈ l ∨ True) →
                l.foldl worseCand b = some w → w ∈ l ∨ b = some w := by
              intro l
              induction l with
              | nil => intro b _ hb; exact Or.inr hb
              | cons x xs ih =>
                intro b _ hb
                rcases ih _ (fun _ _ => Or.inr trivial) hb with hx | hx
                · exact Or.inl (List.mem_cons_of_mem _ hx)
                · unfold worseCand at hx
                  split at hx
                  · cases hx; exact Or.inl (List.mem_cons_self ..)
                  · split at hx
                    · cases hx; exact Or.inl (List.mem_cons_self ..)
                    · exact Or.inr hx
            rcases this l none (fun _ h => nomatch h) hw with hx | hx
            · exact hx
            · cases hx
          have := List.length_erase_of_mem hm
          have : 0 < l.length := List.length_pos_of_mem hm
          simp; omega
        · cases h

theorem Node.Bounded.relabel {n : Node} (h : n.Bounded) (a b : Word16) : (n.relabel a b).Bounded := by
  unfold Node.relabel
  split
  · exact h
  · have h1 : ({ n with tb := n.tb.renumber a b } : Node).Bounded := { h with tb := h.tb.renumber _ _ }
    exact h1.raise _

theorem Node.Bounded.measureAnnounce {n : Node} (h : n.Bounded) (c : Settled) (a : AnnounceBody) (t : Word32) :
    (n.measureAnnounce c a t).Bounded := by
  unfold Node.measureAnnounce
  split
  · exact h.correct c _ _
  · split
    · exact h
    · exact (h.relabel _ _).correct c _ _

theorem Node.Bounded.followAnnounce {n : Node} (h : n.Bounded) (c : Settled) (s : BitVec 4) (a : AnnounceBody)
    (t : Word32) : (n.followAnnounce c s a t).Bounded := by
  unfold Node.followAnnounce
  split
  · simp only []
    have h1 := h.measureAnnounce c a t
    split
    · exact { h1 with tb := h1.tb.handOff _ _ _ }
    · exact h1
  · exact h

theorem Node.Bounded.ignoreAnnounce {n : Node} (h : n.Bounded) : n.ignoreAnnounce.Bounded :=
  { h with du := { h.du with } }

theorem Node.Bounded.announced {n : Node} (h : n.Bounded) (c : Settled) (key : Key) (payload : List Byte)
    (t : Word32) : (n.announced c key payload t).Bounded := by
  unfold Node.announced
  simp only []
  split
  · exact h.ignoreAnnounce
  · split
    · exact h.ignoreAnnounce
    · next l changed hl =>
      apply Node.Bounded.followAnnounce
      have h1 : ({ n with du := n.du.takeTable (announceNode key) (announceClass key) l } : Node).Bounded :=
        { h with du := { h.du with cands := tableAfter_length h.du.cands hl } }
      have h2 : (if changed = true then
          Node.select c { n with du := n.du.takeTable (announceNode key) (announceClass key) l }
          else Node.refreshClass c { n with du := n.du.takeTable (announceNode key) (announceClass key) l }).Bounded := by
        split
        · exact h1.select c
        · exact h1.refreshClass c
      have key : ∀ (m : Node) (p : Prop) [Decidable p], m.Bounded → (if p then m.withdrawAnnounce else m).Bounded := by
        intro m p _ hm
        split
        · exact hm.withdrawAnnounce
        · exact hm
      exact key _ _ h2

theorem Du.Bounded.filterDelay {d : Du} (h : d.Bounded) {k : Nat} (hk : k ≤ 4095) : (d.filterDelay k).Bounded :=
  { h with
    delay := by
      intro _
      show (if d.dValid then _ else _) ≤ 4095
      split
      · next hv =>
        have hd := h.delay hv
        have : ((k : Int) - d.dEst).tdiv 4 ≤ 4095 - d.dEst := by
          rcases le_or_gt 0 ((k : Int) - d.dEst) with hp | hp
          · rw [Int.tdiv_eq_ediv_of_nonneg hp]; omega
          · have h1 : (-((k : Int) - d.dEst)).tdiv 4 = -((k : Int) - d.dEst).tdiv 4 := Int.neg_tdiv ..
            rw [Int.tdiv_eq_ediv_of_nonneg (by omega)] at h1
            omega
        omega
      · exact hk }

theorem Node.Bounded.takeDelay {n : Node} (h : n.Bounded) (c : Settled) (k : Int) : (n.takeDelay c k).Bounded := by
  unfold Node.takeDelay
  split
  · exact { h with du := { h.du with } }
  · next hk =>
    simp only []
    apply Node.Bounded.raiseIf
    exact { h with du := h.du.filterDelay (by simp at hk; omega) }

theorem Node.Bounded.discardReply {n : Node} (h : n.Bounded) : n.discardReply.Bounded :=
  { h with du := { h.du with } }

theorem Node.Bounded.delayReply {n : Node} (h : n.Bounded) (c : Settled) (key : Key) (payload : List Byte)
    (t : Word32) : (n.delayReply c key payload t).Bounded := by
  unfold Node.delayReply
  split
  · split
    · exact h.discardReply
    · split
      · have h1 : ({ n with du := { n.du with probe := none } } : Node).Bounded := { h with du := { h.du with } }
        exact h1.takeDelay c _
      · exact h.discardReply
  · exact h

theorem Node.Bounded.loseReference {n : Node} (h : n.Bounded) (c : Settled) : (n.loseReference c).Bounded := by
  unfold Node.loseReference
  have h1 : ({ n with du := { n.du with mon := .absent, anchor := none, validRun := 0, invalidRun := 0 } } : Node).Bounded :=
    { h with du := { h.du with } }
  exact (h1.raiseIf _ _).refreshClass c

theorem Node.Bounded.measurePulse {n : Node} (h : n.Bounded) (c : Settled) : (n.measurePulse c).Bounded := by
  unfold Node.measurePulse
  split
  · split
    · exact h
    · exact h.correct c _ _
  · exact h

theorem Node.Bounded.invalidPulse {n : Node} (h : n.Bounded) (c : Settled) : (n.invalidPulse c).Bounded := by
  unfold Node.invalidPulse
  simp only []
  have h1 : ({ n with du := { n.du with invalidRun := n.du.invalidRun + 1, validRun := 0 } } : Node).Bounded :=
    { h with du := { h.du with } }
  split
  · exact h1.loseReference c
  · exact h1

theorem Node.Bounded.pulse {n : Node} (h : n.Bounded) (c : Settled) : (n.pulse c).Bounded := by
  unfold Node.pulse
  split
  · have h1 : ({ n with du := n.du.takeValid n.tb.e } : Node).Bounded := { h with du := { h.du with } }
    exact (h1.refreshClass c).measurePulse c
  · exact h.invalidPulse c

end Sys2Proof.Machine
end

