-- ==== Sys2Proof/Laws/BoundsService.lean ====
section
/-! SUPPORT. One lemma for each shared operation: the service interface and the message handler keep the bounds of
Safety.lean. -/

namespace Sys2Proof.Machine

/-! ## SI and MH -/

theorem Node.Bounded.withSi {n : Node} (h : n.Bounded) {si : Si} (hs : si.Bounded) :
    ({ n with si := si } : Node).Bounded :=
  { h with si := hs }

theorem Node.Bounded.withMh {n : Node} (h : n.Bounded) {mh : Mh} (hm : mh.Bounded) :
    ({ n with mh := mh } : Node).Bounded :=
  { h with mh := hm }

theorem Si.Bounded.moveTo {si : Si} (h : si.Bounded) (t : SiState) : (si.moveTo t).Bounded := { h with }

theorem Node.Bounded.followCounts {n : Node} (h : n.Bounded) : n.followCounts.Bounded := by
  unfold Node.followCounts
  simp only []
  split
  · exact ((h.withSi (h.si.moveTo _)).raise _).raiseIf _ _
  · exact h

theorem Node.Bounded.setListenOnly {n : Node} (h : n.Bounded) (v : Bool) : (n.setListenOnly v).Bounded := by
  have h1 : ({ n with
      si := { n.si with listenOnly := v || n.rh.straps.node == 15 }
      rh := { n.rh with pending := { n.rh.pending with listenOnly := none } } } : Node).Bounded :=
    { h with si := { h.si with } }
  have key : ∀ (m : Node) (p : Prop) [Decidable p], m.Bounded →
      (if p then m.withdrawAnnounce.emptyProbe else m).Bounded := by
    intro m p _ hm
    split
    · exact hm.withdrawAnnounce.emptyProbe
    · exact hm
  exact key _ _ h1

theorem Node.Bounded.takeListenOnly {n : Node} (h : n.Bounded) : n.takeListenOnly.Bounded := by
  unfold Node.takeListenOnly
  split
  · exact h
  · exact h.setListenOnly _

theorem Mh.Bounded.setSlot {mh : Mh} (h : mh.Bounded) (i : Nat) (s : SlotState) : (mh.setSlot i s).Bounded :=
  { h with slots := by simpa [Mh.setSlot] using h.slots }

theorem Mh.Bounded.takeOffer {mh : Mh} (h : mh.Bounded) (p : Place) : (mh.takeOffer p).Bounded := by
  unfold Mh.takeOffer
  split
  · split
    · exact h.setSlot _ _
    · exact h
  · exact h

theorem Mh.Bounded.giveUpOffer {mh : Mh} (h : mh.Bounded) (p : Place) : (mh.giveUpOffer p).Bounded := by
  unfold Mh.giveUpOffer
  split
  · split
    · exact h.setSlot _ _
    · exact h
  · exact h

theorem Node.Bounded.beginMessage {n : Node} (h : n.Bounded) (o : Offer) : (n.beginMessage o).Bounded :=
  { h with mh := h.mh.takeOffer _, si := { h.si with } }

theorem Node.Bounded.atIdlePoint {n : Node} (h : n.Bounded) : n.atIdlePoint.Bounded := by
  unfold Node.atIdlePoint
  split
  · exact h.takeListenOnly
  · exact h

theorem Node.Bounded.offer {n : Node} (h : n.Bounded) (c : Settled) : (n.offer c).Bounded := by
  unfold Node.offer
  split
  · split
    · exact h
    · exact h.beginMessage _
  · exact h

theorem Node.Bounded.messageStart {n : Node} (h : n.Bounded) (c : Settled) : (n.messageStart c).Bounded := by
  unfold Node.messageStart
  split
  · exact h.atIdlePoint.offer c
  · exact h

theorem Mh.Bounded.ended {mh : Mh} (h : mh.Bounded) (p : Place) (sent : Bool) : (mh.ended p sent).Bounded := by
  unfold Mh.ended
  split
  · exact { h with }
  · exact { h with }
  · exact { h with replies := by have := h.replies; simp; omega }
  · exact { h with }
  · exact h.setSlot _ _

theorem Node.Bounded.reportDu {n : Node} (h : n.Bounded) (p : Place) (sent : Bool) (t : Word32) :
    (n.reportDu p sent t).Bounded := by
  unfold Node.reportDu
  split
  · refine { h with du := ?_ }
    show (if sent then n.du.recordProbe n.mh.probe t
      else { n.du with probeAbandoned := Counter.bump n.du.probeAbandoned }).Bounded
    split
    · unfold Du.recordProbe
      split
      · exact h.du
      · exact { h.du with }
    · exact { h.du with }
  · exact h

theorem Node.Bounded.report {n : Node} (h : n.Bounded) (p : Place) (sent : Bool) (t : Word32) :
    (n.report p sent t).Bounded := by
  have h1 := h.reportDu p sent t
  exact (h1.withMh (h1.mh.ended p sent)).raiseIf _ _

theorem Node.Bounded.messageSent {n : Node} (h : n.Bounded) (c : Settled) : (n.messageSent c).Bounded := by
  unfold Node.messageSent
  split
  · exact h
  · split
    · exact h
    · apply Node.Bounded.report
      have h1 : ∀ m : Node, m.Bounded → ({ m with si := m.si.afterOwn } : Node).Bounded :=
        fun m hm => hm.withSi { hm.si with }
      apply h1
      apply Node.Bounded.followCounts
      exact h.withSi { h.si with tec := by have := h.si.tec; show _ - 1 ≤ _; omega }

theorem Node.Bounded.messageFailed {n : Node} (h : n.Bounded) : n.messageFailed.Bounded := by
  unfold Node.messageFailed
  split
  · exact h
  · apply Node.Bounded.report
    exact h.withSi { h.si with }

theorem Node.Bounded.loseArbitration {n : Node} (h : n.Bounded) : n.loseArbitration.Bounded := by
  unfold Node.loseArbitration
  split
  · exact h
  · next o _ =>
    split
    · exact h
    · have h1 : ({ n with mh := n.mh.giveUpOffer o.place, si := n.si.becomeReceiver o.stamp } : Node).Bounded :=
        { h with mh := h.mh.giveUpOffer _, si := { h.si with } }
      have key : ∀ (m : Node) (p : Prop) [Decidable p], m.Bounded → (if p then m else m.withdrawAnnounce).Bounded := by
        intro m p _ hm
        split
        · exact hm
        · exact hm.withdrawAnnounce
      exact key _ _ h1

theorem tecAfter_le {k : CarrierError} {t : Nat} (h : t ≤ 255) : tecAfter k t ≤ 255 := by
  unfold tecAfter
  split
  · exact h
  · exact Nat.min_le_left _ _

theorem Si.Bounded.countError {si : Si} (h : si.Bounded) (k : CarrierError) : (si.countError k).Bounded where
  tec := by
    show (if si.onCarrier.isSome then _ else _) ≤ 255
    split
    · exact tecAfter_le h.tec
    · exact h.tec
  recCount := by
    show (if (si.onCarrier.isSome || decide (si.state = .silenced)) = true then _ else _) ≤ 255
    split
    · exact h.recCount
    · exact Nat.min_le_left _ _

theorem Si.Bounded.newBit {si : Si} (h : si.Bounded) : si.newBit.Bounded := { h with }

theorem Si.Bounded.afterError {si : Si} (h : si.Bounded) (c : Settled) (k : CarrierError) (wasActive : Bool) :
    (si.afterError c k wasActive).Bounded := by
  have h1 : (si.voidMessage c k wasActive).Bounded := { h with }
  unfold Si.afterError
  split
  · exact h1.newBit
  · exact h1

theorem Node.Bounded.serviceError {n : Node} (h : n.Bounded) (c : Settled) (k : CarrierError) :
    (n.serviceError c k).Bounded := by
  unfold Node.serviceError
  simp only []
  split
  · have h1 := (h.withSi (h.si.countError k)).followCounts
    exact h1.withSi (h1.si.afterError c k _)
  · exact h

theorem Node.Bounded.recover {n : Node} (h : n.Bounded) : n.recover.Bounded := by
  unfold Node.recover
  split
  · apply Node.Bounded.raise
    exact h.withSi ⟨Nat.zero_le _, Nat.zero_le _⟩
  · exact h

theorem Si.Bounded.recoveryBit {si : Si} (h : si.Bounded) (b : Bool) : (si.recoveryBit b).Bounded := by
  unfold Si.recoveryBit
  split
  · split
    · exact { h with }
    · split <;> exact { h with }
  · exact h

theorem Si.Bounded.countSpaces {si : Si} (h : si.Bounded) (key : Key) (payload : List Byte) (marked : Bool) :
    (si.countSpaces key payload marked).Bounded := by
  have key : ∀ (l : List Bool) (si : Si), si.Bounded → (l.foldl (fun si b => si.recoveryBit b) si).Bounded := by
    intro l
    induction l with
    | nil => exact fun _ h => h
    | cons b l ih => exact fun si h => ih _ (h.recoveryBit b)
  unfold Si.countSpaces
  split
  · exact h
  · exact key _ _ h

theorem Si.Bounded.countReceived {si : Si} (h : si.Bounded) : si.countReceived.Bounded where
  tec := h.tec
  recCount := by
    show (if si.state = .silenced then si.recCount else si.recCount - 1) ≤ 255
    have := h.recCount
    split <;> omega

theorem Si.Bounded.endReceived {si : Si} (h : si.Bounded) (c : Settled) : (si.endReceived c).Bounded := { h with }

theorem Node.Bounded.received {n : Node} (h : n.Bounded) (c : Settled) (key : Key) (payload : List Byte)
    (marked : Bool) : (n.received c key payload marked).Bounded := by
  unfold Node.received
  exact (h.withSi (((h.si.countSpaces key payload marked).countReceived).endReceived c)).followCounts

theorem Si.Bounded.advance {si : Si} (h : si.Bounded) (c : Settled) : (si.advance c).Bounded := by
  unfold Si.advance
  split
  · exact { h.newBit with }
  · exact { h with }

theorem Si.Bounded.resync {si : Si} (h : si.Bounded) (c : Settled) : (si.resync c).Bounded := by
  unfold Si.resync
  simp only []
  split
  · exact h
  · split
    · exact { h.newBit with }
    · exact { h with }

theorem Si.Bounded.beginReceiving {si : Si} (h : si.Bounded) (e : Word32) : (si.beginReceiving e).Bounded := { h with }

theorem Si.Bounded.foreignBit {si : Si} (h : si.Bounded) : si.foreignBit.Bounded := by
  unfold Si.foreignBit
  split <;> exact { h with }

theorem Si.Bounded.ownBit {si : Si} (h : si.Bounded) (o : OnCarrier) : (si.ownBit o).Bounded := by
  unfold Si.ownBit
  split
  · exact h
  · exact { h with }

theorem Si.Bounded.interspaceBit {si : Si} (h : si.Bounded) (e : Word32) : (si.interspaceBit e).Bounded := by
  unfold Si.interspaceBit
  split
  · split <;> exact { h with }
  · split
    · exact h.beginReceiving e
    · exact { h with }

theorem Si.Bounded.recoveringBit {si : Si} (h : si.Bounded) : si.recoveringBit.Bounded := by
  unfold Si.recoveringBit
  split
  · exact { h with }
  · split
    · exact { h with }
    · split <;> exact { h with }

theorem Si.Bounded.sample {si : Si} (h : si.Bounded) (e : Word32) : (si.sample e).Bounded := by
  have h1 := h.recoveryBit si.level
  unfold Si.sample
  simp only []
  split
  · split
    · exact { h1 with }
    · exact h1.beginReceiving e
  · exact h1.interspaceBit e
  · split
    · exact h1.ownBit _
    · exact h1.foreignBit
  · exact h1.recoveringBit

theorem Si.Bounded.sampleDue {si : Si} (h : si.Bounded) (c : Settled) (e : Word32) : (si.sampleDue c e).Bounded := by
  unfold Si.sampleDue
  split
  · exact h.sample e
  · exact h

theorem Si.Bounded.edge {si : Si} (h : si.Bounded) (c : Settled) (e : Word32) : (si.edge c e).Bounded := by
  unfold Si.edge
  split
  · exact { h with }
  · split
    · exact (h.sampleDue c e).resync c
    · exact h.sampleDue c e

theorem Si.Bounded.observe {si : Si} (h : si.Bounded) (c : Settled) (e : Word32) (rx : Bool) :
    (si.observe c e rx).Bounded := by
  unfold Si.observe
  split
  · exact Si.Bounded.edge (si := { si with level := false }) { h with } c e
  · exact Si.Bounded.sampleDue (si := { si with level := si.tx && rx }) { h with } c e

theorem Si.Bounded.tick {si : Si} (h : si.Bounded) (c : Settled) (e : Word32) (rx : Bool) :
    (si.tick c e rx).Bounded := by
  unfold Si.tick
  split
  · exact h
  · exact (Si.Bounded.advance (si := { si with found := none }) { h with } c).observe c e rx

theorem Node.Bounded.answerProbe {n : Node} (h : n.Bounded) (key : Key) (t : Word32) :
    (n.answerProbe key t).Bounded := by
  unfold Node.answerProbe
  split
  · exact h
  · split
    · exact h.withMh { h.mh with }
    · split
      · exact h.withMh { h.mh with }
      · exact h.withMh { h.mh with replies := by simp; omega }

theorem Node.Bounded.fileMail {n : Node} (h : n.Bounded) (key : Key) (payload : List Byte) (t : Word32) :
    (n.fileMail key payload t).Bounded := by
  unfold Node.fileMail
  simp only []
  split
  · exact (h.withMh (h.mh.setSlot _ _)).raise _
  · next i _ _ =>
    have h2 := h.mh.setSlot i (.overrun ⟨key, payload, t⟩)
    apply Node.Bounded.raise
    exact h.withMh ⟨h2.replies, h2.slots⟩
  · exact h.withMh { h.mh with }

theorem Mh.Bounded.take {mh : Mh} (h : mh.Bounded) (i : Nat) : (mh.take i).1.Bounded := by
  unfold Mh.take
  split
  · exact h
  · split
    · exact h.setSlot _ _
    · exact h.setSlot _ _
    · exact h
    · exact h

theorem Mh.Bounded.send {mh : Mh} (h : mh.Bounded) (body : List Byte) : (mh.send body).1.Bounded := by
  unfold Mh.send
  split
  · exact h
  · split
    · exact h
    · split
      · exact h
      · split
        · unfold Mh.sendTo
          split
          · exact h
          · split
            · exact h
            · exact h
            · exact h.setSlot _ _
        · exact h

end Sys2Proof.Machine
end

