-- ==== Sys2Proof/Laws/BoundsStitch.lean ====
section
/-! SUPPORT. One lemma for each shared operation: the launch unit, the stitch engine, the output unit and the lanes
keep the bounds of Safety.lean. -/

namespace Sys2Proof.Machine

/-! ## LU -/

theorem Node.Bounded.dropLine {n : Node} (h : n.Bounded) (d : LineDrop) : (n.dropLine d).Bounded := by
  apply Node.Bounded.raise
  refine { h with launches := ?_ }
  cases d <;> exact h.launches

theorem Node.Bounded.dropFilling {n : Node} (h : n.Bounded) (d : LineDrop) (b : Nat) (l : LineState) :
    (n.dropFilling d b l).Bounded := by
  apply Node.Bounded.dropLine
  exact { h with store := (Ss.setBuf_length _ _ _).trans h.store }

theorem Node.Bounded.endLine {n : Node} (h : n.Bounded) : n.endLine.Bounded := by
  unfold Node.endLine
  split
  · exact h
  · exact h.dropFilling _ _ _
  · exact { h with }

theorem Node.Bounded.frameBegin {n : Node} (h : n.Bounded) : n.frameBegin.Bounded := { h.endLine with }

theorem Node.Bounded.numberLine {n : Node} (h : n.Bounded) : n.numberLine.Bounded := by
  unfold Node.numberLine
  have h1 := Ss.grant_length n.ss n.se.state .lu
  simp only []
  split
  · next ss b hg =>
    rw [hg] at h1
    exact { h with store := h1.trans h.store }
  · next ss hg =>
    rw [hg] at h1
    apply Node.Bounded.dropLine
    exact { h with store := h1.trans h.store }

theorem Node.Bounded.lineBegin {n : Node} (h : n.Bounded) : n.lineBegin.Bounded := by
  unfold Node.lineBegin
  split
  · apply Node.Bounded.dropLine
    exact { h with }
  · exact h.endLine.numberLine

theorem Node.Bounded.payload {n : Node} (h : n.Bounded) (bs : List Byte) : (n.payload bs).Bounded := by
  unfold Node.payload
  split
  · exact { h with }
  · split
    · exact { h with store := (Ss.setBuf_length _ _ _).trans h.store }
    · exact h.dropFilling _ _ _
  · exact h

theorem Node.Bounded.lineEnd {n : Node} (h : n.Bounded) (c : Settled) : (n.lineEnd c).Bounded := by
  unfold Node.lineEnd
  split
  · exact { h with }
  · exact { h with }
  · split
    · exact h.dropFilling _ _ _
    · split
      · exact h.dropFilling _ _ _
      · split
        · exact h.dropFilling _ _ _
        · exact { h with
            store := (Ss.setBuf_length _ _ _).trans h.store
            launches := by simp [Node.queueSegment]; omega }

theorem Node.Bounded.launched {n : Node} (h : n.Bounded) : n.launched.Bounded := by
  unfold Node.launched
  split
  · exact h
  · next g rest hq =>
    have := h.launches
    rw [hq] at this
    simp at this
    exact { h with
      store := (Ss.setBuf_length _ _ _).trans h.store
      launches := by show rest.length ≤ 8; omega }

/-! ## SE -/

/-- In RUN only the table and the stray run are bounded. -/
theorem Se.Bounded.ofRun {se : Se} {f : FrameCtx} (hr : se.state = .run f) (ht : se.table.length ≤ 16)
    (hs : se.strayRun < 8) : se.Bounded where
  table := ht
  stray := hs
  idleTable := by rw [hr]; intro h; cases h
  idleHolds := by rw [hr]; intro h; cases h
  idleStray := by rw [hr]; intro h; cases h
  flushTable := by rw [hr]; intro _ h; cases h

/-- In FLUSHING the table is empty. -/
theorem Se.Bounded.ofFlushing {se : Se} {f : FrameCtx} (hr : se.state = .flushing f) (ht : se.table = [])
    (hs : se.strayRun < 8) : se.Bounded where
  table := by rw [ht]; exact Nat.zero_le _
  stray := hs
  idleTable := by rw [hr]; intro h; cases h
  idleHolds := by rw [hr]; intro h; cases h
  idleStray := by rw [hr]; intro h; cases h
  flushTable := fun _ _ => ht

theorem Se.Bounded.enterIdle (se : Se) : se.enterIdle.Bounded :=
  ⟨Nat.zero_le _, (by decide : 0 < 8), fun _ => rfl, fun _ => rfl, fun _ => rfl, fun _ _ => rfl⟩

/-- Out of RUN the table is empty. -/
theorem Se.Bounded.table_nil {se : Se} (h : se.Bounded) (hn : ∀ f, se.state = .run f → False) : se.table = [] := by
  cases hs : se.state with
  | idle => exact h.idleTable hs
  | run f => exact (hn f hs).elim
  | flushing f => exact h.flushTable f hs

/-- A table with no head record is empty. -/
theorem headRecord_nil {fr : BitVec 8} {l : List Record} (h : headRecord fr l = none) : l = [] := by
  have key : ∀ (l : List Record) (b : Record), l.foldl (lowerRecord fr) (some b) ≠ none := by
    intro l
    induction l with
    | nil => intro b hb; cases hb
    | cons x xs ih =>
      intro b hb
      unfold List.foldl at hb
      by_cases hk : x.rank fr < b.rank fr
      · simp only [lowerRecord, hk, if_true] at hb; exact ih x hb
      · simp only [lowerRecord, hk, if_false] at hb; exact ih b hb
  cases l with
  | nil => rfl
  | cons x xs => exact absurd h (key xs x)

theorem Node.Bounded.withSe {n : Node} (h : n.Bounded) {se : Se} (hs : se.Bounded) :
    ({ n with se := se } : Node).Bounded :=
  { h with se := hs }

theorem Ou.freePlaces_pos {ou : Ou} (h : ou.freePlaces ≠ 0) : ou.queue.length < 4 := by
  unfold Ou.freePlaces at h; omega

theorem Ou.enqueue_length (d : Descriptor) (ou : Ou) : (ou.enqueue d).queue.length = ou.queue.length + 1 := by
  simp [Ou.enqueue]

theorem Node.Bounded.releaseLine {n : Node} (h : n.Bounded) (hr : n.ou.queue.length < 4) (f : FrameCtx)
    (q : Four (Option Contribution)) (t : Option Timecode) (k : Nat) (a : Cause) :
    (n.releaseLine f q t k a).Bounded :=
  { h with
    se := Se.Bounded.ofRun rfl h.se.table h.se.stray
    places := by
      show (n.ou.enqueue _).queue.length ≤ 4
      rw [Ou.enqueue_length]; omega }

theorem Node.Bounded.releaseGap {n : Node} (h : n.Bounded) (hr : n.ou.queue.length < 4) (f : FrameCtx) :
    (n.releaseGap f).Bounded :=
  h.releaseLine hr f _ _ _ _

theorem Se.Bounded.withTable {se : Se} (h : se.Bounded) {l : List Record} (hl : l.length ≤ se.table.length)
    (k : Counter) (m : Counter) :
    ({ se with table := l, contribWithdrawn := k, contribDiscarded := m } : Se).Bounded where
  table := hl.trans h.table
  stray := h.stray
  idleTable := by
    intro hs
    rw [h.idleTable hs] at hl
    exact List.length_eq_zero_iff.mp (Nat.le_zero.mp hl)
  idleHolds := h.idleHolds
  idleStray := h.idleStray
  flushTable := by
    intro f hs
    rw [h.flushTable f hs] at hl
    exact List.length_eq_zero_iff.mp (Nat.le_zero.mp hl)

theorem Node.Bounded.releaseRecord {n : Node} (h : n.Bounded) (hr : n.ou.queue.length < 4) (f : FrameCtx)
    (r : Record) (a : Cause) : (n.releaseRecord f r a).Bounded := by
  apply Node.Bounded.releaseLine
  · exact h.withSe (h.se.withTable List.length_erase_le _ _)
  · exact hr

theorem Node.Bounded.discardTable {n : Node} (h : n.Bounded) : n.discardTable.Bounded := by
  apply Node.Bounded.raiseIf
  exact h.withSe (h.se.withTable (Nat.zero_le _) _ _)

theorem Node.discardTable_table (n : Node) : n.discardTable.se.table = [] := by
  unfold Node.discardTable
  simp only [Node.raiseIf, Node.raise]
  split <;> rfl

theorem Node.discardTable_queue (n : Node) : n.discardTable.ou = n.ou := by
  unfold Node.discardTable
  simp only [Node.raiseIf, Node.raise]
  split <;> rfl

theorem Node.Bounded.enterFlushing {n : Node} (h : n.Bounded) (f : FrameCtx) : (n.enterFlushing f).Bounded := by
  apply Node.Bounded.raise
  exact h.discardTable.withSe (Se.Bounded.ofFlushing rfl (Node.discardTable_table n) (by decide : 0 < 8))

theorem Node.Bounded.putFrameEnd {n : Node} (h : n.Bounded) (hr : n.ou.queue.length < 4) (f : FrameCtx)
    (a : EndCause) : (n.putFrameEnd f a).Bounded :=
  { h with
    se := { h.se with }
    places := by
      show (n.ou.enqueue _).queue.length ≤ 4
      rw [Ou.enqueue_length]; omega }

theorem Node.Bounded.flushStep {n : Node} (h : n.Bounded) (hr : n.ou.queue.length < 4) (c : Settled) (f : FrameCtx)
    (hs : n.se.state = .flushing f) : (n.flushStep c f).Bounded := by
  unfold Node.flushStep
  split
  · exact { h with
      se := Se.Bounded.ofFlushing rfl (h.se.flushTable f hs) h.se.stray
      places := by
        show (n.ou.enqueue _).queue.length ≤ 4
        rw [Ou.enqueue_length]; omega }
  · have h1 := h.putFrameEnd hr f .flush
    exact h1.withSe { Se.Bounded.enterIdle (n.putFrameEnd f .flush).se with }

theorem Node.Bounded.withdraw {n : Node} (h : n.Bounded) (m : PlaneSet) : (n.withdraw m).Bounded := by
  apply Node.Bounded.raiseIf
  refine h.withSe (h.se.withTable ?_ _ _)
  exact (List.length_filter_le _ _).trans (by simp)

theorem Node.Bounded.reevaluate {n : Node} (h : n.Bounded) (j : PlaneSet) : (n.reevaluate j).Bounded :=
  h.withSe (h.se.withTable (by simp) _ _)

theorem Node.Bounded.advanceFrame {n : Node} (h : n.Bounded) (hr : n.ou.queue.length < 4) (f : FrameCtx) :
    (n.advanceFrame f).Bounded := by
  have h1 := h.putFrameEnd hr f .normal
  have h2 : ({ n.putFrameEnd f .normal with
      se := { (n.putFrameEnd f .normal).se with
        framesEnded := Counter.bump (n.putFrameEnd f .normal).se.framesEnded } } : Node).Bounded :=
    h1.withSe { h1.se with }
  have key : ∀ (m : Node) (g : FrameCtx) (p : Prop) [Decidable p], m.Bounded →
      (if p then Node.raise
          { m.discardTable with
            se := { m.discardTable.se.enterIdle with
              resyncEmpty := Counter.bump m.discardTable.se.resyncEmpty } } .stitchResync
        else { m with se := { m.se with state := .run g, framesStarted := Counter.bump m.se.framesStarted } }).Bounded := by
    intro m g p _ hm
    split
    · apply Node.Bounded.raise
      exact hm.discardTable.withSe { Se.Bounded.enterIdle m.discardTable.se with }
    · exact hm.withSe (Se.Bounded.ofRun rfl hm.se.table hm.se.stray)
  exact key _ _ _ ((h2.withdraw _).reevaluate _)

theorem Node.Bounded.releaseStep {n : Node} (h : n.Bounded) (hr : n.ou.queue.length < 4) {c : Settled}
    {f : FrameCtx} {n' : Node} (hn : n.releaseStep c f = some n') : n'.Bounded := by
  unfold Node.releaseStep at hn
  split at hn
  · cases hn; exact h.advanceFrame hr f
  · split at hn
    · cases hn
    · split at hn
      · split at hn
        · cases hn; exact h.releaseRecord hr f _ _
        · cases hn; exact h.releaseGap hr f
      · cases hn

theorem Node.Bounded.engineStep {n : Node} (h : n.Bounded) {c : Settled} {n' : Node}
    (hn : n.engineStep c = some n') : n'.Bounded := by
  unfold Node.engineStep at hn
  split at hn
  · cases hn
  · next hp =>
    have hr := Ou.freePlaces_pos hp
    split at hn
    · cases hn
    · exact h.releaseStep hr hn
    · next f hf => cases hn; exact h.flushStep hr c f hf

theorem Node.Bounded.engineSteps {n : Node} (h : n.Bounded) (c : Settled) (k : Nat) :
    (n.engineSteps c k).Bounded := by
  induction k generalizing n with
  | zero => exact h
  | succ k ih =>
    unfold Node.engineSteps
    split
    · exact h
    · next hn => exact ih (h.engineStep hn)

theorem Node.Bounded.runEngine {n : Node} (h : n.Bounded) (c : Settled) : (n.runEngine c).Bounded :=
  h.engineSteps c 4

theorem Node.Bounded.raiseStray {n : Node} (h : n.Bounded) (c : Settled) : (n.raiseStray c).Bounded := by
  unfold Node.raiseStray
  split
  · next f hf =>
    split
    · next hk => exact h.withSe (Se.Bounded.ofRun hf h.se.table hk)
    · apply Node.Bounded.runEngine
      apply Node.Bounded.enterFlushing
      exact h.withSe { h.se with }
  · exact h

theorem Node.Bounded.present {n : Node} (h : n.Bounded) (c : Settled) (p : Fin 4) (fr : BitVec 8) (l : Nat) :
    (n.present c p fr l).1.Bounded := by
  show (if n.judge p fr l = .stray then n.raiseStray c else n).Bounded
  split
  · exact h.raiseStray c
  · exact h

/-- An accepted delivery adds at most one record, and none where its key has one. -/
theorem tableWith_length (j : PlaneSet) (e : Word32) (w : Nat) (d : Delivery) (l : List Record) :
    (tableWith j e w d l).length = if (findRecord d.frame d.line l).isSome then l.length else l.length + 1 := by
  unfold tableWith
  split
  · next hf => simp [hf]
  · next hf => simp [hf]

theorem Node.Bounded.accept {n : Node} (h : n.Bounded) (c : Settled) {f : FrameCtx} (hf : n.se.state = .run f)
    (d : Delivery) (ht : n.se.table.length < 16 ∨ (findRecord d.frame d.line n.se.table).isSome) :
    (n.accept c f d).Bounded := by
  apply Node.Bounded.runEngine
  exact { h with
    store := (Ss.setBuf_length _ _ _).trans h.store
    se := Se.Bounded.ofRun hf
      (by
        show (tableWith f.j n.tb.e n.rh.runtime.w d n.se.table).length ≤ 16
        rw [tableWith_length]
        have := h.se.table
        rcases ht with ht | ht
        · split <;> omega
        · simp [ht]; omega)
      (by decide : 0 < 8) }

theorem Node.Bounded.deliverIdle {n : Node} (h : n.Bounded) (c : Settled) (hs : n.se.table = []) (d : Delivery) :
    (n.deliverIdle c d).1.Bounded := by
  unfold Node.deliverIdle
  split
  · exact h
  · split
    · have h1 : ({ n with se := { n.se with
          state := .run (FrameCtx.begin d.frame n.rh.runtime.mask n.se.lockedSet)
          framesStarted := Counter.bump n.se.framesStarted } } : Node).Bounded :=
        h.withSe (Se.Bounded.ofRun rfl h.se.table h.se.stray)
      exact h1.accept c rfl d (Or.inl (by show n.se.table.length < 16; rw [hs]; decide))
    · exact h

theorem Node.Bounded.force {n : Node} (h : n.Bounded) (c : Settled) (k : Nat) : (n.force c k).Bounded := by
  induction k generalizing n with
  | zero => exact h
  | succ k ih =>
    unfold Node.force
    split
    · split
      · exact h
      · next hp =>
        simp at hp
        have hr := Ou.freePlaces_pos hp.2
        split
        · exact h
        · apply ih
          unfold Node.forceStep
          split
          · exact h.advanceFrame hr _
          · split
            · exact h.releaseRecord hr _ _ _
            · exact h.releaseGap hr _
    · exact h

theorem Node.releaseGap_queue (f : FrameCtx) (n : Node) :
    (n.releaseGap f).ou.queue.length = n.ou.queue.length + 1 :=
  Ou.enqueue_length _ _

theorem Node.advanceFrame_queue (f : FrameCtx) (n : Node) :
    (n.advanceFrame f).ou.queue.length = n.ou.queue.length + 1 := by
  have h1 := Ou.enqueue_length (.frameEnd ⟨f.fCur, .normal, f.tallies⟩) n.ou
  unfold Node.advanceFrame
  simp only []
  split
  · simp only [Node.raise, Node.discardTable_queue, Node.reevaluate, Node.withdraw, Node.raiseIf_ou, Node.putFrameEnd]
    exact h1
  · simp only [Node.reevaluate, Node.withdraw, Node.raiseIf_ou, Node.putFrameEnd]
    exact h1

theorem Node.Bounded.walkTo {n : Node} (h : n.Bounded) (c : Settled) (fr : BitVec 8) (l k : Nat) :
    (n.walkTo c fr l k).Bounded := by
  induction k generalizing n with
  | zero => exact h
  | succ k ih =>
    unfold Node.walkTo
    split
    · split
      · exact h
      · next hp =>
        simp at hp
        have hr : n.ou.queue.length < 4 := by
          have := hp.2
          unfold Ou.freePlaces at this; omega
        split
        · exact ih (h.advanceFrame hr _)
        · exact ih (h.releaseGap hr _)
    · exact h

/-- The walk leaves a place for the line it walks to. -/
theorem Node.walkTo_room {n : Node} (h : n.ou.queue.length < 4) (c : Settled) (fr : BitVec 8) (l k : Nat) :
    (n.walkTo c fr l k).ou.queue.length < 4 := by
  induction k generalizing n with
  | zero => exact h
  | succ k ih =>
    unfold Node.walkTo
    split
    · split
      · exact h
      · next hp =>
        simp at hp
        have hr : n.ou.queue.length < 3 := by
          have := hp.2
          unfold Ou.freePlaces at this; omega
        split
        · exact ih (by rw [Node.advanceFrame_queue]; omega)
        · exact ih (by rw [Node.releaseGap_queue]; omega)
    · exact h

theorem Node.Bounded.ownLine {n : Node} (h : n.Bounded) (c : Settled) {f : FrameCtx} (hf : n.se.state = .run f)
    (hr : n.ou.queue.length < 4) (d : Delivery) : (n.ownLine c f d).Bounded := by
  apply Node.Bounded.runEngine
  apply Node.Bounded.releaseLine
  · exact { h with
      store := (Ss.setBuf_length _ _ _).trans h.store
      se := Se.Bounded.ofRun hf h.se.table (by decide : 0 < 8) }
  · exact hr

theorem Node.Bounded.deliverFull {n : Node} (h : n.Bounded) (c : Settled) (f : FrameCtx)
    (r : Record) (d : Delivery) : (n.deliverFull c f r d).1.Bounded := by
  have hpos : ∀ fr l, 1 ≤ placesTo c f fr l := by
    intro fr l
    unfold placesTo
    split <;> omega
  unfold Node.deliverFull
  simp only []
  split
  · split
    · exact h
    · next hp =>
      have hr : n.ou.queue.length < 4 := by
        have := hpos d.frame d.line
        unfold Ou.freePlaces at hp; omega
      have h1 := h.walkTo c d.frame d.line 4
      have hr1 := Node.walkTo_room hr c d.frame d.line 4
      split
      · next g hg => exact h1.ownLine c hg hr1 d
      · next hg =>
        exact h1.deliverIdle c (h1.se.table_nil hg) d
  · split
    · exact h
    · have h1 := h.force c 4
      split
      · next g hg =>
        split
        · next ht => exact h1.accept c hg d (Or.inl ht)
        · exact h1
      · next hg => exact h1.deliverIdle c (h1.se.table_nil hg) d

theorem Node.Bounded.deliverRun {n : Node} (h : n.Bounded) (c : Settled) {f : FrameCtx} (hf : n.se.state = .run f)
    (d : Delivery) : (n.deliverRun c f d).1.Bounded := by
  unfold Node.deliverRun
  split
  · split
    · exact h.deliverFull c f _ d
    · next ht => exact h.accept c hf d (Or.inl (by omega))
  · next hx =>
    apply h.accept c hf d
    cases hr : findRecord d.frame d.line n.se.table with
    | some r => exact Or.inr rfl
    | none =>
      left
      cases hh : headRecord f.fCur n.se.table with
      | some r => exact absurd hh (hx r hr)
      | none => rw [headRecord_nil hh]; decide

theorem Node.Bounded.deliver {n : Node} (h : n.Bounded) (c : Settled) (d : Delivery) : (n.deliver c d).1.Bounded := by
  unfold Node.deliver
  split
  · next hs => exact h.deliverIdle c (h.se.idleTable hs) d
  · next f hf =>
    split
    · exact h.deliverRun c hf d
    · exact h.raiseStray c
    · exact h
  · exact h

theorem Node.Bounded.planeLocked {n : Node} (h : n.Bounded) (p : Fin 4) : (n.planeLocked p).Bounded :=
  h.withSe { h.se with }

theorem Node.Bounded.planeLost {n : Node} (h : n.Bounded) (c : Settled) (p : Fin 4) : (n.planeLost c p).Bounded := by
  have h1 : ({ n with se := { n.se with lockedSet := PlaneSet.remove n.se.lockedSet p } } : Node).Bounded :=
    h.withSe { h.se with }
  unfold Node.planeLost
  simp only []
  split
  · exact h1
  · next f hf => exact h1.withSe (Se.Bounded.ofFlushing rfl (h1.se.flushTable f hf) h1.se.stray)
  · next f hf =>
    split
    · apply Node.Bounded.runEngine
      apply Node.Bounded.enterFlushing
      exact h1.withSe { h1.se with }
    · apply Node.Bounded.runEngine
      apply Node.Bounded.reevaluate
      exact h1.withSe (Se.Bounded.ofRun rfl h1.se.table h1.se.stray)

theorem Node.Bounded.recordDeadline {n : Node} (h : n.Bounded) (c : Settled) (fr : BitVec 8) (l : Nat) :
    (n.recordDeadline c fr l).Bounded := by
  unfold Node.recordDeadline
  split
  · apply Node.Bounded.settleRefs
    apply Node.Bounded.runEngine
    exact h.withSe (h.se.withTable (by simp) _ _)
  · exact h

/-! ## OU -/

theorem Ou.endRecord_length (ou : Ou) : ou.endRecord.queue.length ≤ ou.queue.length := by
  unfold Ou.endRecord
  split
  · exact Nat.le_refl _
  · next hq => rw [hq]; simp
  · next hq => rw [hq]; simp

theorem Node.Bounded.recordEnd {n : Node} (h : n.Bounded) (c : Settled) : (n.recordEnd c).Bounded := by
  unfold Node.recordEnd
  split
  · apply Node.Bounded.settleRefs
    apply Node.Bounded.runEngine
    exact { h with places := (Ou.endRecord_length _).trans h.places }
  · exact h

theorem Ou.takeWord_queue (ou : Ou) : ou.takeWord.queue = ou.queue := by
  unfold Ou.takeWord
  split
  · split <;> rfl
  · rfl

theorem Ou.takeAbort_queue (ou : Ou) : ou.takeAbort.queue = ou.queue := by
  unfold Ou.takeAbort
  split <;> rfl

theorem Ou.stall_queue (ou : Ou) : ou.stall.queue = ou.queue := by
  unfold Ou.stall
  split
  · split <;> rfl
  · rfl

theorem Node.Bounded.withOu {n : Node} (h : n.Bounded) {ou : Ou} (hq : ou.queue.length ≤ 4) :
    ({ n with ou := ou } : Node).Bounded :=
  { h with places := hq }

/-! ## RL -/

theorem Node.Bounded.onLane {n : Node} (h : n.Bounded) (p : Fin 4) (f : Lane → Lane) : (n.onLane p f).Bounded :=
  { h with }

theorem Node.Bounded.countLane {n : Node} (h : n.Bounded) (p : Fin 4) (k : LaneCount) : (n.countLane p k).Bounded :=
  (h.onLane p _).raiseIf _ _

theorem Node.Bounded.withSs {n : Node} (h : n.Bounded) {ss : Ss} (hs : ss.bufs.length = n.ss.bufs.length) :
    ({ n with ss := ss } : Node).Bounded :=
  { h with store := hs.trans h.store }

theorem Node.Bounded.giveBack {n : Node} (h : n.Bounded) (b : Option Nat) : (n.giveBack b).Bounded := by
  unfold Node.giveBack
  split
  · exact h
  · exact h.withSs (Ss.setBuf_length _ _ _)

theorem Node.Bounded.abandon {n : Node} (h : n.Bounded) (p : Fin 4) : (n.abandon p).Bounded :=
  (h.giveBack _).onLane p _

theorem Node.Bounded.loseLane {n : Node} (h : n.Bounded) (c : Settled) (p : Fin 4) (k : LaneCount) :
    (n.loseLane c p k).Bounded :=
  (((((h.abandon p).onLane p _).countLane p k).raise _).planeLost c p).settleRefs

theorem Node.Bounded.seeCarrier {n : Node} (h : n.Bounded) (p : Fin 4) (v : Bool) : (n.seeCarrier p v).Bounded :=
  { h with }

theorem Node.Bounded.carrierLoss {n : Node} (h : n.Bounded) (c : Settled) (p : Fin 4) :
    (n.carrierLoss c p).Bounded := by
  have h1 := h.seeCarrier p false
  unfold Node.carrierLoss
  simp only []
  split
  · exact h1
  · exact (h1.abandon p).onLane p _
  · exact h1.loseLane c p _

theorem Node.Bounded.badSegment {n : Node} (h : n.Bounded) (c : Settled) (p : Fin 4) (k : LaneCount) :
    (n.badSegment c p k).Bounded := by
  have h1 := (h.abandon p).countLane p k
  have key : ∀ (m : Node) (q : Prop) [Decidable q], m.Bounded →
      (if q then m.loseLane c p .lossBad else m).Bounded := by
    intro m q _ hm
    split
    · exact hm.loseLane c p _
    · exact hm
  unfold Node.badSegment
  simp only []
  split
  · exact h1
  · exact h1.onLane p _
  · exact key _ _ (h1.onLane p _)

theorem Node.Bounded.handBuffer {n : Node} (h : n.Bounded) (c : Settled) (p : Fin 4) (hd : SegHeader) (b : Nat)
    (bs : List Byte) : (n.handBuffer c p hd b bs).Bounded := by
  have h1 : ({ n with ss := n.ss.write b bs } : Node).Bounded := h.withSs (Ss.setBuf_length _ _ _)
  unfold Node.handBuffer
  simp only []
  have h2 := h1.deliver c (({ n with ss := n.ss.write b bs } : Node).delivery p hd b)
  split
  · next n' hn => rw [hn] at h2; exact h2
  · next n' a _ hn =>
    rw [hn] at h2
    apply Node.Bounded.countLane
    exact Node.Bounded.withSs h2 (Ss.setBuf_length _ _ _)

theorem Node.Bounded.handOn {n : Node} (h : n.Bounded) (c : Settled) (p : Fin 4) (hd : SegHeader) (d : Disposition)
    (bs : List Byte) : (n.handOn c p hd d bs).Bounded := by
  unfold Node.handOn
  split
  · exact (h.handBuffer c p hd _ bs).settleRefs
  · exact (h.present c p _ _).settleRefs
  · exact ((h.present c p _ _).countLane p _).settleRefs

theorem Node.Bounded.lockLane {n : Node} (h : n.Bounded) (p : Fin 4) : (n.lockLane p).Bounded :=
  ((h.onLane p _).planeLocked p).raise _

theorem Node.Bounded.goodSegment {n : Node} (h : n.Bounded) (c : Settled) (p : Fin 4) (hd : SegHeader)
    (d : Disposition) (bs : List Byte) : (n.goodSegment c p hd d bs).Bounded := by
  have h1 := (h.countLane p .good).onLane p fun l =>
    { l with deadline := some (eAdd n.tb.e (c.silenceLimit hd.line)) }
  unfold Node.goodSegment
  simp only []
  split
  · exact h1.abandon p
  · split
    · exact (h1.abandon p).onLane p _
    · exact ((h1.onLane p _).lockLane p).handOn c p hd d bs
  · exact (h1.onLane p _).handOn c p hd d bs

theorem Node.Bounded.segmentEnd {n : Node} (h : n.Bounded) (c : Settled) (p : Fin 4) (how : SegEnd) (v : Bool)
    (bs : List Byte) : (n.segmentEnd c p how v bs).Bounded := by
  unfold Node.segmentEnd
  split
  · exact h
  · exact h.badSegment c p _
  · split
    · exact h.goodSegment c p _ _ _
    · split <;> exact h.badSegment c p _

theorem Node.Bounded.startDelimiter {n : Node} (h : n.Bounded) (c : Settled) (p : Fin 4) (cp : Bool) :
    (n.startDelimiter c p cp).Bounded := by
  unfold Node.startDelimiter
  split
  · exact ((h.seeCarrier p true).segmentEnd c p _ _ _).onLane p _
  · exact h.carrierLoss c p

theorem Node.Bounded.askGrant {n : Node} (h : n.Bounded) (p : Fin 4) (bs : List Byte) (hd : SegHeader) :
    (n.askGrant p bs hd).Bounded := by
  unfold Node.askGrant
  have h1 := Ss.grant_length n.ss n.se.state (.lane p hd.frame hd.line)
  split
  · next hg =>
    rw [hg] at h1
    exact (h.withSs h1).onLane p _
  · next hg =>
    rw [hg] at h1
    exact ((h.withSs h1).onLane p _).countLane p _

theorem Node.Bounded.segmentHeader {n : Node} (h : n.Bounded) (c : Settled) (p : Fin 4) (bs : List Byte) :
    (n.segmentHeader c p bs).Bounded := by
  unfold Node.segmentHeader
  simp only []
  split
  · split
    · exact h.askGrant p bs _
    · exact h.onLane p _
  · exact h

theorem Node.Bounded.silenceTimeout {n : Node} (h : n.Bounded) (c : Settled) (p : Fin 4) :
    (n.silenceTimeout c p).Bounded := by
  unfold Node.silenceTimeout
  split
  · split
    · exact h
    · exact h.onLane p _
    · exact h.loseLane c p _
  · exact h

end Sys2Proof.Machine
end

