-- ==== Sys2Proof/Laws/BoundsRequests.lean ====
section
/-! SUPPORT. One lemma for each shared operation: the request handler, the resets and the shapes of the commands keep
the bounds of Safety.lean. -/

namespace Sys2Proof.Machine

/-! ## RH -/

theorem Node.Bounded.setMailbox {n : Node} (h : n.Bounded) (m : Mailbox) : (n.setMailbox m).Bounded := { h with }

/-- A request keeps the bounds if its operation does. -/
theorem Node.Bounded.request {n : Node} (h : n.Bounded) (addr : BitVec 7) (body : List Byte)
    {f : Node → Node × Response} (hf : ∀ m : Node, m.Bounded → (f m).1.Bounded) : (n.request addr body f).Bounded := by
  unfold Node.request
  split
  · exact (hf _ (h.setMailbox _)).setMailbox _
  · exact h

theorem readStrobes_length (k : Nat) (bs : List Byte) : (readStrobes k bs).length = k := by
  induction k generalizing bs with
  | zero => rfl
  | succ k ih => simp [readStrobes, ih]

theorem readSlots_length (k : Nat) (bs : List Byte) : (readSlots k bs).length = k := by
  induction k generalizing bs with
  | zero => rfl
  | succ k ih => simp [readSlots, ih]

theorem settled_lengths (bs : List Byte) :
    (SettleBlock.ofBytes bs).settled.schedule.length ≤ 12 ∧ (SettleBlock.ofBytes bs).settled.slots.length = 12 := by
  simp [SettleBlock.settled, SettleBlock.ofBytes, readStrobes_length, readSlots_length]

theorem Node.Bounded.acceptSettle {n : Node} (h : n.Bounded) {c : Settled}
    (hc : c.schedule.length ≤ 12 ∧ c.slots.length = 12) : (n.acceptSettle c).Bounded where
  tb := h.tb.frameZero c
  du := h.du
  se := h.se
  si := { h.si with }
  mh := { h.mh with slots := by simpa [Node.acceptSettle, Mh.settle] using hc.2 }
  store := h.store
  launches := by
    have := h.launches
    simp only [Node.acceptSettle, Lu.settle]
    split <;> exact this
  places := h.places
  active := hc.1
  holder := h.holder
  settled := by
    intro k hk
    cases hk
    exact hc

theorem Node.Bounded.settle {n : Node} (h : n.Bounded) (body : List Byte) : (n.settle body).1.Bounded := by
  unfold Node.settle
  split
  · exact h
  · split
    · exact h
    · split
      · exact h
      · exact h.acceptSettle (settled_lengths body)

theorem Node.Bounded.takeItem {n : Node} (h : n.Bounded) {c : Settled} {i : AdjustItem} (hi : i.legal c = true) :
    (n.takeItem c i).Bounded := by
  unfold Node.takeItem
  simp only []
  split
  · exact { h with }
  · exact { h with }
  · exact { h with }
  · exact { h with }
  · exact { h with }
  · exact { h with }
  · exact { h with }
  · next k l =>
    refine { h with holder := ?_ }
    intro r hr
    cases hr
    simp [AdjustItem.legal, scheduleLegal] at hi
    simpa using hi.1

theorem Node.Bounded.takeItems {n : Node} (h : n.Bounded) {c : Settled} {l : List AdjustItem}
    (hl : l.all (AdjustItem.legal c) = true) : (n.takeItems c l).Bounded := by
  unfold Node.takeItems
  apply Node.Bounded.atIdlePoint
  induction l generalizing n with
  | nil => exact h
  | cons x xs ih =>
    simp only [List.all_cons, Bool.and_eq_true] at hl
    exact ih (h.takeItem hl.1) hl.2

theorem Node.Bounded.adjust {n : Node} (h : n.Bounded) (body : List Byte) : (n.adjust body).1.Bounded := by
  unfold Node.adjust
  split
  · exact h
  · split
    · exact h
    · unfold Node.adjustItems
      split
      · next hl =>
        simp only [Bool.and_eq_true] at hl
        exact h.takeItems hl.1
      · exact h

theorem Node.Bounded.send {n : Node} (h : n.Bounded) (body : List Byte) : (n.send body).1.Bounded := by
  unfold Node.send
  split
  · exact h
  · exact h.withMh (h.mh.send body)

theorem Node.Bounded.take {n : Node} (h : n.Bounded) (body : List Byte) : (n.take body).1.Bounded := by
  unfold Node.take
  split
  · exact h
  · split
    · exact h
    · exact h.withMh (h.mh.take _)

theorem Node.Bounded.clearSection {n : Node} (h : n.Bounded) (k : Nat) : (n.clearSection k).Bounded := by
  unfold Node.clearSection
  split
  · exact { h with tb := { h.tb with }, du := { h.du with } }
  · simp only []
    split <;> exact { h with }
  · exact { h with se := { h.se with } }
  · exact { h with si := { h.si with }, mh := { h.mh with } }
  · exact { h with mh := { h.mh with } }
  · exact h

theorem Node.Bounded.statusClear {n : Node} (h : n.Bounded) (body : List Byte) : (n.statusClear body).Bounded := by
  unfold Node.statusClear
  split
  · exact h
  · exact h.clearSection _

theorem Node.Bounded.seePins {n : Node} (h : n.Bounded) (cp : PlaneSet) (pready : Bool) :
    (n.seePins cp pready).Bounded := { h with }

theorem Node.Bounded.status {n : Node} (h : n.Bounded) (body : List Byte) (cp : PlaneSet) (pready : Bool) :
    (n.status body cp pready).1.Bounded := by
  unfold Node.status
  split
  · exact (h.seePins cp pready).statusClear body
  · exact h

theorem Node.Bounded.noticesRequest {n : Node} (h : n.Bounded) (body : List Byte) :
    (n.noticesRequest body).1.Bounded := by
  unfold Node.noticesRequest
  split
  · exact h
  · exact { h with }

theorem Du.Bounded.softReset {d : Du} (h : d.Bounded) (node : BitVec 4) : (d.softReset node).Bounded where
  iLow := h.iLow
  iHigh := h.iHigh
  cands := Nat.zero_le _
  delay := by intro hv; cases hv
  lock := Nat.zero_le _

theorem Se.powerOn_bounded : Se.powerOn.Bounded :=
  ⟨Nat.zero_le _, (by decide : 0 < 8), fun _ => rfl, fun _ => rfl, fun _ => rfl, fun _ _ => rfl⟩

theorem Ss.powerOn_length : Ss.powerOn.bufs.length = 48 := by decide

theorem Node.Bounded.softReset {n : Node} (h : n.Bounded) {c : Settled} (hc : n.rh.settled = some c) :
    (n.softReset c).Bounded where
  tb := Tb.Bounded.softReset h.du.iLow h.du.iHigh c
  du := h.du.softReset _
  se := Se.powerOn_bounded
  si := ⟨Nat.zero_le _, Nat.zero_le _⟩
  mh := ⟨Nat.zero_le _, by simpa [Node.softReset, Mh.softReset] using h.mh.slots⟩
  store := Ss.powerOn_length
  launches := Nat.zero_le _
  places := Nat.zero_le _
  active := (h.settled c hc).1
  holder := by intro l hl; cases hl
  settled := h.settled

theorem Node.Bounded.softResetRequest {n : Node} (h : n.Bounded) (body : List Byte) :
    (n.softResetRequest body).1.Bounded := by
  unfold Node.softResetRequest
  split
  · exact h
  · split
    · exact h
    · next hc => exact h.softReset hc

theorem Node.Bounded.remote {n : Node} (h : n.Bounded) (k : Nat) (body : List Byte) : (n.remote k body).1.Bounded := by
  unfold Node.remote
  split
  · exact h.adjust body
  · unfold Node.remoteStatus
    split
    · exact { h.statusClear body with }
    · exact h
  · exact h.softResetRequest body
  · exact h

theorem Node.Bounded.control {n : Node} (h : n.Bounded) (key : Key) (payload : List Byte) :
    (n.control key payload).Bounded := by
  unfold Node.control
  split
  · split
    · exact h.withMh { h.mh with }
    · have h1 := h.remote (field payload 0 1) (payload.drop 1)
      unfold Node.placeReply
      split
      · exact h1.withMh { h1.mh with }
      · exact h1.withMh { h1.mh with }
  · exact h

theorem Node.Bounded.badRequest {n : Node} (h : n.Bounded) (bs : List Byte) : (n.badRequest bs).Bounded := by
  unfold Node.badRequest
  split
  · exact h.setMailbox _
  · exact h.setMailbox _
  · exact h

theorem Node.Bounded.mailboxRead {n : Node} (h : n.Bounded) (k : Nat) : (n.mailboxRead k).Bounded := by
  unfold Node.mailboxRead
  split <;> exact { h with }

theorem Node.Bounded.assertReset {n : Node} (h : n.Bounded) : n.assertReset.Bounded := by
  unfold Node.assertReset
  split
  · exact { h with }
  · apply Node.Bounded.settleRefs
    exact { h with places := Nat.zero_le _, se := Se.Bounded.enterIdle n.se }

theorem Node.powerOn_bounded (s : Straps) (p : Pins) (k : Nat) : (Node.powerOn s p k).Bounded where
  tb := ⟨(by decide : (-1023 : Int) ≤ 0), (by decide : (0 : Int) ≤ 1023), Nat.zero_le _⟩
  du := ⟨(by decide : (-1023 : Int) ≤ 0), (by decide : (0 : Int) ≤ 1023), Nat.zero_le _, (fun h => nomatch h),
      Nat.zero_le _⟩
  se := Se.powerOn_bounded
  si := ⟨Nat.zero_le _, Nat.zero_le _⟩
  mh := ⟨Nat.zero_le _, by simp [Node.powerOn, Mh.powerOn]⟩
  store := Ss.powerOn_length
  launches := Nat.zero_le _
  places := Nat.zero_le _
  active := Nat.zero_le _
  holder := by intro l hl; cases hl
  settled := by intro c hc; cases hc

/-! ## The shapes of the commands -/

theorem Node.Bounded.awake {n : Node} (h : n.Bounded) {f : Node → Node} (hf : ∀ m : Node, m.Bounded → (f m).Bounded) :
    (n.awake f).Bounded := by
  unfold Node.awake
  split
  · exact h
  · exact hf n h

theorem Node.Bounded.withCfg {n : Node} (h : n.Bounded) {f : Settled → Node → Node}
    (hf : ∀ (c : Settled) (m : Node), m.Bounded → (f c m).Bounded) : (n.withCfg f).Bounded := by
  unfold Node.withCfg
  split
  · exact h
  · exact hf _ n h

theorem Node.Bounded.asHead {n : Node} (h : n.Bounded) {f : Settled → Node → Node}
    (hf : ∀ (c : Settled) (m : Node), m.Bounded → (f c m).Bounded) : (n.asHead f).Bounded := by
  unfold Node.asHead
  split
  · exact h
  · exact hf _ n h

theorem Node.Bounded.asBase {n : Node} (h : n.Bounded) {f : Settled → Node → Node}
    (hf : ∀ (c : Settled) (m : Node), m.Bounded → (f c m).Bounded) : (n.asBase f).Bounded := by
  unfold Node.asBase
  split
  · exact h
  · exact hf _ n h

theorem Node.Bounded.receive {n : Node} (h : n.Bounded) (ok : Bool) (key : Key) (payload : List Byte) (t : Word32)
    (marked : Bool) {f : Settled → Word32 → Node → Node}
    (hf : ∀ (c : Settled) (t : Word32) (m : Node), m.Bounded → (f c t m).Bounded) :
    (n.receive ok key payload t marked f).Bounded := by
  apply h.withCfg
  intro c m hm
  split
  · exact hf c _ _ (hm.received c key payload marked)
  · exact hm

theorem Node.Bounded.controlReceived {n : Node} (h : n.Bounded) (ok : Bool) (key : Key) (payload : List Byte)
    (t : Word32) (marked : Bool) : (n.controlReceived ok key payload t marked).Bounded := by
  unfold Node.controlReceived
  split
  · exact ((h.withSi h.si.countReceived).followCounts).control key payload
  · exact h.receive ok key payload t marked fun _ _ m hm => hm.control key payload

theorem Node.Bounded.tick {n : Node} (h : n.Bounded) : n.tick.Bounded := by
  apply h.awake
  intro m hm
  refine { hm with tb := hm.tb.onTick _, si := ?_ }
  show (m.si.tickWith m.rh.settled (m.tb.e + 1) (m.pins.svc.headD true)).Bounded
  unfold Si.tickWith
  split
  · exact hm.si
  · exact hm.si.tick _ _ _

end Sys2Proof.Machine
end

