-- ==== Sys2Proof/Tests/Slice0.lean ====
section
/-! SUPPORT. Tests: ill-formed commands refused, the spec's worked numbers, and for each statement states and operands
that meet the hypotheses of its clauses. -/

namespace Sys2Proof.Tests

open Sys2Proof.Machine

/-! ## Ill-formed commands, one for each check -/

theorem test_illformed_body (body : List Byte) (h : body.length = 65536) :
    (Instr.settle 0x5C body).wellFormed = false ∧ (Instr.adjust 0x5C body).wellFormed = false
    ∧ (Instr.send 0x5C body).wellFormed = false ∧ (Instr.take 0x5C body).wellFormed = false
    ∧ (Instr.status 0x5C ⟨body, 0, true⟩).wellFormed = false ∧ (Instr.notices 0x5C body).wellFormed = false
    ∧ (Instr.softReset 0x5C body).wellFormed = false := by
  simp [Instr.wellFormed, bodyFits, h]

theorem test_illformed_read : (Instr.mailboxRead 0x5C 0).wellFormed = false := by decide

theorem test_illformed_kinds :
    (Instr.announceReceived 0x200 (List.replicate 14 0) ⟨0, false⟩).wellFormed = false
    ∧ (Instr.delayProbeReceived 0x300 [] ⟨0, false⟩).wellFormed = false
    ∧ (Instr.delayReplyReceived 0x200 (List.replicate 8 0) ⟨0, false⟩).wellFormed = false
    ∧ (Instr.controlReceived 0x500 [7] ⟨0, false⟩).wellFormed = false
    ∧ (Instr.controlReplyReceived 0x400 [0] ⟨0, false⟩).wellFormed = false
    ∧ (Instr.unusableKind 0x100 [] ⟨0, false⟩).wellFormed = false
    ∧ (Instr.badForm 0x000 [] ⟨0, false⟩).wellFormed = false
    ∧ (Instr.userMailFiled 0x500 [] ⟨0, false⟩).wellFormed = false := by decide

theorem test_illformed_lengths :
    (Instr.announceReceived 0x100 (List.replicate 13 0) ⟨0, false⟩).wellFormed = false
    ∧ (Instr.delayProbeReceived 0x200 [0] ⟨0, false⟩).wellFormed = false
    ∧ (Instr.delayReplyReceived 0x300 (List.replicate 9 0) ⟨0, false⟩).wellFormed = false
    ∧ (Instr.controlReceived 0x400 [] ⟨0, false⟩).wellFormed = false
    ∧ (Instr.controlReplyReceived 0x500 (List.replicate 17 0) ⟨0, false⟩).wellFormed = false
    ∧ (Instr.unusableKind 0x000 (List.replicate 17 0) ⟨0, false⟩).wellFormed = false
    ∧ (Instr.badForm 0x200 [] ⟨0, false⟩).wellFormed = false
    ∧ (Instr.userMailFiled 0x600 (List.replicate 17 0) ⟨0, false⟩).wellFormed = false := by decide

theorem test_illformed_word : (Instr.payloadWord 3 0).wellFormed = false
∧ (Instr.payloadWord 8 0).wellFormed = false := by
  decide

theorem test_illformed_segment :
    (Instr.segmentHeader 0 (List.replicate 15 0)).wellFormed = false
    ∧ (Instr.segmentEnd 0 .overrun false []).wellFormed = false
    ∧ (Instr.recordDeadline 0 4096).wellFormed = false := by decide

theorem test_illformed_segment_end (rest : List Byte) (h : rest.length = 6149) :
    (Instr.segmentEnd 0 .delimiter false rest).wellFormed = false
    ∧ (Instr.segmentEnd 0 .truncation false rest).wellFormed = false := by
  simp [Instr.wellFormed, h]

/-! ## The spec's worked numbers -/

/-- 02: Q = 30, frames 992 to 1,007: fourteen trims of 2 and two of 1. -/
theorem test_trims : (List.range 16).map (fun k => trimOf 30 (BitVec.ofNat 16 (992 + k)))
    = [2, 2, 2, 2, 2, 2, 2, 2, 2, 2, 2, 2, 2, 2, 1, 1] := by decide

/-- 02 R19: the trims at the ends of Q's range. -/
theorem test_trim_ends : trimOf 1023 0 = 64 ∧ trimOf 1023 15 = 63 ∧ trimOf (-1023) 0 = -63
∧ trimOf (-1023) 1 = -64 := by
  decide

/-- 02 R28: 10:04:22:24, then with the flag set, then 10:04:23:00 with D = 2 and R = 25. -/
theorem test_timecode :
    Timecode.advance 25 2 ⟨0x10, 0x04, 0x22, 0x24, false⟩ = ⟨0x10, 0x04, 0x22, 0x24, true⟩
    ∧ Timecode.advance 25 2 ⟨0x10, 0x04, 0x22, 0x24, true⟩ = ⟨0x10, 0x04, 0x23, 0x00, false⟩ := by decide

/-- 02: a renumbering from 814 to 4,101. -/
theorem test_renumber :
    (Tb.renumber 814 4101 { Tb.powerOn with frameNo := 815, history := [⟨814, 5, false⟩, ⟨815, 9,
    false⟩] }).frameNo = 4102
    := by decide

/-- 02: a step of +200 in a frame whose unstepped next start is 10,540,002. -/
theorem test_step : (Gen.stepBy ⟨10000000, 10540002, 10540002, none⟩ 200).scheduled = 10539802 := by decide

/-- 03 R48: half the round trip, floored. -/
theorem test_delay : rawDelay 7000000 12345270 12346000 7000990 = (12345270 - 7000000 + (7000990 - 12346000)) / 2 := by
  decide

/-- 04 R66: set, clear and invert. -/
theorem test_strobe :
    StrobeEntry.fire 0b000110 ⟨none, 0, 0b000001, 0b000010⟩ = 0b000101
    ∧ StrobeEntry.fire 0b000110 ⟨none, 0, 0b000011, 0b000011⟩ = 0b000101 := by decide

/-- 13 R199: the CRC-32 of the nine digits has the check value of its polynomial. -/
theorem test_crc32 : crc32 [0x31, 0x32, 0x33, 0x34, 0x35, 0x36, 0x37, 0x38, 0x39] = 0xFC891918 := by
  decide +kernel

/-- 10 R154: the CRC-16 of the nine digits has the check value of its polynomial. -/
theorem test_crc16 : crc16 (byteBits [0x31, 0x32, 0x33, 0x34, 0x35, 0x36, 0x37, 0x38, 0x39]) = 0x29B1 := by
  decide +kernel

/-- 10 R153: after four equal bits a bit of the opposite level. -/
theorem test_stuff : stuff 0 true [false, false, false, false, true, true]
    = [false, false, false, false, true, true, true] := by decide

/-- 06 R91: a full line of 6,164 bytes takes 443.808 ticks, 55,476 of their 125ths. -/
theorem test_launch : launchTime 6144 = 55476 := by decide

/-! ## Small nodes -/

/-- A small geometry. -/
def tCfg : Settled :=
  { lTot := 16, aLines := 4, tpl := 128, x := 0, r := 25, d := 1, m := 4, stepLimit := 10, lockWindow := 2, h := 5
    rOff := 0, lead := 0, mask := 3, w := 100, mode := .repeatLast, pre := 0, prop := 1, pa := 1, pb := 1, sjw := 1
    order := .key
    slots := [.receive 0x900 0xF00, .transmit 0x777] ++ List.replicate 10 .unused
    levels := List.replicate 14 3, threshold := 2, schedule := [⟨none, 0, 1, 2⟩] }

/-- An unsettled node of this role, the levels on CP and PREADY high. -/
def tFresh (role : Role) : Node := Node.powerOn ⟨role, 1, 3, 0⟩ ⟨Four.const true, true, []⟩ 0

/-- A settled node of this role, past integration. -/
def tNode (role : Role) : Node :=
  let n := (tFresh role).acceptSettle tCfg
  { n with si := { n.si with spaces := 10 }.endIntegration }

/-- A head. -/
def tHead : Node := tNode .head

/-- A base. -/
def tBase : Node := tNode .base

/-- A state with an empty queue. -/
def at_ (n : Node) : State := ⟨n, []⟩

/-- The node with its frame start due. -/
def tDue (n : Node) : Node := { n with tb := { n.tb with e := 2048 } }

/-- The generator of a node just settled. -/
def tGen : Gen := ⟨0, 2048, 2048, none⟩

/-- The discipline unit replaced. -/
def tDu (f : Du → Du) (n : Node) : Node := { n with du := f n.du }

/-- The service interface replaced. -/
def tSi (f : Si → Si) (n : Node) : Node := { n with si := f n.si }

/-- The message handler replaced. -/
def tMh (f : Mh → Mh) (n : Node) : Node := { n with mh := f n.mh }

/-- The launch unit replaced. -/
def tLu (f : Lu → Lu) (n : Node) : Node := { n with lu := f n.lu }

/-- The output unit replaced. -/
def tOu (f : Ou → Ou) (n : Node) : Node := { n with ou := f n.ou }

/-- The engine replaced. -/
def tSe (f : Se → Se) (n : Node) : Node := { n with se := f n.se }

/-- The store with `k` FREE buffers, the highest. -/
def tFree (k : Nat) (n : Node) : Node :=
  { n with ss := { n.ss with bufs := List.replicate (48 - k) ⟨.filling .lu, []⟩ ++ List.replicate k Buf.free } }

/-- The legal SETTLE body of the small geometry, every slot UNUSED and no schedule. -/
def tBlock : List Byte :=
  u16 16 ++ u16 4 ++ u16 128 ++ u16 0 ++ [25, 1, 4] ++ u16 10 ++ [2] ++ u16 5 ++ u32 0 ++ u16 0 ++ [3] ++ u16 100
    ++ [0, 0, 1, 1, 1, 1, 0] ++ List.replicate 60 0 ++ List.replicate 14 3 ++ [2, 0] ++ List.replicate 72 0

/-- The timebase replaced. -/
def tTb (f : Tb → Tb) (n : Node) : Node := { n with tb := f n.tb }

/-- The request handler replaced. -/
def tRh (f : Rh → Rh) (n : Node) : Node := { n with rh := f n.rh }

/-- A FRAME_END waiting in the output queue. -/
def tFrameEnd : Descriptor := .frameEnd ⟨7, .normal, Tallies.zero⟩

/-- A LINE of 8 words waiting in the output queue. -/
def tLine : Descriptor := .line ⟨7, 0, ⟨.filled, .absent, .absent, .absent⟩, none, 0, .gap⟩

/-- A base whose FRAME_END has had this many words taken. -/
def tEmitting (d : Descriptor) (taken : Nat) : Node := tOu (fun o => { o with queue := [d], taken := taken }) tBase

/-- A base with an ABORT pending. -/
def tAborting : Node := tOu (fun o => { o with abort := some (.line 7 1) }) tBase

/-- A base with slot 1 in this state. -/
def tSlot (x : SlotState) : Node := tMh (fun m => m.setSlot 1 x) tBase

/-- A base with these notices pending. -/
def tNotices (v : BitVec 16) : Node := { tBase with rh := { tBase.rh with notices := v } }

/-- A base whose frame start is due, with two candidates, one a frame short of ageing out, and this probe. -/
def tFollower (frames : Nat) : Node :=
  tDu (fun d => { d with
    state := .followLock, source := 2, dValid := true, countdown := 1, cands := [⟨2, 0, 0⟩, ⟨4, 1, 10⟩]
    probe := some ⟨2, 0, frames⟩ }) (tDue tBase)

/-- A base with this state, monitor and candidates. -/
def tChooser (state : TbState) (mon : MonState) (cands : List Cand) : Node :=
  tDu (fun d => { d with state := state, mon := mon, cands := cands }) tBase

/-- Four candidates. -/
def tFour : List Cand := [⟨4, 0, 0⟩, ⟨6, 1, 0⟩, ⟨7, 2, 0⟩, ⟨8, 2, 0⟩]

/-- A follower of node 2, class 0, in this state, of this class itself, with the history frame 7 at E 9. -/
def tMeasuring (state : TbState) (cls : Nat) : Node :=
  tTb (fun b => { b with history := [⟨7, 9, false⟩] })
    (tDu (fun d => { d with
      state := state, source := 2, dValid := true, cls := cls, srcCls := 0, cands := [⟨2, 0, 5⟩] }) tBase)

/-- A base at this E whose monitor holds the anchor 0. -/
def tMon (e : Word32) (mon : MonState) (valid invalid : Nat) : Node :=
  tTb (fun b => { b with e := e })
    (tDu (fun d => { d with mon := mon, anchor := some 0, validRun := valid, invalidRun := invalid }) tBase)

/-- A head in this line state, line `no`, with a latched frame and these queued segments. -/
def tLine0 (l : LineState) (no : Nat) (queue : List Segment) : Node :=
  tLu (fun u => { u with line := l, lineNo := no, latch := some (7, Timecode.zero), queue := queue }) tHead

/-- A head filling buffer 0, which holds `k` bytes. -/
def tFilling (k no : Nat) (queue : List Segment) : Node :=
  { tLine0 (.filling 0) no queue with ss := tHead.ss.setBuf 0 ⟨.filling .lu, List.replicate k 0⟩ }

/-- A queued segment of buffer `b`. -/
def tSeg (b : Nat) : Segment := ⟨1, 7, 0, 1, some Timecode.zero, b⟩

/-- A base with lane 1 in this state, with this segment, run counts and silence deadline. -/
def tLane (state : LaneState) (seg : InProgress) (goodRun badRun : Nat) (deadline : Option Word32) : Node :=
  tBase.onLane 1 fun l =>
    { l with state := state, seg := seg, goodRun := goodRun, badRun := badRun, deadline := deadline }

/-- A good header of plane 1, frame 7, line 0, one byte. -/
def tHeader : SegHeader := ⟨1, 7, 0, 1, some Timecode.zero⟩

/-- A segment in progress under that header. -/
def tBody (d : Disposition) : InProgress := .body tHeader.bytes tHeader d

/-- The bytes after that header of a segment of this payload, with its check. -/
def tRest (payload : List Byte) : List Byte := payload ++ crc32Bytes (tHeader.bytes ++ payload)

/-- A frame in progress at line 1, planes 0 and 1 its mask. -/
def tCtx : FrameCtx := ⟨7, 1, 3, 3, Tallies.zero⟩

/-- A record of frame 7 with plane 0's contribution, deadline 99. -/
def tRec (line : Nat) : Record := ⟨7, line, (Four.const none).set 0 (some ⟨0, 1⟩), 0, 0, 99, none, .opened⟩

/-- A base in RUN at E 100 with these records and descriptors. -/
def tRun (table : List Record) (queue : List Descriptor) : Node :=
  tTb (fun b => { b with e := 100 })
    (tOu (fun o => { o with queue := queue })
      (tSe (fun e => { e with state := .run tCtx, table := table, lockedSet := 3 }) tBase))

/-- A delivery of plane 1's line of this frame, buffer 2. -/
def tDelivery (frame : BitVec 8) (line : Nat) : Delivery := ⟨1, frame, line, 1, none, 2, 100⟩

/-- Sixteen records, of lines `from_` to `from_ + 15` of frame 7. -/
def tSixteen (from_ : Nat) : List Record := (List.range 16).map fun k => tRec (from_ + k)

/-- A LINE of plane 1's five bytes from buffer 0. -/
def tFive : LineDesc := ⟨7, 1, ⟨.absent, .present 0 5, .absent, .absent⟩, none, 0, .complete⟩

/-- SI in this phase, at this position of its bit, the carrier at this level. -/
def tBit (phase : Phase) (bitPos : Nat) (level : Bool) : Si :=
  { tBase.si with phase := phase, bitPos := bitPos, level := level }

/-- A base whose message of this place is on the carrier, slot 1 SENDING and a probe in its place. -/
def tOwn (p : Place) : Node :=
  tSi (fun i => { i with phase := .receiving, onCarrier := some ⟨p, 0x777, [], 0, [], false⟩ })
    (tMh (fun m => { m.setSlot 1 (.sending ⟨0x777, []⟩) with probe := some 2 }) tBase)

/-- A base with slot 0, which receives the keys of kind 9, in this state. -/
def tReceive (x : SlotState) : Node := tMh (fun m => m.setSlot 0 x) tBase

/-- A head with a line filling buffer 0 and a segment queued in buffer 1. -/
def tStored : Node :=
  { tFilling 1 0 [tSeg 1] with ss := (tFilling 1 0 [tSeg 1]).ss.setBuf 1 ⟨.queued, [0]⟩ }

/-- A base with lane 1 filling buffer 2 and a record that names buffer 0. -/
def tNamed : Node :=
  tSe (fun e => { e with table := [tRec 1] })
    { tLane .locked (tBody (.filling 2)) 2 0 none with
      ss := (tBase.ss.setBuf 2 ⟨.filling (.lane 1), []⟩).setBuf 0 ⟨.referenced 1, [0]⟩ }

/-- The tick in line replaced. -/
def tTick (k : Nat) (n : Node) : Node := tTb (fun b => { b with tick := k }) n

/-- The record of that line in this state. -/
def tRecOf (state : RecState) (line : Nat) : Record := { tRec line with state := state }

theorem test_block : (SettleBlock.ofBytes tBlock).failing = none ∧ tBlock.length = 180 := by
  decide +kernel

theorem test_works : tHead.WorksHead tCfg ∧ tBase.WorksBase tCfg ∧ tHead.Works tCfg ∧ tBase.Works tCfg :=
  ⟨⟨rfl, rfl⟩, ⟨rfl, rfl⟩, ⟨rfl, rfl⟩, ⟨rfl, rfl⟩⟩

/-- RST_N released and the mailbox addressed by 0x5C. -/
theorem test_hears (n : Node) (body : List Byte) (h1 : n.rstLow = false) (h2 : n.rh.straps.adr = 0)
    (h3 : body.length ≤ 65535) : n.Hears 0x5C body :=
  ⟨h1, by simp [Node.isAddressed, h2], by simpa [bodyFits] using h3⟩

theorem test_hears_base (body : List Byte) (h : body.length ≤ 65535) : tBase.Hears 0x5C body := test_hears _ _ rfl rfl h

theorem test_hears_fresh (body : List Byte) (h : body.length ≤ 65535) : (tFresh .base).Hears 0x5C body :=
  test_hears _ _ rfl rfl h

/-! ## Steps and resets: what meets the hypotheses -/

theorem test_meets_EmptyQueueAndTick :
    (at_ (tDue tBase)).pending = [] ∧ (tDue tBase).due = some .frameStart
    ∧ (tFresh .base).due = none ∧ (tFresh .base).rstLow = false ∧ (tFresh .base).tb.gen = none
    ∧ tBase.rh.settled = some tCfg ∧ tBase.tb.gen = some tGen
    ∧ tBase.tb.line + 1 < tCfg.lTot ∧ tCfg.lineLength tBase.tb.line tBase.tb.trim ≤ (tTick 127 tBase).tb.tick + 1
    ∧ (tTick 126 tBase).tb.tick + 1 < tCfg.lineLength tBase.tb.line tBase.tb.trim
    ∧ (tFresh .base).rh.settled = none ∧ tBase.Works tCfg ∧ tBase.tb.frameDue = false := by
  refine ⟨rfl, rfl, rfl, rfl, rfl, rfl, rfl, by decide, by decide, by decide, rfl, ⟨rfl, rfl⟩, rfl⟩

theorem test_meets_EmptyQueueAndTick_order :
    tBase.strobeDue tCfg = true ∧ tBase.due = some .strobeFire ∧ (tTick 1 tBase).strobeDue tCfg = false
    ∧ tBase.silenceDue tCfg = false ∧ (tMon 6144 .locked 9 0).silenceDue tCfg = true ∧ tBase.baseCfg = some tCfg
    ∧ (tTick 1 (tLane .locked .none 0 0 (some 0xFFFFFFFF))).laneSilent 1 = true
    ∧ (∀ q : Fin 4, q < 1 → (tTick 1 (tLane .locked .none 0 0 (some 0xFFFFFFFF))).laneSilent q = false)
    ∧ (tTick 1 (tLane .locked .none 0 0 (some 0xFFFFFFFF))).due = some (.silenceTimeout 1)
    ∧ (∀ p, (tRun [tRec 1] []).laneSilent p = false) ∧ (tRec 1).expires (tRun [tRec 1] []).tb.e = true
    ∧ (tTick 1 (tRun [tRec 1] [])).due = some (.recordDeadline 7 1) ∧ tHead.baseCfg = none
    ∧ tHead.dueService = none ∧ (tSi (fun i => { i with guardWait := some 0 }) tHead).dueService = some .guardedWaitEnd
    ∧ (tSlot (.pending ⟨0x777, []⟩)).startDue tCfg = true
    ∧ (tTick 1 (tSlot (.pending ⟨0x777, []⟩))).due = some .messageStart
    ∧ (tFilling 1 0 [tSeg 47]).startDue tCfg = false
    ∧ (tTick 1 (tTb (fun b => { b with e := 2 }) (tFilling 1 0 [tSeg 47]))).due = some .segmentLaunched := by
  refine ⟨by decide, by decide, by decide, by decide, by decide, rfl, by decide, by decide, by decide, by decide,
    by decide, by decide, rfl, by decide, by decide, by decide, by decide, by decide, by decide⟩

theorem test_meets_WhatChangesNothing :
    ({ tBase with rstLow := true } : Node).rstLow = true ∧ tBase.tb.frameDue = false ∧ tBase.rh.settled = some tCfg
    ∧ tBase.rh.joining ≠ 0 ∧ (tRh (fun r => { r with lifecycle := .running }) tBase).rh.lifecycle ≠ .joining
    ∧ (∀ k ∈ tBase.du.cands, k.age < 3 * tCfg.m) ∧ tBase.du.state ≠ .selfHold ∧ tBase.silenceDue tCfg = false
    ∧ tBase.du.probeExpired = false
    ∧ Node.strobeReady tCfg { tBase with sg := { tBase.sg with prior := some 0 } } = false
    ∧ (∀ p, (tBase.lane p).isSilent tBase.tb.e = false)
    ∧ (∀ r ∈ tBase.se.table, r.isAt 7 1 = true → r.expires tBase.tb.e = false) ∧ tBase.launchDue = false
    ∧ tBase.ou.abort = none ∧ tBase.pins.pready = true
    ∧ (tFresh .base).rh.settled = none ∧ tBase.headCfg = none ∧ tHead.baseCfg = none
    ∧ (3 : BitVec 4).toNat < 4 ∧ 7 < (8 : BitVec 4).toNat ∧ (tBase.lane 1).seg ≠ .started ∧ (tBase.lane 1).seg = .none
    ∧ tBase.isAddressed 0x5D = false := by
  refine ⟨rfl, rfl, rfl, by decide, by decide, by decide, by decide, rfl, rfl, by decide,
    fun p => by fin_cases p <;> rfl, by decide, by decide, rfl, rfl, rfl, rfl, rfl, by decide, by decide, by decide,
    rfl,
    by decide⟩

theorem test_meets_WhatChangesNothing_carrier :
    (tSi (fun i => { i with phase := .recovering }) tBase).si.awaitsStart = false ∧ tBase.si.cleanOwn = false
    ∧ tBase.si.onCarrier = none ∧ (∀ k, (tSi (fun i => { i with phase := .recovering }) tBase).si.canErr k = false)
    ∧ tBase.si.guardWait ≠ some 0 ∧ (tSi (fun i => { i with guardWait := some 1 }) tBase).si.guardWait ≠ some 0
    ∧ tBase.si.state ≠ .silenced ∧ (tSi (fun i => { i with recovery := 47 }) tBase).si.recovery < 48
    ∧ tBase.si.state ≠ .integrating ∧ (tSi (fun i => { i with spaces := 9 }) tBase).si.spaces < 10
    ∧ (tSi (fun i => { i with phase := .interspace }) tBase).isIdle = false ∧ tBase.rh.pending.listenOnly = none
    ∧ (tSi (fun i => { i with phase := .recovering }) tBase).si.canReceive = false
    ∧ tBase.started .controlReply = false :=
  ⟨rfl, rfl, rfl, fun k => by cases k <;> rfl, by decide, by decide, by decide, by decide, by decide, by decide, rfl,
    rfl,
    rfl, rfl⟩

/-- No start point: inside a bit of the idle carrier, and past the edge of a start mark that others began. -/
theorem test_meets_WhatChangesNothing_startPoint :
    (tSi (fun i => { i with bitPos := 1 }) tBase).si.bitPos ≠ 0 ∧ tBase.si.bitPos = 0
    ∧ (tSi (fun _ => { tBit .interspace 0 true with spaces := 2 }) tBase).si.awaitsStart = true
    ∧ (tSi (fun _ => { tBit .interspace 0 true with spaces := 2 }) tBase).si.phase ≠ .idle
    ∧ (tSi (fun _ => { tBit .interspace 0 true with spaces := 2 }) tBase).si.level = true := by decide

theorem test_meets_ResetAssertedClosesTheRecord :
    (tEmitting tLine 1).baseCfg = some tCfg ∧ (tEmitting tLine 1).ou.queue = [tLine] ∧ 0 < (tEmitting tLine 1).ou.taken
    ∧ (tEmitting tLine 1).ou.abort = none ∧ (tEmitting tLine 0).ou.taken = 0 ∧ tBase.ou.queue = []
    ∧ tAborting.ou.abort = some (.line 7 1) ∧ tHead.baseCfg = none ∧ tBase.rstLow = false :=
  ⟨rfl, rfl, Nat.zero_lt_one, rfl, rfl, rfl, rfl, rfl, rfl⟩

/-- A record in emission with the engine in RUN, a record waiting. -/
theorem test_meets_ResetAssertedClosesTheRecord_run :
    (tOu (fun o => { o with taken := 1 }) (tRun [tRec 1] [tLine])).baseCfg = some tCfg
    ∧ (tOu (fun o => { o with taken := 1 }) (tRun [tRec 1] [tLine])).ou.queue = [tLine]
    ∧ 0 < (tOu (fun o => { o with taken := 1 }) (tRun [tRec 1] [tLine])).ou.taken
    ∧ (tRun [tRec 1] [tLine]).se.state = .run tCtx ∧ (tRun [tRec 1] [tLine]).ou.abort = none
    ∧ (tRun [tRec 1] [tLine]).assertReset.se.state = .idle :=
  ⟨rfl, rfl, Nat.zero_lt_one, rfl, rfl, rfl⟩

theorem test_meets_CountersSaturateAndClear :
    tBase.Works tCfg ∧ tBase.rh.lifecycle ≠ .unsettled ∧ tBase.Hears 0x5C [6, 1] ∧ tBase.Hears 0x5C [1, 255]
    ∧ tBase.Hears 0x5C [] ∧ 1 ≤ (1 : Byte).toNat ∧ (6 : Byte).toNat ≤ 6 ∧ (1 : Byte) ≠ 0 :=
  ⟨⟨rfl, rfl⟩, by decide, test_hears_base _ (by decide), test_hears_base _ (by decide), test_hears_base _ (by decide),
    by decide, by decide, by decide⟩

theorem test_meets_SoftReset :
    (tEmitting tLine 1).Hears 0x5C [] ∧ (tEmitting tLine 1).rh.settled = some tCfg ∧ (tEmitting tLine 1).ou.abort = none
    ∧ (tEmitting tLine 1).ou.queue = [tLine] ∧ 0 < (tEmitting tLine 1).ou.taken
    ∧ tAborting.Hears 0x5C [] ∧ tAborting.ou.abort = some (.line 7 1)
    ∧ (tEmitting tLine 0).ou.taken = 0 ∧ tHead.Hears 0x5C [] ∧ tHead.lu.carrier ≠ .off
    ∧ (tFresh .base).Hears 0x5C [] ∧ (tFresh .base).rh.settled = none :=
  ⟨test_hears _ _ rfl rfl (by decide), rfl, rfl, rfl, Nat.zero_lt_one, test_hears _ _ rfl rfl (by decide), rfl, rfl,
    test_hears _ _ rfl rfl (by decide), by decide, test_hears_fresh _ (by decide), rfl⟩

/-! ## Requests -/

theorem test_meets_Settle :
    (tFresh .head).Hears 0x5C tBlock ∧ tBlock.length = 180 ∧ (tFresh .head).rh.lifecycle = .unsettled
    ∧ (SettleBlock.ofBytes tBlock).failing = none ∧ (tFresh .head).rh.straps.role = .head
    ∧ (tFresh .base).Hears 0x5C [] ∧ ([] : List Byte).length ≠ 180
    ∧ tBase.Hears 0x5C tBlock ∧ tBase.rh.lifecycle ≠ .unsettled
    ∧ (tFresh .base).Hears 0x5C (List.replicate 180 0) ∧ (List.replicate 180 (0 : Byte)).length = 180
    ∧ (tFresh .base).rh.lifecycle = .unsettled ∧ (SettleBlock.ofBytes (List.replicate 180 0)).failing = some 1 :=
  ⟨test_hears _ _ rfl rfl (by rw [test_block.2]; decide), test_block.2, rfl, test_block.1, rfl,
    test_hears_fresh _ (by decide), by decide, test_hears_base _ (by rw [test_block.2]; decide), by decide,
    test_hears_fresh _ (by rw [List.length_replicate]; decide), List.length_replicate, rfl, by decide +kernel⟩

/-- The 180 bytes that SettleLegality lays out, an entry in its schedule's reach. -/
theorem test_meets_SettleLegality :
    tBlock.length = 180 ∧ (SettleBlock.ofBytes tBlock).lTot = 16 ∧ (SettleBlock.ofBytes tBlock).threshold = 2
    ∧ (SettleBlock.ofBytes ((tBlock.set 107 1).set 113 5)).schedule = [⟨0, 0, 0, 5⟩]
    ∧ (SettleBlock.ofBytes (List.replicate 180 255)).rOff = -1 ∧ (List.replicate 180 (255 : Byte)).length = 180 :=
  ⟨test_block.2, by decide +kernel, by decide +kernel, by decide +kernel, by decide +kernel, List.length_replicate⟩

theorem test_meets_Adjust :
    tBase.Works tCfg
    ∧ tBase.Hears 0x5C [1, 15] ∧ tBase.Hears 0x5C (2 :: u16 0) ∧ tBase.Hears 0x5C (2 :: u16 65535)
    ∧ tBase.Hears 0x5C [3, 1] ∧ tBase.Hears 0x5C [4, 8] ∧ tBase.Hears 0x5C (5 :: u16 2048)
    ∧ tBase.Hears 0x5C [6, 1] ∧ tBase.isIdle = true
    ∧ (tSi (fun i => { i with phase := .interspace }) tBase).isIdle = false
    ∧ (tSi (fun i => { i with phase := .interspace }) tBase).Hears 0x5C [6, 1]
    ∧ tCfg.period = 2048 ∧ Timecode.legal ⟨0x23, 0x59, 0x59, 0x24, false⟩ 25 1 = true
    ∧ tBase.Hears 0x5C (7 :: Timecode.bytes ⟨0x23, 0x59, 0x59, 0x24, false⟩)
    ∧ tBase.Hears 0x5C (8 :: (u8 2 ++ [⟨none, 65535, 63, 63⟩, ⟨some 15, 0, 0, 0⟩].flatMap StrobeEntry.bytes))
    ∧ tCfg.lTot ≤ 4095 :=
  ⟨⟨rfl, rfl⟩, test_hears_base _ (by decide), test_hears_base _ (by decide), test_hears_base _ (by decide),
    test_hears_base _ (by decide), test_hears_base _ (by decide), test_hears_base _ (by decide),
    test_hears_base _ (by decide), rfl, rfl, test_hears _ _ rfl rfl (by decide), rfl, by decide,
    test_hears_base _ (by decide), test_hears_base _ (by decide), by decide⟩

theorem test_meets_Adjust_judged :
    (tFresh .base).Hears 0x5C [1, 1] ∧ (tFresh .base).rh.settled = none ∧ tBase.rh.settled = some tCfg
    ∧ readItems 3 [2, 1] = .error .badLength ∧ tBase.Hears 0x5C [2, 1]
    ∧ readItems 2 [9] = .error .refusedRange ∧ tBase.Hears 0x5C [9]
    ∧ readItems 5 [1, 1, 1, 2] = .ok [.mask 1, .mask 2] ∧ tBase.Hears 0x5C [1, 1, 1, 2]
    ∧ ¬ ([AdjustItem.mask 1, .mask 2].map AdjustItem.code).Nodup
    ∧ readItems 3 [3, 2] = .ok [.mode 2] ∧ (AdjustItem.mode 2).legal tCfg = false ∧ tBase.Hears 0x5C [3, 2]
    ∧ readItems 5 [1, 1, 4, 9] = .ok [.mask 1, .threshold 9] ∧ tBase.Hears 0x5C [1, 1, 4, 9]
    ∧ ([AdjustItem.mask 1, .threshold 9].map AdjustItem.code).Nodup :=
  ⟨test_hears_fresh _ (by decide), rfl, rfl, rfl, test_hears_base _ (by decide), rfl, test_hears_base _ (by decide),
    rfl,
    test_hears_base _ (by decide), by decide, rfl, rfl, test_hears_base _ (by decide), rfl,
    test_hears_base _ (by decide),
    by decide⟩

theorem test_meets_Send :
    (tSlot .idle).Hears 0x5C (u8 1 ++ [0] ++ u8 16 ++ List.replicate 16 0)
    ∧ (tSlot .done).Hears 0x5C (u8 1 ++ [1] ++ u16 0x600 ++ u8 0 ++ [])
    ∧ (tSlot .idle).rh.lifecycle ≠ .unsettled ∧ (tSlot .idle).mh.slots.length = 12
    ∧ ((tSlot .idle).mh.slot 1).defn = .transmit 0x777
    ∧ ((tSlot .idle).mh.slot 1).state = .idle ∧ ((tSlot .done).mh.slot 1).state = .done
    ∧ ((tSlot .failed).mh.slot 1).state = .failed ∧ 6 ≤ Sys2Proof.Key.kind 0x600 :=
  ⟨test_hears _ _ rfl rfl (by decide), test_hears _ _ rfl rfl (by decide), by decide, rfl, rfl, rfl, rfl, rfl,
    by decide⟩

theorem test_meets_Send_refused :
    (tFresh .base).Hears 0x5C [1, 0, 0] ∧ (tFresh .base).rh.lifecycle = .unsettled
    ∧ tBase.Hears 0x5C (u8 1 ++ [2] ++ []) ∧ tBase.Hears 0x5C (u8 1 ++ [0, 1] ++ [])
    ∧ tBase.Hears 0x5C (u8 12 ++ [0] ++ u8 0 ++ []) ∧ tBase.Hears 0x5C (u8 0 ++ [0] ++ u8 0 ++ [])
    ∧ (tBase.mh.slot 0).defn = .receive 0x900 0xF00 ∧ tBase.Hears 0x5C (u8 1 ++ [1] ++ u16 1535 ++ u8 0 ++ [])
    ∧ (tBase.mh.slot 1).defn = .transmit 0x777 ∧ ((tSlot (.pending ⟨0x777, []⟩)).mh.slot 1).state = .pending ⟨0x777, []⟩
    ∧ ((tSlot (.sending ⟨0x777, []⟩)).mh.slot 1).state = .sending ⟨0x777, []⟩
    ∧ (tSlot (.sending ⟨0x777, []⟩)).Hears 0x5C (u8 1 ++ [0] ++ u8 0 ++ []) :=
  ⟨test_hears_fresh _ (by decide), rfl, test_hears_base _ (by decide), test_hears_base _ (by decide),
    test_hears_base _ (by decide), test_hears_base _ (by decide), rfl, test_hears_base _ (by decide), rfl, rfl, rfl,
    test_hears _ _ rfl rfl (by decide)⟩

theorem test_meets_TakeAnswers :
    (tFresh .base).Hears 0x5C [0] ∧ (tFresh .base).rh.lifecycle = .unsettled ∧ tBase.Hears 0x5C [12]
    ∧ tBase.Hears 0x5C [11] ∧ tBase.mh.slots.length = 12 ∧ (tBase.mh.slot 11).state = .unused
    ∧ (tBase.mh.slot 0).state = .empty ∧ ((tSlot (.full ⟨0x900, [], 0⟩)).mh.slot 1).state = .full ⟨0x900, [], 0⟩
    ∧ ((tSlot (.overrun ⟨0x900, [], 0⟩)).mh.slot 1).state = .overrun ⟨0x900, [], 0⟩
    ∧ ((tSlot .failed).mh.slot 1).state = .failed ∧ (tSlot .failed).Hears 0x5C [1] :=
  ⟨test_hears_fresh _ (by decide), rfl, test_hears_base _ (by decide), test_hears_base _ (by decide), rfl, rfl, rfl,
    rfl,
    rfl, rfl, test_hears _ _ rfl rfl (by decide)⟩

theorem test_meets_StatusAnswers :
    tBase.Hears 0x5C [6, 0] ∧ tBase.rh.lifecycle ≠ .unsettled ∧ (tFresh .base).Hears 0x5C [1, 1]
    ∧ (tFresh .base).Hears 0x5C [0, 0] ∧ tBase.Hears 0x5C [7, 0] ∧ (tFresh .base).Hears 0x5C [2, 0]
    ∧ (tFresh .base).rh.lifecycle = .unsettled :=
  ⟨test_hears_base _ (by decide), by decide, test_hears_fresh _ (by decide), test_hears_fresh _ (by decide),
    test_hears_base _ (by decide), test_hears_fresh _ (by decide), rfl⟩

theorem test_meets_Snapshots :
    tHead.rh.straps.role = .head ∧ tBase.rh.straps.role = .base ∧ tBase.rh.settled = some tCfg
    ∧ (tRun [tRec 1] []).se.state = .run tCtx
    ∧ (tSe (fun e => { e with state := .flushing tCtx }) tBase).se.state = .flushing tCtx ∧ tBase.se.state = .idle
    ∧ (tRun [tRec 1] []).rh.straps.role = .base
    ∧ (tSe (fun e => { e with state := .flushing tCtx }) tBase).rh.straps.role = .base :=
  ⟨rfl, rfl, rfl, rfl, rfl, rfl, rfl, rfl⟩

theorem test_meets_Notices :
    (tNotices 0x8002).Hears 0x5C [0xFF, 0xFF] ∧ (tNotices 0x8002).rh.isPending 15 = true
    ∧ (tNotices 0x4002).Hears 0x5C [0, 2] ∧ (tNotices 0x4002).rh.isPending 15 = false
    ∧ (∃ k ∈ sourceNumbers, (tNotices 0x4002).rh.isPending k = true)
    ∧ (tNotices 0).Hears 0x5C [0, 0] ∧ (∀ k ∈ sourceNumbers, (tNotices 0).rh.isPending k = false)
    ∧ (tNotices 0x4002).rh.noteLow = true ∧ (tNotices 0).rh.noteLow = false :=
  ⟨test_hears _ _ rfl rfl (by decide), rfl, test_hears _ _ rfl rfl (by decide), rfl, by decide,
    test_hears _ _ rfl rfl (by decide), by decide, by decide, by decide⟩

theorem test_meets_MailboxTransactions :
    (7 : Byte) :: 0 :: 0 :: ([] ++ [9]) = [7, 0, 0, 9]
    ∧ ([] : List Byte).length = (0 : Byte).toNat * 256 + (0 : Byte).toNat
    ∧ mailboxCommand 0x5C [7, 0, 0, 9] 0 true = .softReset 0x5C []
    ∧ mailboxCommand 0x5C [4, 0, 1, 11, 9] 0 true = .take 0x5C [11]
    ∧ mailboxCommand 0x5C [8, 0, 0] 0 true = .mailboxBadRequest 0x5C [8, 0, 0]
    ∧ tBase.rstLow = false ∧ tBase.isAddressed 0x5C = true
    ∧ ([1, 0] : List Byte).length < 3 ∧ ([] : List Byte).length < (0 : Byte).toNat * 256 + (1 : Byte).toNat
    ∧ (0 : Byte).toNat * 256 + (0 : Byte).toNat ≤ ([] : List Byte).length ∧ 7 < (8 : Byte).toNat
    ∧ (0 : Byte).toNat * 256 + (0 : Byte).toNat ≠ 180
    ∧ (tBase.setMailbox (.held ⟨.done, []⟩)).rh.mailbox = .held ⟨.done, []⟩ ∧ tBase.rh.mailbox = .idle
    ∧ (tBase.setMailbox (.held ⟨.done, []⟩)).isAddressed 0x5C = true
    ∧ (tBase.setMailbox (.held ⟨.done, []⟩)).rstLow = false :=
  ⟨rfl, rfl, by decide +kernel, by decide +kernel, by decide +kernel, rfl, rfl, by decide, by decide, by decide,
    by decide, by decide, rfl, rfl, rfl, rfl⟩

/-! ## Timebase and discipline -/

theorem test_meets_FrameStart :
    (tDue tBase).Works tCfg ∧ (tDue tBase).tb.gen = some tGen ∧ reached (tDue tBase).tb.e tGen.scheduled = true
    ∧ (tDue tBase).tb.adoption = none ∧ (tDue tBase).rh.pending.preset = none ∧ (tDue tBase).sg.holder = none
    ∧ (tDue tBase).rh.lifecycle = .joining ∧ 2 ≤ (tDue tBase).rh.joining
    ∧ (tRh (fun r => { r with joining := 1 }) (tDue tBase)).rh.joining = 1
    ∧ (tRh (fun r => { r with lifecycle := .running }) (tDue tBase)).Works tCfg
    ∧ (tTb (fun b => { b with adoption := some (Timecode.zero, 0) }) (tDue tBase)).Works tCfg
    ∧ ({ tDue tBase with sg := { (tDue tBase).sg with holder := some [] } } : Node).Works tCfg :=
  ⟨⟨rfl, rfl⟩, rfl, by decide, rfl, rfl, rfl, rfl, by decide, rfl, ⟨rfl, rfl⟩, ⟨rfl, rfl⟩, ⟨rfl, rfl⟩⟩

/-- An adoption that gives the value the frame would take anyway, and one that differs. -/
theorem test_meets_FrameStart_adoption :
    Timecode.advanceBy 25 1 ((tDue tBase).tb.frameNo + 1 - 0).toNat Timecode.zero
      = (tDue tBase).rh.pending.preset.getD (Timecode.advance 25 1 (tDue tBase).tb.tc)
    ∧ Timecode.advanceBy 25 1 ((tDue tBase).tb.frameNo + 1 - 1).toNat Timecode.zero
      ≠ (tDue tBase).rh.pending.preset.getD (Timecode.advance 25 1 (tDue tBase).tb.tc)
    ∧ (tTb (fun b => { b with adoption := some (Timecode.zero, 1) }) (tDue tBase)).Works tCfg :=
  ⟨by decide +kernel, by decide +kernel, ⟨rfl, rfl⟩⟩

theorem test_meets_FrameStartDiscipline :
    (tFollower 1).Works tCfg ∧ (tFollower 1).tb.gen = some tGen ∧ reached (tFollower 1).tb.e tGen.scheduled = true
    ∧ (∀ k ∈ (tFollower 1).du.cands, k.age + 1 < 3 * tCfg.m) ∧ (tFollower 1).du.state ≠ .selfHold
    ∧ (tFollower 1).du.probe = some ⟨2, 0, 1⟩ ∧ (tFollower 2).du.probe = some ⟨2, 0, 2⟩ ∧ (tDue tBase).du.probe = none
    ∧ (tFollower 1).du.state.isSelf = false ∧ (tFollower 1).si.listenOnly = false ∧ (tFollower 1).mh.probe = none
    ∧ (tFollower 1).du.countdown - 1 = 0
    ∧ 2 ≤ (tDu (fun d => { d with state := .selfHold, credit := 2 }) (tDue tBase)).du.credit :=
  ⟨⟨rfl, rfl⟩, rfl, by decide, by decide, by decide, rfl, rfl, rfl, rfl, rfl, rfl, rfl, by decide⟩

/-- A credit that runs out, with the class it changes and without, and an entry that ages out, others staying. -/
theorem test_meets_FrameStartDiscipline_selection :
    (tDu (fun d => { d with state := .selfHold, credit := 1 }) (tDue tBase)).Works tCfg
    ∧ (tDu (fun d => { d with state := .selfHold, credit := 1 }) (tDue tBase)).tb.gen = some tGen
    ∧ (tDu (fun d => { d with state := .selfHold, credit := 1 }) (tDue tBase)).du.credit ≤ 1
    ∧ Du.ownClass { tBase.du with state := .selfFree, credit := 0, cls := 1 } ≠ 1
    ∧ Du.ownClass { tBase.du with state := .selfFree, credit := 0, cls := 2 } = 2
    ∧ (tDu (fun d => { d with cands := [⟨2, 0, 11⟩, ⟨4, 1, 0⟩] }) (tDue tBase)).Works tCfg
    ∧ (∃ k ∈ [(⟨2, 0, 11⟩ : Cand), ⟨4, 1, 0⟩], 3 * tCfg.m ≤ k.age + 1) :=
  ⟨⟨rfl, rfl⟩, rfl, by decide, by decide, by decide, ⟨rfl, rfl⟩, by decide⟩

theorem test_meets_FrameStartEventsAlone :
    (tRh (fun r => { r with joining := 0 }) tBase).Works tCfg ∧ tBase.rh.lifecycle = .joining
    ∧ (tDu (fun d => { d with cands := [⟨2, 0, 12⟩] }) tBase).Works tCfg ∧ 3 * tCfg.m ≤ 12
    ∧ (tDu (fun d => { d with state := .selfHold, credit := 0 }) tBase).Works tCfg
    ∧ tBase.du.cands = [] ∧ tBase.du.mon ≠ .locked ∧ tBase.du.source = tBase.rh.straps.node
    ∧ (tFollower 0).du.probe = some ⟨2, 0, 0⟩ ∧ (tFollower 0).Works tCfg :=
  ⟨⟨rfl, rfl⟩, rfl, ⟨rfl, rfl⟩, by decide, ⟨rfl, rfl⟩, rfl, by decide, rfl, rfl, ⟨rfl, rfl⟩⟩

theorem test_meets_TimebaseArithmetic :
    (-1023 : Int) ≤ -1023 ∧ (1023 : Int) ≤ 1023
    ∧ Timecode.legal ⟨0x23, 0x59, 0x59, 0x23, false⟩ 24 1 = true
    ∧ Timecode.legal ⟨0x23, 0x59, 0x59, 0x29, true⟩ 30 2 = true
    ∧ (Timecode.advance 24 1 ⟨0x23, 0x59, 0x59, 0x23, false⟩).count 24 = 0 := by decide

theorem test_meets_Selection :
    (∀ st mon, ∀ k ∈ (tChooser st mon []).du.cands,
      rankOf ((tChooser st mon []).du.selfClass tCfg.h) (tChooser st mon []).rh.straps.node ≤ k.rank)
    ∧ (∀ k ∈ (tChooser .selfFree .absent [⟨4, 2, 0⟩]).du.cands,
      rankOf ((tChooser .selfFree .absent [⟨4, 2, 0⟩]).du.selfClass tCfg.h) 3 ≤ k.rank)
    ∧ (tChooser .selfRef .absent []).du.mon ≠ .locked ∧ (tChooser .selfRef .locked []).du.mon = .locked
    ∧ Cand.rank ⟨2, 2, 0⟩ < rankOf ((tChooser .selfFree .absent [⟨2, 2, 0⟩, ⟨4, 2, 0⟩]).du.selfClass tCfg.h) 3
    ∧ (∀ j ∈ [(⟨2, 2, 0⟩ : Cand), ⟨4, 2, 0⟩], j ≠ ⟨2, 2, 0⟩ → Cand.rank ⟨2, 2, 0⟩ < j.rank)
    ∧ (tChooser .selfFree .absent [⟨2, 2, 0⟩, ⟨4, 2, 0⟩]).du.follows 2 = false
    ∧ (tFollower 1).du.follows 2 = true :=
  ⟨fun _ _ _ h => (List.not_mem_nil h).elim, by decide, by decide, rfl, by decide, by decide, rfl, rfl⟩

theorem test_meets_Selection_changes :
    (Node.select tCfg (tChooser .selfFree .absent [⟨4, 2, 0⟩])).du.state = .selfFree
    ∧ (Node.select tCfg (tChooser .selfFree .absent [⟨4, 2, 0⟩])).du.source = 3
    ∧ (Node.select tCfg (tChooser .selfFree .absent [⟨2, 2, 0⟩])).du.source ≠ tBase.du.source
    ∧ (tChooser .selfFree .absent [⟨2, 2, 0⟩]).started .announce = false
    ∧ (Node.select tCfg (tChooser .followLock .absent [])).du.state ≠ .followLock
    ∧ (Node.select tCfg (tDu (fun d => { d with tracking := true }) (tChooser .selfRef .absent []))).du.state
        ≠ .selfRef :=
  by decide

/-- A change of source with a probe started and with none, an ANNOUNCE started, and the source kept. -/
theorem test_meets_Selection_places :
    (tDu (fun d => { d with cands := [⟨2, 0, 0⟩] }) (tOwn .probe)).started .probe = true
    ∧ (Node.select tCfg (tDu (fun d => { d with cands := [⟨2, 0, 0⟩] }) (tOwn .probe))).du.source ≠ tBase.du.source
    ∧ (tDu (fun d => { d with cands := [⟨2, 0, 0⟩] }) (tOwn .announce)).started .probe = false
    ∧ (Node.select tCfg (tDu (fun d => { d with cands := [⟨2, 0, 0⟩] }) (tOwn .announce))).du.source ≠ tBase.du.source
    ∧ (tOwn .announce).started .announce = true ∧ (tFollower 1).du.state.isSelf = false
    ∧ (Node.select tCfg (tChooser .selfRef .absent [])).du.state.isSelf = true
    ∧ (∀ k ∈ tBase.du.cands, rankOf (tBase.du.selfClass tCfg.h) tBase.rh.straps.node ≤ k.rank)
    ∧ tBase.du.source = tBase.rh.straps.node := by decide

/-- SELF_HOLD entered, left, kept, and not met. -/
theorem test_meets_Selection_credit :
    (tChooser .selfRef .absent []).du.state ≠ .selfHold
    ∧ (Node.select tCfg (tChooser .selfRef .absent [])).du.state = .selfHold
    ∧ (tChooser .selfHold .locked []).du.state = .selfHold
    ∧ (Node.select tCfg (tChooser .selfHold .locked [])).du.state ≠ .selfHold
    ∧ (Node.select tCfg (tChooser .selfHold .absent [])).du.state = .selfHold
    ∧ (Node.select tCfg (tChooser .selfHold .absent [])).du.source = (tChooser .selfHold .absent []).du.source
    ∧ (Node.select tCfg (tChooser .selfFree .locked [])).du.state ≠ .selfHold := by decide

theorem test_meets_AnnounceReceived :
    tBase.Receives tCfg ∧ isGood 1 (announceKey 0 3) (List.replicate 14 0) = true
    ∧ announceNode (announceKey 0 3) = tBase.rh.straps.node
    ∧ isGood 1 (announceKey 3 5) (List.replicate 14 0) = true ∧ announceClass (announceKey 3 5) = 3
    ∧ isGood 1 (announceKey 2 7) (List.replicate 14 0) = true ∧ announceNode (announceKey 2 7) ≠ tBase.rh.straps.node
    ∧ announceClass (announceKey 2 7) ≠ 3 ∧ tBase.du.dValid = false
    ∧ (∃ k ∈ tFour, k.node = announceNode (announceKey 2 7))
    ∧ (∀ k ∈ tFour, k.node ≠ announceNode (announceKey 2 5)) ∧ tBase.du.cands.length < 4 ∧ tFour.length = 4
    ∧ (∀ k ∈ tFour, k ≠ ⟨8, 2, 0⟩ → k.rank < Cand.rank ⟨8, 2, 0⟩)
    ∧ rankOf (announceClass (announceKey 2 5)) (announceNode (announceKey 2 5)) < Cand.rank ⟨8, 2, 0⟩
    ∧ Cand.rank ⟨8, 2, 0⟩ ≤ rankOf (announceClass (announceKey 2 9)) (announceNode (announceKey 2 9))
    ∧ (tChooser .selfFree .absent tFour).Receives tCfg :=
  ⟨⟨⟨rfl, rfl⟩, rfl⟩, by decide, by decide, by decide, by decide, by decide, by decide, by decide, rfl, by decide,
    by decide, by decide, rfl, by decide, by decide, by decide, ⟨⟨rfl, rfl⟩, rfl⟩⟩

/-- An ANNOUNCE that changes the class of its sender's entry, one that does not, a newcomer to a full table worse than
all of it; and a follower with a valid delay estimate whose source is not the sender, or has another class. -/
theorem test_meets_AnnounceReceived_selection :
    isGood 1 (announceKey 1 7) (List.replicate 14 0) = true ∧ announceNode (announceKey 1 7) ≠ tBase.rh.straps.node
    ∧ announceClass (announceKey 1 7) ≠ 3 ∧ (∃ k ∈ tFour, k.node = announceNode (announceKey 1 7))
    ∧ (∀ k ∈ tFour, k.node = announceNode (announceKey 1 7) → k.cls ≠ announceClass (announceKey 1 7))
    ∧ (∀ k ∈ tFour, k.node = announceNode (announceKey 2 7) → k.cls = announceClass (announceKey 2 7))
    ∧ (∀ k ∈ tFour, k.node ≠ announceNode (announceKey 2 9))
    ∧ (∀ k ∈ tFour, k.rank ≤ rankOf (announceClass (announceKey 2 9)) (announceNode (announceKey 2 9)))
    ∧ (tFollower 1).Receives tCfg ∧ (tFollower 1).du.dValid = true ∧ (tFollower 1).du.state.isSelf = false
    ∧ (tFollower 1).du.source ≠ announceNode (announceKey 1 4)
    ∧ (∀ k ∈ (tFollower 1).du.cands, k.node = announceNode (announceKey 1 4) → k.cls = announceClass (announceKey 1 4))
    ∧ (tFollower 1).du.source = announceNode (announceKey 1 2)
    ∧ (∀ k ∈ (tFollower 1).du.cands, k.node = announceNode (announceKey 1 2) → k.cls ≠ announceClass (announceKey 1 2))
    ∧ (tFollower 1).du.cands.length < 4
    ∧ (∀ k ∈ (tFollower 1).du.cands, k.node ≠ announceNode (announceKey 2 9)) :=
  ⟨by decide, by decide, by decide, by decide, by decide, by decide, by decide, by decide, ⟨⟨rfl, rfl⟩, rfl⟩,
    by decide, by decide, by decide, by decide, by decide, by decide, by decide, by decide⟩

/-- A newcomer that replaces the worst of a full table withdraws a pending ANNOUNCE of a node it outranks, and one that
comes last does not. -/
theorem test_meets_AnnounceReceived_withdrawal :
    (∃ w ∈ tFour, (∀ k ∈ tFour, k ≠ w → k.rank < w.rank)
      ∧ rankOf (announceClass (announceKey 0 2)) (announceNode (announceKey 0 2)) < w.rank)
    ∧ rankOf (announceClass (announceKey 0 2)) (announceNode (announceKey 0 2)) < rankOf 2 tBase.rh.straps.node
    ∧ ¬ rankOf (announceClass (announceKey 2 7)) (announceNode (announceKey 2 7)) < rankOf 2 tBase.rh.straps.node := by
  decide

theorem test_meets_AnnounceMeasures :
    (tMeasuring .followLock 1).Receives tCfg ∧ isGood 1 (announceKey 0 2) (List.replicate 14 0) = true
    ∧ announceNode (announceKey 0 2) ≠ (tMeasuring .followLock 1).rh.straps.node ∧ announceClass (announceKey 0 2) ≠ 3
    ∧ (tMeasuring .followLock 1).du.state.isSelf = false
    ∧ (tMeasuring .followLock 1).du.source = announceNode (announceKey 0 2)
    ∧ (tMeasuring .followLock 1).du.dValid = true ∧ (tMeasuring .followLock 1).tb.history ≠ []
    ∧ (∃ k ∈ (tMeasuring .followLock 1).du.cands, k.node = announceNode (announceKey 0 2))
    ∧ (∀ k ∈ (tMeasuring .followLock 1).du.cands,
        k.node = announceNode (announceKey 0 2) → k.cls = announceClass (announceKey 0 2))
    ∧ (tMeasuring .followLock 1).du.srcCls = announceClass (announceKey 0 2)
    ∧ (tMeasuring .followLock 1).du.cls = (tMeasuring .followLock 1).du.ownClass
    ∧ (tMeasuring .followLock 1).tb.entry 7 = some ⟨7, 9, false⟩ ∧ (tMeasuring .followLock 1).tb.entry 8 = none
    ∧ (tMeasuring .followLock 1).tb.nearest 0 = some (7, 9) :=
  ⟨⟨⟨rfl, rfl⟩, rfl⟩, by decide, by decide, by decide, rfl, by decide, rfl, by decide, by decide, by decide, by decide,
    by decide, rfl, rfl, by decide⟩

/-- The four grounds on which an ANNOUNCE is not measured, and the node that measures, its frame known or not. -/
theorem test_meets_AnnounceMeasures_any :
    tBase.du.state.isSelf = true ∧ (tMeasuring .followLock 1).du.source ≠ 4
    ∧ (tDu (fun d => { d with dValid := false }) (tMeasuring .followAcq 1)).du.dValid = false
    ∧ (tFollower 1).du.dValid = true ∧ (tFollower 1).tb.history = []
    ∧ (tMeasuring .followAcq 2).du.state.isSelf = false ∧ (tMeasuring .followAcq 2).du.source = 2
    ∧ (tMeasuring .followAcq 2).du.dValid = true ∧ (tMeasuring .followAcq 2).tb.history ≠ []
    ∧ (tMeasuring .followAcq 2).tb.entry 7 = some ⟨7, 9, false⟩ ∧ (tMeasuring .followAcq 2).tb.entry 8 = none
    ∧ (tMeasuring .followAcq 2).tb.nearest 0 = some (7, 9) := by decide

/-- The measurement leaves the node following and locked, or following and not locked. -/
theorem test_meets_AnnounceMeasures_adoption :
    (Node.correct tCfg 4 0 (tMeasuring .followLock 1)).du.state = .followLock
    ∧ (Node.correct tCfg 4 0 (tMeasuring .followAcq 2)).du.state ≠ .followLock
    ∧ Timecode.zero.legal tCfg.r tCfg.d = true ∧ Timecode.legal ⟨0x24, 0, 0, 0, false⟩ tCfg.r tCfg.d = false := by
  decide

theorem test_meets_TimebaseArithmetic_phase :
    reduceError 2048 1024 = 1024 ∧ reduceError 2048 1025 = -1023 ∧ Tb.powerOn.starts = [] ∧ tBase.tb.starts ≠ []
    ∧ (⟨7, 9, false⟩ : HistEntry) ∈ (tTb (fun b => { b with history := [⟨7, 9, false⟩] }) tBase).tb.history := by decide

theorem test_meets_StepCorrection :
    tBase.tb.gen = some tGen ∧ tCfg.stepLimit < (reduceError tCfg.period 11).natAbs
    ∧ reached tBase.tb.e (eAdd tGen.unstepped (-reduceError tCfg.period 11)) = false
    ∧ (tTb (fun b => { b with e := 2037 }) tBase).tb.gen = some tGen
    ∧ reached 2037 (eAdd tGen.unstepped (-reduceError tCfg.period 11)) = true
    ∧ reached 2036 (eAdd tGen.unstepped (-reduceError tCfg.period 11)) = false
    ∧ (tChooser .selfRef .locked []).tb.gen = some tGen := by
  refine ⟨rfl, by decide, by decide, rfl, by decide, by decide, rfl⟩

theorem test_meets_SlewCorrection :
    (reduceError tCfg.period 10).natAbs ≤ tCfg.stepLimit ∧ (reduceError tCfg.period (-10)).natAbs ≤ tCfg.stepLimit
    ∧ ¬ ((reduceError tCfg.period 2).natAbs ≤ tCfg.lockWindow ∧ tBase.du.lock = 3) ∧ tBase.du.lock ≤ 4
    ∧ (reduceError tCfg.period 2).natAbs ≤ tCfg.lockWindow ∧ (tDu (fun d => { d with lock := 3 }) tBase).du.lock = 3
    ∧ tCfg.lockWindow < (reduceError tCfg.period 3).natAbs
    ∧ (tDu (fun d => { d with state := .selfRef, tracking := true }) tBase).du.tracking = true := by decide

/-- A slew that completes the lock count, following and under the reference, with a class that changes and without. -/
theorem test_meets_SlewCorrection_lock :
    (tDu (fun d => { d with state := .followAcq, lock := 3 }) tBase).du.lock = 3
    ∧ (tDu (fun d => { d with state := .followAcq, lock := 3 }) tBase).du.state = .followAcq
    ∧ (tDu (fun d => { d with state := .selfRef, lock := 3 }) tBase).du.state = .selfRef
    ∧ (tDu (fun d => { d with state := .selfRef, lock := 3 }) tBase).du.state ≠ .followAcq
    ∧ Du.ownClass { tBase.du with state := .followLock, srcCls := 0, cls := 1 } = 1
    ∧ Du.ownClass { tBase.du with state := .followLock, srcCls := 0, cls := 2 } ≠ 2 := by decide

theorem test_meets_DelayReplyReceived :
    (tFollower 1).Receives tCfg ∧ isGood 3 (nodesKey 3 3 2) (u32 0 ++ u32 0) = true
    ∧ Key.first (nodesKey 3 3 2) = (tFollower 1).rh.straps.node
    ∧ Key.first (nodesKey 3 4 2) ≠ (tFollower 1).rh.straps.node
    ∧ isGood 3 (nodesKey 3 4 2) (u32 0 ++ u32 0) = true
    ∧ Key.second (nodesKey 3 3 2) = (tFollower 1).du.source ∧ (tFollower 1).du.probe = some ⟨2, 0, 1⟩
    ∧ ((tFollower 1).du.dValid = true ∧ (tFollower 1).du.dEst ≤ 4095)
    ∧ ¬ (tBase.du.state.isSelf = false ∧ True) ∧ tBase.Receives tCfg
    ∧ rawDelay 0 8191 0 0 = 4095 ∧ rawDelay 0 8192 0 0 = 4096 ∧ rawDelay 0 0xFFFFFFFF 0 0 = -1 ∧ rawDelay 0 0 0 1 = 0
    ∧ tCfg.prop * (tCfg.pre + 1) < 2 * 4095 :=
  ⟨⟨⟨rfl, rfl⟩, rfl⟩, by decide, by decide, by decide, by decide, by decide, rfl, by decide, by decide,
    ⟨⟨rfl, rfl⟩, rfl⟩, by decide, by decide, by decide, by decide, by decide⟩

theorem test_meets_ReferenceMonitor :
    tBase.Works tCfg ∧ tBase.du.mon = .absent ∧ tBase.du.validRun = 0 ∧ (tMon 2080 .checking 3 0).Works tCfg
    ∧ (tMon 2080 .checking 3 0).du.anchor = some 0 ∧ tCfg.period / 64 = 32
    ∧ (sdiff (tMon 2080 .checking 3 0).tb.e (eAdd 0 tCfg.period)).natAbs = 32
    ∧ (sdiff (tMon 2081 .locked 9 1).tb.e (eAdd 0 tCfg.period)).natAbs = 33
    ∧ (tMon 2081 .locked 9 1).du.invalidRun + 1 < 3 ∧ 3 ≤ (tMon 2081 .locked 9 2).du.invalidRun + 1
    ∧ (tMon 2080 .checking 3 0).du.cands = [] ∧ (tMon 2080 .checking 3 0).du.cls ≠ 0 :=
  ⟨⟨rfl, rfl⟩, rfl, rfl, ⟨rfl, rfl⟩, rfl, by decide, by decide, by decide, by decide, by decide, rfl, by decide⟩

theorem test_meets_ReferenceMonitor_measures :
    (tDu (fun d => { d with state := .selfRef, cls := 0 }) (tMon 2080 .locked 9 0)).Works tCfg
    ∧ (sdiff (2080 : Word32) (eAdd 0 tCfg.period)).natAbs ≤ tCfg.period / 64
    ∧ (tMeasuring .selfRef 0).tb.history ≠ [] ∧ (tMeasuring .selfRef 0).tb.nearest (eAdd 9 tCfg.rOff) = some (7, 9)
    ∧ (tMeasuring .selfRef 0).du.state = .selfRef ∧ (tMeasuring .selfRef 0).du.cls = 0 :=
  ⟨⟨rfl, rfl⟩, by decide, by decide, by decide, rfl, rfl⟩

theorem test_meets_ReferenceMonitor_silence :
    (tMon 6144 .locked 9 0).Works tCfg ∧ (tMon 6144 .locked 9 0).du.mon ≠ .absent
    ∧ (3 * tCfg.period : Int) = sdiff (tMon 6144 .locked 9 0).tb.e 0
    ∧ (tDu (fun d => { d with state := .selfRef, cls := 0 }) (tMon 6144 .locked 9 0)).du.cands = [] :=
  ⟨⟨rfl, rfl⟩, by decide, by decide, rfl⟩

/-- Candidates: the lock and the loss of LOCKED change the class or do not, by a valid pulse, silence or a third invalid
pulse. -/
theorem test_meets_ReferenceMonitor_selection :
    (tDu (fun d => { d with cands := tFour }) (tMon 2080 .checking 3 0)).Works tCfg
    ∧ (tDu (fun d => { d with cands := tFour }) (tMon 6144 .locked 9 0)).Works tCfg
    ∧ (tDu (fun d => { d with cands := tFour }) (tMon 2081 .locked 9 2)).Works tCfg
    ∧ Du.ownClass { tBase.du with mon := .locked, cands := tFour }
        ≠ Du.ownClass { tBase.du with mon := .absent, cands := tFour }
    ∧ Du.ownClass { tBase.du with mon := .checking } = Du.ownClass { tBase.du with mon := .absent }
    ∧ (Node.select tCfg (tDu (fun d => { d with cands := tFour }) (tMon 2080 .locked 4 0))).du.state = .selfRef
    ∧ (tDu (fun d => { d with cands := tFour }) (tMon 2080 .locked 4 0)).du.ownClass = 0
    ∧ (Node.select tCfg (tDu (fun d => { d with cands := [⟨2, 0, 0⟩] }) (tMon 2080 .locked 4 0))).du.state ≠ .selfRef
    ∧ (tMeasuring .selfRef 0).tb.history ≠ [] ∧ tBase.tb.history = []
    ∧ tCfg.period / 64 < (sdiff (tMon 2081 .locked 9 2).tb.e (eAdd 0 tCfg.period)).natAbs
    ∧ 3 ≤ (tMon 2081 .locked 9 2).du.invalidRun + 1 :=
  ⟨⟨rfl, rfl⟩, ⟨rfl, rfl⟩, ⟨rfl, rfl⟩, by decide, by decide, by decide, by decide, by decide, by decide, by decide,
    by decide, by decide⟩

theorem test_meets_StrobeFire :
    tBase.Works tCfg ∧ tBase.tb.gen ≠ none ∧ tBase.sg.prior = none ∧ tBase.tb.frameDue = false
    ∧ tBase.tb.line + 1 ≠ tCfg.lTot ∧ tBase.tb.tick < tCfg.lineLength tBase.tb.line tBase.tb.trim :=
  ⟨⟨rfl, rfl⟩, by decide, rfl, rfl, by decide, by decide⟩

/-- R65, R67: entries that fired at the tick at which a step ends the frame are taken back. -/
theorem test_strobe_taken_back : (Sg.frameStart ⟨0b000001, [], none, 0, some 0⟩).pins = 0 := by decide

theorem test_meets_StoreGrants :
    (tFree 0 tBase).ss.freeCount = 0 ∧ (tFree 1 tBase).ss.freeCount = 1 ∧ (tFree 4 tBase).ss.freeCount = 4
    ∧ (tFree 5 tBase).ss.freeCount = 5 ∧ EngineState.isHeadLine .idle 7 1 = false
    ∧ EngineState.isHeadLine .idle 7 0 = true ∧ 48 = (tFree 5 tBase).ss.bufs.length := by decide

/-! ## Launching a plane -/

theorem test_meets_LinesBegin :
    tHead.WorksHead tCfg ∧ tHead.lu.latch = none ∧ (tFilling 1 0 []).WorksHead tCfg
    ∧ (tFilling 1 0 []).lu.line = .filling 0 ∧ (tFilling 1 0 []).lu.latch ≠ none ∧ 0 < (tFilling 1 0 []).ss.bufs.length
    ∧ (tLine0 .outside 0 []).lu.latch ≠ none ∧ (∀ b, (tLine0 .discarding 0 []).lu.line ≠ .filling b)
    ∧ (tFree 1 (tLine0 .outside 0 [])).ss.freeCount = 1 ∧ (tFree 0 (tLine0 .outside 0 [])).ss.freeCount = 0
    ∧ (tFree 0 (tLine0 .outside 0 [])).WorksHead tCfg :=
  ⟨⟨rfl, rfl⟩, rfl, ⟨rfl, rfl⟩, rfl, Option.some_ne_none _, by decide, Option.some_ne_none _,
    fun _ => LineState.noConfusion,
    by decide, by decide, ⟨rfl, rfl⟩⟩

theorem test_filling (k no : Nat) (queue : List Segment) :
    ((tFilling k no queue).ss.buf 0).bytes.length = k := by
  have h : ((tFilling k no queue).ss.buf 0).bytes = List.replicate k 0 := rfl
  rw [h, List.length_replicate]

theorem test_meets_PayloadWord :
    portCommand 3 0 = some .lineEnd ∧ portCommand 4 0 = some (.payloadWord 4 0) ∧ portCommand 8 0 = none
    ∧ tHead.WorksHead tCfg ∧ 4 ≤ (4 : BitVec 4).toNat ∧ (7 : BitVec 4).toNat ≤ 7 ∧ tHead.lu.line = .outside
    ∧ (tLine0 .discarding 0 []).lu.line = .discarding ∧ (tFilling 6140 0 []).lu.line = .filling 0
    ∧ (tFilling 6140 0 []).WorksHead tCfg ∧ 0 < (tFilling 6140 0 []).ss.bufs.length
    ∧ ((tFilling 6140 0 []).ss.buf 0).bytes.length + ((7 : BitVec 4).toNat - 3) ≤ 6144
    ∧ 6144 < ((tFilling 6141 0 []).ss.buf 0).bytes.length + ((7 : BitVec 4).toNat - 3) := by
  refine ⟨rfl, rfl, rfl, ⟨rfl, rfl⟩, by decide, by decide, rfl, rfl, rfl, ⟨rfl, rfl⟩, by decide, ?_,
    ?_⟩ <;> rw [test_filling] <;> decide

theorem test_meets_LineEnd :
    (tFilling 1 4 []).WorksHead tCfg ∧ tCfg.aLines ≤ (tFilling 1 4 []).lu.lineNo
    ∧ (tFilling 1 3 []).lu.lineNo < tCfg.aLines
    ∧ ((tFilling 0 3 []).ss.buf 0).bytes = [] ∧ ((tFilling 1 3 []).ss.buf 0).bytes ≠ []
    ∧ 8 ≤ (tFilling 1 3 (List.replicate 8 (tSeg 1))).lu.queue.length
    ∧ (tFilling 1 0 (List.replicate 7 (tSeg 1))).lu.queue.length < 8
    ∧ (tFilling 1 0 []).lu.latch = some (7, Timecode.zero) :=
  ⟨⟨rfl, rfl⟩, by decide, by decide, rfl, by decide, by decide, by decide, rfl⟩

theorem test_meets_SegmentLaunched :
    (tTb (fun b => { b with e := 2 }) (tFilling 1 0 [tSeg 47])).WorksHead tCfg
    ∧ (tFilling 1 0 [tSeg 47]).lu.queue = tSeg 47 :: []
    ∧ 0 + (20 + (tSeg 47).length) * 9 ≤ (Sys2Proof.Machine.sdiff 2 0).toNat * 125
    ∧ (Sys2Proof.Machine.sdiff 1 0).toNat * 125 < 0 + (20 + (tSeg 47).length) * 9
    ∧ (0 : Fin 4).val ≠ tHead.rh.straps.plane.toNat ∧ (1 : Fin 4).val = tHead.rh.straps.plane.toNat
    ∧ tHead.lu.carrier ≠ .off ∧ (tFresh .head).lu.carrier = .off ∧ tHead.lu.queue = []
    ∧ tHead.uplinkOutput 1 = some [.idleFill] ∧ tHead.uplinkOutput 0 = none :=
  ⟨⟨rfl, rfl⟩, rfl, by decide, by decide, by decide, by decide, by decide, rfl, rfl, rfl, rfl⟩

/-! ## Receive lanes -/

theorem test_meets_LaneLosses :
    tBase.WorksBase tCfg ∧ (tBase.lane 1).state = .dark ∧ (tLane .locking (tBody (.filling 0)) 1 0 none).WorksBase tCfg
    ∧ ((tLane .locking (tBody (.filling 0)) 1 0 none).lane 1).seg.buffer = some 0
    ∧ ((tLane .locking .none 1 0 none).lane 1).seg.buffer = none
    ∧ ((tLane .locked .none 0 3 none).lane 1).state = .locked
    ∧ tBase.se.state = .idle
    ∧ ((tLane .locked .none 0 0 (some 0xFFFFFFFF)).lane 1).isSilent tBase.tb.e = true
    ∧ ((tLane .locked .none 0 0 (some 0)).lane 1).isSilent tBase.tb.e = false
    ∧ ((tLane .locking .none 1 0 (some 0xFFFFFFFF)).lane 1).isSilent tBase.tb.e = true :=
  ⟨⟨rfl, rfl⟩, rfl, ⟨rfl, rfl⟩, rfl, rfl, rfl, rfl, by decide, by decide, by decide⟩

/-- An engine in RUN that the plane leaves, J then holding another or none, records waiting, and one in FLUSHING. -/
theorem test_meets_LaneLosses_engine :
    (tRun [tRec 1] []).se.state = .run tCtx ∧ PlaneSet.remove tCtx.j 1 ≠ 0
    ∧ (tSe (fun e => { e with state := .run { tCtx with j := 2 } }) (tRun [tRec 1] [])).se.state
        = .run { tCtx with j := 2 }
    ∧ PlaneSet.remove ({ tCtx with j := 2 } : FrameCtx).j 1 = 0
    ∧ 0 < ((tRun [tRec 1] []).se.table.map fun r => contribCount r.contribs).sum
    ∧ (tSe (fun e => { e with state := .flushing tCtx }) tBase).se.state = .flushing tCtx := by decide

theorem test_meets_SegmentStarts :
    (tBase.lane 1).seg = .none ∧ (tLane .locking (tBody (.filling 0)) 1 0 none).WorksBase tCfg
    ∧ (tLane .locked .started 0 0 none).WorksBase tCfg ∧ ((tLane .locked .started 0 0 none).lane 1).seg = .started
    ∧ ((tLane .locked .started 0 2 none).lane 1).badRun < 3 ∧ 3 ≤ ((tLane .locked .started 0 3 none).lane 1).badRun
    ∧ ((tLane .locking (tBody (.filling 0)) 1 0 none).lane 1).seg.buffer = some 0
    ∧ (tFree 4 (tLane .locked .started 0 0 none)).ss.freeCount = 4
    ∧ EngineState.isHeadLine (.run tCtx) 7 2 = false ∧ EngineState.isHeadLine (.run tCtx) 7 1 = true
    ∧ tHeader.bytes.length = 16 ∧ SegHeader.ofBytes tHeader.bytes = tHeader ∧ headerGood tCfg 1 tHeader = true
    ∧ headerGood tCfg 2 tHeader = false ∧ ((tLane .locked .started 0 0 none).lane 1).asks = true
    ∧ ((tLane .locking .started 0 0 none).lane 1).asks = false
    ∧ (tLane .locked .started 0 0 none).judge 1 tHeader.frame tHeader.line = .accept
    ∧ (tLane .locked .started 0 0 none).judge 1 tHeader.frame 1 = .stray
    ∧ (tFree 5 (tLane .locked .started 0 0 none)).ss.freeCount = 5
    ∧ (tFree 0 (tLane .locked .started 0 0 none)).ss.freeCount = 0
    ∧ (tFree 0 (tLane .locked .started 0 0 none)).judge 1 tHeader.frame tHeader.line = .accept :=
  ⟨rfl, ⟨rfl, rfl⟩, ⟨rfl, rfl⟩, rfl, by decide, by decide, rfl, by decide, by decide, by decide, by decide, by decide,
    by decide, by decide, rfl, rfl, by decide, by decide, by decide,
    by decide, by decide⟩

/-- The fourth bad segment in a row in LOCKED, with a buffer to give back and without. -/
theorem test_meets_SegmentStarts_lost :
    (tLane .locked (tBody (.filling 0)) 0 3 none).WorksBase tCfg
    ∧ ((tLane .locked (tBody (.filling 0)) 0 3 none).lane 1).seg.buffer = some 0
    ∧ ((tLane .locked .started 0 3 none).lane 1).seg.buffer = none
    ∧ headerGood tCfg 1 { tHeader with line := 3, length := 6144, timecode := none } = true
    ∧ headerGood tCfg 1 { tHeader with line := 4, timecode := none } = false
    ∧ headerGood tCfg 1 { tHeader with length := 0 } = false ∧ headerGood tCfg 1 { tHeader with length := 6145 } = false
    ∧ headerGood tCfg 1 { tHeader with timecode := none } = false
    ∧ headerGood tCfg 1 { tHeader with line := 1 } = false :=
  ⟨⟨rfl, rfl⟩, rfl, rfl, by decide, by decide, by decide, by decide, by decide, by decide⟩

theorem test_meets_SegmentEnds :
    (tLane .locking (tBody .checkOnly) 0 0 none).WorksBase tCfg
    ∧ ((tLane .locking (tBody .checkOnly) 0 0 none).lane 1).seg = .body tHeader.bytes tHeader .checkOnly
    ∧ ((tLane .locked .started 0 3 none).lane 1).seg = .started
    ∧ ((tLane .locked .started 0 3 none).lane 1).state = .locked ∧ 3 ≤ ((tLane .locked .started 0 3 none).lane 1).badRun
    ∧ segmentGood tCfg 1 .truncation false tHeader.bytes tHeader [] = false
    ∧ segmentCheck .truncation false tHeader.bytes [] = false
    ∧ segmentCheck .delimiter false tHeader.bytes (tRest [1, 2]) = true
    ∧ segmentGood tCfg 1 .delimiter false tHeader.bytes tHeader (tRest [1, 2]) = false
    ∧ segmentGood tCfg 1 .delimiter false tHeader.bytes tHeader (tRest [1]) = true
    ∧ ((tLane .locked (tBody (.filling 0)) 0 2 none).lane 1).badRun < 3
    ∧ ((tLane .locked (tBody (.filling 0)) 0 3 none).lane 1).badRun = 3
    ∧ ((tLane .locking (tBody .checkOnly) 0 0 none).lane 1).goodRun = 0
    ∧ ((tLane .locking (tBody (.filling 0)) 1 0 none).lane 1).goodRun ≠ 0 :=
  ⟨⟨rfl, rfl⟩, rfl, rfl, rfl, by decide, by decide, by decide, by decide +kernel, by decide +kernel,
    by decide +kernel, by decide, by decide,
    by decide, by decide⟩

/-- What makes a segment good, each condition failing alone. -/
theorem test_meets_SegmentEnds_good :
    (tRest [1]).length = tHeader.length + 4 ∧ (tRest [1, 2]).length ≠ tHeader.length + 4 ∧ (tRest [1]).length ≤ 6148
    ∧ segmentGood tCfg 1 .delimiter true tHeader.bytes tHeader (tRest [1]) = false
    ∧ segmentGood tCfg 1 .truncation false tHeader.bytes tHeader (tRest [1]) = false
    ∧ segmentGood tCfg 2 .delimiter false tHeader.bytes tHeader (tRest [1]) = false
    ∧ segmentGood tCfg 1 .delimiter false tHeader.bytes tHeader ((tRest [1]).set 0 9) = false
    ∧ segmentCheck .delimiter false tHeader.bytes ((tRest [1]).set 0 9) = false
    ∧ segmentCheck .delimiter false tHeader.bytes [1, 2, 3] = false := by decide +kernel

/-- The segment that completes a lock, in each disposition. -/
theorem test_meets_SegmentEnds_lock (d : Disposition) :
    (tLane .locking (tBody d) 1 0 none).WorksBase tCfg
    ∧ ((tLane .locking (tBody d) 1 0 none).lane 1).state = .locking
    ∧ ((tLane .locking (tBody d) 1 0 none).lane 1).goodRun ≠ 0
    ∧ ((tLane .locking (tBody d) 1 0 none).lane 1).seg = .body tHeader.bytes tHeader d :=
  ⟨⟨rfl, rfl⟩, rfl, Nat.one_ne_zero, rfl⟩

/-! ## Stitch engine and output port -/

theorem test_meets_Classification :
    tBase.se.state = .idle ∧ (tRun [] []).se.state = .run tCtx
    ∧ (tSe (fun e => { e with state := .flushing tCtx }) tBase).se.state = .flushing tCtx
    ∧ PlaneSet.has (if (7 : BitVec 8) = tCtx.fCur then tCtx.mask else 3) 2 = false
    ∧ PlaneSet.has (if (7 : BitVec 8) = tCtx.fCur then tCtx.mask else 3) 1 = true
    ∧ (9 : BitVec 8) ≠ tCtx.fCur ∧ (9 : BitVec 8) ≠ tCtx.fCur + 1 ∧ (6 : BitVec 8) ≠ tCtx.fCur + 1 ∧ 0 < tCtx.nNext
    ∧ findRecord 7 1 (tRun [tRec 1] []).se.table = some (tRec 1) ∧ ((tRec 1).contribs.get 0).isSome = true
    ∧ ((tRec 1).contribs.get 1).isSome = false ∧ findRecord 8 0 (tRun [tRec 1] []).se.table = none :=
  ⟨rfl, rfl, rfl, by decide, by decide, by decide, by decide, by decide, by decide, by decide, rfl, rfl, by decide⟩

theorem test_meets_LineRelease :
    (tRec 1).contribs.get 0 = some ⟨0, 1⟩ ∧ (tRec 1).contribs.get 1 = none ∧ PlaneSet.has tCtx.mask 1 = true
    ∧ PlaneSet.has tCtx.mask 2 = false ∧ (tRun [tRec 1] []).rh.runtime.mode = .repeatLast
    ∧ (tRun [tRec 1] []).se.holds.get 1 = none
    ∧ (tSe (fun e => { e with holds := e.holds.set 1 (some ⟨5, 1, 6, 3⟩) }) (tRun [tRec 1] [])).se.holds.get 1
        = some ⟨5, 1, 6, 3⟩ := ⟨rfl, rfl, by decide, by decide, rfl, rfl, rfl⟩

theorem test_meets_DeliveryRecords :
    (tRun [] []).se.state = .run tCtx ∧ (tRun [] []).judgeRun tCtx 1 7 1 = .accept
    ∧ findRecord 7 1 (tRun [] []).se.table = none ∧ (tRun [] []).se.table.length < 16
    ∧ (tRun [tRec 1] []).judgeRun tCtx 1 7 1 = .accept ∧ findRecord 7 1 (tRun [tRec 1] []).se.table = some (tRec 1)
    ∧ tBase.se.state = .idle ∧ PlaneSet.has tBase.rh.runtime.mask 2 = false
    ∧ PlaneSet.has tBase.rh.runtime.mask 1 = true
    ∧ (tRun [] []).judgeRun tCtx 1 7 0 = .late ∧ (tRun [] []).judgeRun tCtx 1 9 0 = .stray
    ∧ tBase.judge 1 7 1 = .stray ∧ (tDelivery 7 1).line ≠ 0 ∧ (tDelivery 7 0).line = 0 := by decide

theorem test_meets_StraysAndFlush :
    (tRun [] []).judgeRun tCtx 1 9 0 = .stray ∧ (tRun [] []).se.strayRun < 7
    ∧ 7 ≤ (tSe (fun e => { e with strayRun := 7 }) (tRun [] [])).se.strayRun
    ∧ (tRun [] []).engineStep tCfg = none ∧ ((tRun [tRecOf .expired 1] []).engineStep tCfg).isSome = true
    ∧ (tRun [] (List.replicate 4 tFrameEnd)).ou.freePlaces = 0 ∧ (tRun [] []).ou.freePlaces ≠ 0
    ∧ tCtx.nNext < tCfg.aLines ∧ ({ tCtx with nNext := 4 } : FrameCtx).nNext ≥ tCfg.aLines
    ∧ headRecord 7 (tRun [] []).se.table = none ∧ headRecord 7 (tRun [tRec 1] []).se.table = some (tRec 1)
    ∧ (tRec 1).state = .opened ∧ (tRecOf .complete 1).state = .complete
    ∧ (tRecOf .expired 2).line ≠ tCtx.nNext := by decide

theorem test_meets_FullTable :
    (tSixteen 2).length = 16 ∧ headRecord 7 (tSixteen 2) = some (tRec 2) ∧ headRecord 7 (tSixteen 1) = some (tRec 1)
    ∧ findRecord 7 1 (tSixteen 2) = none ∧ findRecord 7 17 (tSixteen 1) = none
    ∧ (tRun (tSixteen 2) []).judgeRun tCtx 1 7 1 = .accept ∧ (tRun (tSixteen 1) []).judgeRun tCtx 1 7 17 = .accept
    ∧ keyRank 7 7 1 < (tRec 2).rank 7 ∧ (tRec 1).rank 7 ≤ keyRank 7 7 17
    ∧ (tRun (tSixteen 2) (List.replicate 4 tFrameEnd)).ou.freePlaces < placesTo tCfg tCtx 7 1
    ∧ 1 - tCtx.nNext < (tRun (tSixteen 2) (List.replicate 3 tFrameEnd)).ou.freePlaces ∧ 1 < tCfg.aLines
    ∧ tCtx.nNext ≤ (tRec 1).line ∧ (tRec 1).line < tCfg.aLines := by decide

/-- Sixteen records of frame 8, from line 1 on, each plane `p`'s alone, frame 7 complete but for its FRAME_END. -/
def tNext (p : Fin 4) : Node :=
  tSe (fun e => { e with state := .run { tCtx with nNext := 4 } })
    (tRun ((List.range 16).map fun k =>
      { tRec (1 + k) with frame := 8, contribs := (Four.const none).set p (some ⟨0, 1⟩) }) [])

/-- A line of its own and a force in the next frame, records withdrawn by its mask, and no plane to join it. -/
theorem test_meets_FullTable_next :
    (tNext 0).se.state = .run { tCtx with nNext := 4 } ∧ (tNext 0).se.table.length = 16
    ∧ (tNext 0).judgeRun { tCtx with nNext := 4 } 1 8 0 = .accept
    ∧ (tNext 0).judgeRun { tCtx with nNext := 4 } 1 8 17 = .accept
    ∧ findRecord 8 0 (tNext 0).se.table = none ∧ findRecord 8 17 (tNext 0).se.table = none
    ∧ headRecord 7 (tNext 0).se.table = some { tRec 1 with frame := 8 }
    ∧ keyRank 7 8 0 < Record.rank 7 { tRec 1 with frame := 8 }
    ∧ Record.rank 7 { tRec 1 with frame := 8 } ≤ keyRank 7 8 17
    ∧ (tCfg.aLines - 4) + 0 + 2 ≤ (tNext 0).ou.freePlaces ∧ (tCfg.aLines - 4) + 1 + 2 ≤ (tNext 0).ou.freePlaces
    ∧ (tNext 0).rh.runtime.mask &&& (tNext 0).se.lockedSet ≠ 0
    ∧ (∀ r ∈ (tNext 0).se.table, ∃ p, PlaneSet.has (tNext 0).rh.runtime.mask p = true
        ∧ (r.contribs.get p).isSome = true)
    ∧ (∃ r ∈ (tNext 3).se.table, ∀ p, PlaneSet.has (tNext 3).rh.runtime.mask p = true → r.contribs.get p = none)
    ∧ (tNext 0).rh.runtime.mask &&& (tSe (fun e => { e with lockedSet := 12 }) (tNext 0)).se.lockedSet = 0 := by
  decide

theorem test_meets_FrameAdvance :
    (tRun [] []).rh.runtime.mask &&& (tRun [] []).se.lockedSet ≠ 0
    ∧ (tSe (fun e => { e with lockedSet := 12 }) (tRun [] [])).rh.runtime.mask &&& 12#4 = 0 := by decide

/-- Contributions that the next mask withdraws and that it keeps, records that are evaluated each way. -/
theorem test_meets_FrameAdvance_withdraw :
    0 < ([({ tRec 1 with contribs := (Four.const none).set 3 (some ⟨0, 1⟩) } : Record)].map fun r => contribCount
      (Four.build fun p => if PlaneSet.has (tRun [] []).rh.runtime.mask p then none else r.contribs.get p)).sum
    ∧ 0 < ([tRec 1].map fun r => contribCount
      (Four.build fun p => if PlaneSet.has (tRun [] []).rh.runtime.mask p then r.contribs.get p else none)).sum
    ∧ (∀ p, PlaneSet.has 1 p = true → ((tRec 1).contribs.get p).isSome = true) ∧ (tRec 1).state ≠ .expired
    ∧ PlaneSet.has 3 1 = true ∧ (tRec 1).contribs.get 1 = none ∧ (tRec 1).state = .opened
    ∧ (tRecOf .complete 1).state = .complete ∧ passed 100 (tRecOf .complete 1).deadline = true
    ∧ passed 99 (tRecOf .complete 1).deadline = false ∧ (tRecOf .expired 1).state = .expired := by decide

theorem test_meets_RecordDeadline :
    (tRun [tRec 1] []).WorksBase tCfg ∧ (tRun [tRec 1] []).se.table = [tRec 1] ∧ (tRec 1).state = .opened
    ∧ passed (tRun [tRec 1] []).tb.e (tRec 1).deadline = true ∧ (tRec 1).frame = tCtx.fCur ∧ (tRec 1).line = tCtx.nNext
    ∧ tCtx.nNext + 1 < tCfg.aLines ∧ (tRun [tRec 1] (List.replicate 3 tFrameEnd)).ou.queue.length < 4
    ∧ (tRun [tRec 1] (List.replicate 4 tFrameEnd)).ou.queue.length = 4 :=
  ⟨⟨rfl, rfl⟩, rfl, rfl, by decide, rfl, rfl, by decide, by decide, by decide⟩

/-- Several records: the one past its deadline behind an OPEN head record, and at the head, a gap line before it. -/
theorem test_meets_RecordDeadline_several :
    (tRun [{ tRec 1 with deadline := 200 }, tRec 3] []).WorksBase tCfg
    ∧ (tRec 3).state = .opened
    ∧ passed (tRun [{ tRec 1 with deadline := 200 }, tRec 3] []).tb.e (tRec 3).deadline = true
    ∧ headRecord 7 [{ tRec 1 with deadline := 200 }, tRecOf .expired 3] = some { tRec 1 with deadline := 200 }
    ∧ (tRun [{ tRec 3 with deadline := 200 }, tRec 2] []).WorksBase tCfg
    ∧ headRecord 7 [{ tRec 3 with deadline := 200 }, tRecOf .expired 2] = some (tRecOf .expired 2)
    ∧ tCtx.nNext ≤ 2 ∧ 2 < tCfg.aLines ∧ 2 - tCtx.nNext < (tRun [] []).ou.freePlaces :=
  ⟨⟨rfl, rfl⟩, rfl, by decide, by decide, ⟨rfl, rfl⟩, by decide, by decide, by decide, by decide⟩

theorem test_meets_OutputPort :
    tBase.baseCfg = some tCfg ∧ tBase.ou.abort = none ∧ tBase.ou.queue = [] ∧ tAborting.baseCfg = some tCfg
    ∧ tAborting.ou.abort = some (.line 7 1) ∧ (tEmitting tFrameEnd 4).ou.taken + 1 < tFrameEnd.words
    ∧ tFrameEnd.words = (tEmitting tFrameEnd 5).ou.taken + 1 ∧ tLine.words = (tEmitting tLine 7).ou.taken + 1
    ∧ (tEmitting tLine 7).ou.queue = [tLine] ∧ (tEmitting tLine 7).rstLow = false
    ∧ (tEmitting tLine 7).se.state = .idle
    ∧ (tOu (fun o => { o with stalled := true }) (tEmitting tLine 7)).ou.stalled = true :=
  ⟨rfl, rfl, rfl, rfl, rfl, by decide, by decide, by decide, rfl, rfl, rfl, rfl⟩

/-- A queue with one free place and with more, a word offered past the last, an end before it, an ABORT over the queue;
and a FRAME_END that ends with the engine in RUN. -/
theorem test_meets_OutputPort_engine :
    (List.replicate 3 tLine).length + 1 = 4 ∧ ([] : List Descriptor).length + 1 ≠ 4
    ∧ tFrameEnd.words ≤ (tEmitting tFrameEnd 5).ou.taken + 1 ∧ (tEmitting tFrameEnd 4).ou.taken + 1 < tFrameEnd.words
    ∧ (tEmitting tFrameEnd 5).baseCfg = some tCfg ∧ (tEmitting tFrameEnd 5).rstLow = false
    ∧ tAborting.rstLow = false ∧ tAborting.ou.abort ≠ none
    ∧ (tOu (fun o => { o with taken := 5 }) (tRun [tRec 1] [tFrameEnd])).baseCfg = some tCfg
    ∧ (tOu (fun o => { o with taken := 5 }) (tRun [tRec 1] [tFrameEnd])).ou.queue = [tFrameEnd]
    ∧ (tRun [tRec 1] [tFrameEnd]).rstLow = false ∧ (tRun [tRec 1] [tFrameEnd]).se.state = .run tCtx :=
  ⟨by decide, by decide, by decide, by decide, rfl, rfl, rfl, by decide, rfl, rfl, rfl, rfl⟩

theorem test_meets_OutputWords :
    (tEmitting tFrameEnd 5).baseCfg = some tCfg ∧ (tEmitting tFrameEnd 5).ou.abort = none
    ∧ (tEmitting tFrameEnd 5).ou.queue = [tFrameEnd] ∧ (tEmitting tFrameEnd 5).ou.taken = 5
    ∧ (tEmitting (.line tFive) 9).ou.queue = [.line tFive] ∧ (tEmitting (.line tFive) 7).ou.taken = 7
    ∧ tFive.planes.get 1 = .present 0 5 ∧ 1 < (5 + 3) / 4
    ∧ (tEmitting (.line tFive) 9).ou.taken = 8 + ((tFive.planes.toList.take 1).map PlaneOut.words).sum + 1
    ∧ 5 ≤ ((({ tBase with ss := tBase.ss.setBuf 0 ⟨.referenced 1, [1, 2, 3, 4,
    5]⟩ } : Node)).ss.buf 0).bytes.length := by decide

/-! ## Service carrier and messages -/

/-- SI's bit timing of the small geometry: one tick a quantum, four to a bit, the sample after the third. -/
theorem test_timing : tCfg.tq = 1 ∧ tCfg.bitTicks = 4 ∧ tCfg.sampleTicks = 3 := by decide

theorem test_meets_ServiceTick :
    tBase.rstLow = false ∧ tBase.rh.settled = some tCfg ∧ (tFresh .base).si.state = .off ∧ tBase.si.state ≠ .off
    ∧ (tBit .idle 2 true).bitPos + 1 < tCfg.bitTicks ∧ (tBit .idle 2 true).bitPos + 1 = tCfg.sampleTicks
    ∧ tCfg.bitTicks ≤ (tBit .receiving 3 true).bitPos + 1 ∧ (tBit .idle 3 true).burst = 0
    ∧ 2 ≤ ({ tBit .recovering 3 true with burst := 2 } : Si).burst
    ∧ ({ tBit .recovering 3 true with burst := 1, burstWait := 1 } : Si).burstWait = 1
    ∧ (tOwn .probe).si.onCarrier = some ⟨.probe, 0x777, [], 0, [], false⟩
    ∧ (tBit .idle 1 true).awaitsStart = true ∧ ((tBit .idle 1 true).tx && false) = false
    ∧ (tBit .receiving 1 true).awaitsStart = false ∧ (tBit .receiving 1 true).tx = true
    ∧ ({ tBit .receiving 1 true with resynced := true } : Si).resynced = true
    ∧ (tBit .receiving 0 true).bitPos / tCfg.tq = 0 ∧ 1 ≤ ((tBit .receiving 0 true).bitPos + 1) / tCfg.tq
    ∧ ((tBit .receiving 0 true).bitPos + 1) / tCfg.tq < 1 + tCfg.prop + tCfg.pa
    ∧ 1 + tCfg.prop + tCfg.pa ≤ ((tBit .receiving 2 true).bitPos + 1) / tCfg.tq := by decide

/-- Edges in the wait after a message, and at the tick of a sample: SJW short of PB, and not. -/
theorem test_meets_ServiceTick_edges :
    (tBit .recovering 1 true).phase = .recovering ∧ (tBit .recovering 1 true).awaitsStart = false
    ∧ (tBit .recovering 1 true).tx = true ∧ (tBit .recovering 1 true).resynced = false
    ∧ (tBit .recovering 2 true).bitPos + 1 = tCfg.sampleTicks ∧ (tBit .recovering 1 true).bitPos + 1 ≠ tCfg.sampleTicks
    ∧ tCfg.pb ≤ tCfg.sjw ∧ min ({ tCfg with pb := 2 } : Settled).pb tCfg.sjw < ({ tCfg with pb := 2 } : Settled).pb
    ∧ (tBit .interspace 1 true).phase = .interspace
    ∧ ({ tBit .receiving 1 false with tx := false } : Si).tx = false := by decide

/-- 10 R151: an edge in the first quantum after the sync segment leaves the bit as it is; one a quantum later makes it
longer by one. -/
theorem test_resync :
    (Si.tick tCfg 0 false (tBit .receiving 0 true)).bitPos = 1
    ∧ (Si.tick tCfg 0 false (tBit .receiving 1 true)).bitPos = 1 := by
  decide

/-- 10 R151, R160: after an error too an edge moves the bit; and an edge that ends the bit at the very sample that finds
the error has the next bit begun, so that the burst begins with it. -/
theorem test_resync_error :
    (Si.tick tCfg 0 false (tBit .recovering 1 true)).bitPos = 1
    ∧ (Si.bitEnded tCfg { tBit .receiving 0 true with found := some (.error .symbol) }) = true
    ∧ (Si.afterError tCfg .symbol true { tBit .receiving 0 true with found := some (.error .symbol) }).tx = false
    ∧ (Si.afterError tCfg .symbol true { tBit .receiving 3 true with found := some (.error .symbol) }).tx = true := by
  decide

theorem test_meets_SampleFinds :
    (tBit .idle 3 true).phase = .idle ∧ (tBit .idle 3 true).level = true ∧ (tBit .idle 3 false).level = false
    ∧ ({ tBit .interspace 3 false with spaces := 2 } : Si).spaces = 2
    ∧ 2 ≤ ({ tBit .interspace 3 true with spaces := 2 } : Si).spaces ∧ (tBit .interspace 3 true).spaces < 2
    ∧ 9 ≤ ({ tBit .recovering 3 true with spaces := 9 } : Si).spaces ∧ tBase.si.state ≠ .integrating
    ∧ ({ tBit .recovering 3 true with state := .integrating } : Si).state = .integrating
    ∧ (tBit .receiving 3 true).onCarrier = none
    ∧ Reading.take true ⟨[false, true, true, true, true], 4, 0, false⟩ = .error .symbol
    ∧ Reading.take false Reading.empty = .ok ⟨[false], 1, 0, false⟩
    ∧ (Reading.empty.atKeyBit = false ∧ (⟨[false], 1, 0, false⟩ : Reading).atKeyBit = true)
    ∧ (⟨List.replicate 12 false, 1, 0, false⟩ : Reading).atKeyBit = true
    ∧ (⟨List.replicate 13 false, 1, 0, false⟩ : Reading).atKeyBit = false
    ∧ (⟨List.replicate 34 false, 1, 0, false⟩ : Reading).atSlot = true := by decide

theorem test_meets_SampleFinds_due :
    (tSi (fun i => { i with found := some .lost }) (tOwn .probe)).si.cleanOwn = true
    ∧ (tSi (fun i => { i with found := some .lost }) (tOwn .probe)).dueService = some .arbitrationLost
    ∧ tBase.si.canErr .symbol = true ∧ tBase.si.canReceive = true ∧ tBase.si.found = none
    ∧ (tSi (fun i => { i with onCarrier := some ⟨.probe, 0x777, [], 0, [],
    true⟩ }) tBase).dueService = some .messageFailed
    ∧ (tSi (fun i => { i with state := .integrating, spaces := 10 }) tBase).dueService = some .integrationEnd
    ∧ (tSi (fun i => { i with state := .silenced, recovery := 48 }) tBase).dueService = some .silencedRecovery
    ∧ tBase.si.state = .active ∧ tBase.si.guardWait ≠ some 0 ∧ tBase.dueService = none
    ∧ (tRh (fun r => { r with pending := { r.pending with listenOnly := some true } }) tBase).dueService
        = some .listenOnlyEffect := by decide

theorem test_meets_MessageStart :
    tBase.Works tCfg ∧ tBase.si.awaitsStart = true ∧ tBase.si.state = .active ∧ tBase.si.listenOnly = false
    ∧ (tSi (fun i => { i with phase := .interspace, spaces := 2 }) tBase).si.awaitsStart = true
    ∧ (tSi (fun i => { i with phase := .interspace, spaces := 2 }) tBase).isIdle = false
    ∧ (tSi (fun i => { i with phase := .interspace, spaces := 1 }) tBase).si.awaitsStart = false
    ∧ tBase.rh.pending.listenOnly = none ∧ tBase.choose tCfg = none
    ∧ (tSlot (.pending ⟨0x777, []⟩)).choose tCfg = some ⟨.slot 1, 0x777, []⟩ ∧ tCfg.order = .key
    ∧ ((tSlot (.pending ⟨0x777, []⟩)).mh.slot 1).state = .pending ⟨0x777, []⟩
    ∧ (tMh (fun m => { m with probe := some 2 }) tBase).choose tCfg = some ⟨.probe, nodesKey 2 2 3, []⟩ :=
  ⟨⟨rfl, rfl⟩, rfl, rfl, rfl, rfl, rfl, rfl, rfl, by decide, by decide, rfl, rfl, by decide⟩

/-- The edge of a start mark to join; and for each place something to offer, and nothing. -/
theorem test_meets_MessageStart_offers :
    (tSi (fun _ => { tBit .interspace 0 false with spaces := 2 }) tBase).Works tCfg
    ∧ (tSi (fun _ => { tBit .interspace 0 false with spaces := 2 }) tBase).si.awaitsStart = true
    ∧ tBase.si.bitPos = 0 ∧ tBase.si.phase = .idle
    ∧ tBase.mh.announce = false ∧ (tFollower 1).du.state.isSelf = false ∧ tBase.rh.lifecycle ≠ .running
    ∧ (tRh (fun r => { r with lifecycle := .running }) (tMh (fun m => { m with announce := true }) tBase)).mh.announce
        = true
    ∧ (tRh (fun r => { r with lifecycle := .running }) tBase).rh.lifecycle = .running ∧ tBase.du.state.isSelf = true
    ∧ tBase.tb.gen = some tGen ∧ tBase.mh.probe = none ∧ (tOwn .probe).mh.probe = some 2
    ∧ tBase.mh.replies = [] ∧ (tMh (fun m => { m with replies := [⟨5, 0⟩] }) tBase).mh.replies = ⟨5, 0⟩ :: []
    ∧ tBase.mh.controlReply = none
    ∧ (tMh (fun m => { m with controlReply := some ⟨5, [0]⟩ }) tBase).mh.controlReply = some ⟨5, [0]⟩
    ∧ slotOffers 0 tBase.mh.slots = []
    ∧ slotOffers 0 (tSlot (.pending ⟨0x777, [9]⟩)).mh.slots = [⟨.slot 1, 0x777, [9]⟩] :=
  ⟨⟨rfl, rfl⟩, rfl, rfl, rfl, rfl, rfl, by decide, rfl, rfl, rfl, rfl, rfl, rfl, rfl, rfl, rfl, rfl, by decide,
    by decide⟩

/-- SI not permitted to send, each way; a listen-only value that an idle carrier lets take effect; a choice among the
offers; and two slots with equal keys, of which the lower index is taken. -/
theorem test_meets_MessageStart_permits :
    (tSi (fun i => { i with listenOnly := true }) tBase).Works tCfg ∧ tBase.si.awaitsStart = true
    ∧ (tSi (fun i => { i with state := .silenced }) tBase).si.awaitsStart = true
    ∧ (tSi (fun i => { i with state := .guarded, guardWait := some 3 }) tBase).si.guardWait ≠ none
    ∧ (tSi (fun i => { i with state := .guarded, guardWait := some 3 }) tBase).si.awaitsStart = true
    ∧ tBase.isIdle = true
    ∧ (tRh (fun r => { r with pending := { r.pending with listenOnly := some false } }) tBase).rh.pending.listenOnly
        = some false
    ∧ (∃ x, x ∈ (tSlot (.pending ⟨0x777, []⟩)).announceOffer ++ (tSlot (.pending ⟨0x777, []⟩)).probeOffer
        ++ (tSlot (.pending ⟨0x777, []⟩)).replyOffer ++ (tSlot (.pending ⟨0x777, []⟩)).controlOffer
        ++ slotOffers 0 (tSlot (.pending ⟨0x777, []⟩)).mh.slots)
    ∧ mailCandidate .key [⟨.transmit 0x700, .pending ⟨0x701, []⟩⟩, ⟨.transmit 0x700, .pending ⟨0x700, [1]⟩⟩,
        ⟨.transmit 0x700, .pending ⟨0x700, [2]⟩⟩] = some ⟨.slot 1, 0x700, [1]⟩
    ∧ mailCandidate .index [⟨.transmit 0x700, .idle⟩, ⟨.transmit 0x700, .pending ⟨0x701, []⟩⟩,
        ⟨.transmit 0x700, .pending ⟨0x700, [1]⟩⟩] = some ⟨.slot 1, 0x701, []⟩ :=
  ⟨⟨rfl, rfl⟩, rfl, rfl, by decide, rfl, rfl, rfl, ⟨⟨.slot 1, 0x777, []⟩, by decide⟩, by decide, by decide⟩

theorem test_meets_OwnMessageEnds (p : Place) :
    (tOwn p).Works tCfg ∧ (tOwn p).si.onCarrier = some ⟨p, 0x777, [], 0, [], false⟩
    ∧ (tSi (fun i => { i with onCarrier := some ⟨p, 0x777, [], 0, [], true⟩ }) (tOwn p)).si.onCarrier
        = some ⟨p, 0x777, [], 0, [], true⟩
    ∧ ((tOwn p).mh.slot 1).state = .sending ⟨0x777, []⟩ ∧ (tOwn p).mh.probe = some 2 :=
  ⟨⟨rfl, rfl⟩, rfl, rfl, rfl, rfl⟩

/-- A node GUARDED and one not, counts that keep it so and that free it, and an ANNOUNCE of a node that follows now. -/
theorem test_meets_OwnMessageEnds_states :
    (tSi (fun i => { i with state := .guarded, tec := 96 }) (tOwn .probe)).Works tCfg
    ∧ (tSi (fun i => { i with state := .guarded, tec := 97 }) (tOwn .probe)).si.state = .guarded
    ∧ (tOwn .probe).si.state = .active
    ∧ (tSi (fun i => { i with state := .silenced }) (tOwn .probe)).si.state ≠ .guarded
    ∧ (tMh (fun m => { m with announce := true }) (tFollower 1)).mh.announce = true
    ∧ (tMh (fun m => { m with announce := true }) (tFollower 1)).du.state.isSelf = false :=
  ⟨⟨rfl, rfl⟩, rfl, rfl, by decide, rfl, rfl⟩

theorem test_meets_ServiceError :
    tBase.Works tCfg ∧ tBase.si.canErr .symbol = true ∧ tBase.si.canErr .check = true
    ∧ (tOwn .probe).Works tCfg ∧ (tOwn .probe).si.canErr .echo = true ∧ (tOwn .probe).si.canErr .symbol = true
    ∧ (tOwn .probe).si.canErr .noAck = true
    ∧ (tSi (fun i => { i with state := .silenced }) tBase).si.canErr .check = true :=
  ⟨⟨rfl, rfl⟩, rfl, rfl, ⟨rfl, rfl⟩, rfl, rfl, rfl, rfl⟩

/-- An error that a sample found: the bit still running, and ended by an edge at the tick of the sample. -/
theorem test_meets_ServiceError_found :
    (tSi (fun _ => { tBit .receiving 3 true with found := some (.error .symbol) }) tBase).Works tCfg
    ∧ (tSi (fun _ => { tBit .receiving 3 true with found := some (.error .symbol) }) tBase).si.canErr .symbol = true
    ∧ Si.bitEnded tCfg { tBit .receiving 3 true with found := some (.error .symbol) } = false
    ∧ Si.bitEnded tCfg { tBit .receiving 0 true with found := some (.error .symbol) } = true
    ∧ tBase.si.bitEnded tCfg = false ∧ tBase.si.burst = 0 ∧ tBase.si.found = none :=
  ⟨⟨rfl, rfl⟩, rfl, by decide, by decide, by decide, rfl, rfl⟩

theorem test_meets_CarrierWaits :
    tBase.rstLow = false ∧ (tSi (fun i => { i with guardWait := some 0 }) tBase).si.guardWait = some 0
    ∧ (tSi (fun i => { i with state := .silenced, recovery := 48 }) tBase).si.state = .silenced
    ∧ 48 ≤ (tSi (fun i => { i with state := .silenced, recovery := 48 }) tBase).si.recovery
    ∧ ((tFresh .base).acceptSettle tCfg).si.state = .integrating
    ∧ 10 ≤ (tSi (fun i => { i with state := .integrating, spaces := 10 }) tBase).si.spaces ∧ tBase.isIdle = true
    ∧ (tRh (fun r => { r with pending := { r.pending with listenOnly := some true } }) tBase).rh.pending.listenOnly
        = some true :=
  ⟨rfl, rfl, rfl, by decide, rfl, by decide, rfl, rfl⟩

theorem test_meets_DelayProbeReceived :
    tBase.Receives tCfg ∧ isGood 2 (nodesKey 2 3 5) [] = true ∧ Key.first (nodesKey 2 3 5) = tBase.rh.straps.node
    ∧ isGood 2 (nodesKey 2 4 5) [] = true ∧ Key.first (nodesKey 2 4 5) ≠ tBase.rh.straps.node
    ∧ (tSi (fun i => { i with listenOnly := true }) tBase).Receives tCfg
    ∧ (tSi (fun i => { i with state := .silenced }) tBase).Receives tCfg
    ∧ 4 ≤ (tMh (fun m => { m with replies := List.replicate 4 ⟨5, 0⟩ }) tBase).mh.replies.length
    ∧ (tMh (fun m => { m with replies := List.replicate 3 ⟨5, 0⟩ }) tBase).mh.replies = ⟨5, 0⟩ :: [⟨5, 0⟩, ⟨5, 0⟩]
    ∧ tBase.si.listenOnly = false ∧ tBase.si.state ≠ .silenced ∧ tBase.si.tec < 192 :=
  ⟨⟨⟨rfl, rfl⟩, rfl⟩, by decide, by decide, by decide, by decide, ⟨⟨rfl, rfl⟩, rfl⟩, ⟨⟨rfl, rfl⟩, rfl⟩, by decide,
    rfl, rfl,
    by decide, by decide⟩

theorem test_meets_ControlReceived :
    tBase.Receives tCfg ∧ isGood 4 (nodesKey 4 3 5) [7] = true ∧ isGood 4 (nodesKey 4 15 5) [1] = true
    ∧ isGood 4 (nodesKey 4 4 5) [7] = true ∧ Key.first (nodesKey 4 15 5) = 15
    ∧ Key.first (nodesKey 4 4 5) ≠ tBase.rh.straps.node ∧ Key.first (nodesKey 4 4 5) ≠ 15
    ∧ tBase.mh.controlReply = none
    ∧ (tMh (fun m => { m with controlReply := some ⟨5, []⟩ }) tBase).mh.controlReply ≠ none
    ∧ (tOwn .controlReply).si.state.isOn = true ∧ (tOwn .controlReply).rstLow = false
    ∧ (∃ n r, (n, r) = (tBase.received tCfg (nodesKey 4 3 5) [7] true).softResetRequest [] ∧ n.si.listenOnly = false)
    ∧ (∃ n r, (n, r) = (tBase.received tCfg (nodesKey 4 3 5) [7] true).adjust [1, 1] ∧ n.si.listenOnly = false)
    ∧ (∃ n r, (n, r) = (tBase.received tCfg (nodesKey 4 3 5) [7] true).remoteStatus [1, 0] ∧ n.si.listenOnly = false) :=
  ⟨⟨⟨rfl, rfl⟩, rfl⟩, by decide, by decide, by decide, by decide, by decide, by decide, rfl, by decide, rfl, rfl,
    ⟨_, _, Prod.eta _, by decide +kernel⟩, ⟨_, _, Prod.eta _, by decide +kernel⟩, ⟨_, _, Prod.eta _, by decide +kernel⟩⟩

/-- A base strapped as 15, listen-only for good. -/
def tFifteen : Node :=
  tSi (fun i => { i with listenOnly := true }) (tRh (fun r => { r with straps := { r.straps with node := 15 } }) tBase)

/-- The listen-only branch: a SOFT_RESET of a node strapped as 15, and an ADJUST of a node that is listen-only. -/
theorem test_meets_ControlReceived_listenOnly :
    tFifteen.Receives tCfg ∧ isGood 4 (nodesKey 4 15 5) [7] = true ∧ Key.first (nodesKey 4 15 5) = 15
    ∧ tFifteen.mh.controlReply = none
    ∧ (∃ n r, (n, r) = (tFifteen.received tCfg (nodesKey 4 15 5) [7] true).softResetRequest []
        ∧ n.si.listenOnly = true)
    ∧ (tSi (fun i => { i with listenOnly := true }) tBase).Receives tCfg
    ∧ (∃ n r, (n, r) = ((tSi (fun i => { i with listenOnly := true }) tBase).received tCfg (nodesKey 4 3 5) [2, 1, 1]
        true).adjust [1, 1] ∧ n.si.listenOnly = true) :=
  ⟨⟨⟨rfl, rfl⟩, rfl⟩, by decide, by decide, rfl, ⟨_, _, Prod.eta _, by decide +kernel⟩, ⟨⟨rfl, rfl⟩, rfl⟩,
    ⟨_, _, Prod.eta _, by decide +kernel⟩⟩

/-- The lanes section with its clear flag, and the clauses on a remote STATUS: a wrong length, each refusal, each end of
the section numbers. -/
theorem test_meets_ControlReceived_status :
    tBase.Hears 0x5C [3, 1] ∧ ([3] : List Byte).length ≠ 2 ∧ 6 < (7 : Byte).toNat
    ∧ (tFresh .base).rh.lifecycle = .unsettled ∧ tBase.rh.lifecycle ≠ .unsettled
    ∧ (tBase.remoteStatus [3]).2 = ⟨.badLength, []⟩ ∧ (tBase.remoteStatus [0, 0]).2 = ⟨.refusedRange, []⟩
    ∧ (tBase.remoteStatus [7, 0]).2 = ⟨.refusedRange, []⟩
    ∧ ((tFresh .base).remoteStatus [2, 0]).2 = ⟨.refusedState, []⟩
    ∧ ((tFresh .base).remoteStatus [1, 0]).2.code = .done ∧ (tBase.remoteStatus [6, 1]).2.code = .done
    ∧ ((tFree 5 tBase).remoteStatus [3, 1]).1.ss.lowWater = 5 :=
  ⟨test_hears_base _ (by decide), by decide, by decide, rfl, by decide, by decide +kernel, by decide +kernel,
    by decide +kernel, by decide +kernel, by decide +kernel, by decide +kernel, by decide +kernel⟩

theorem test_meets_OtherMessagesReceived :
    tBase.Receives tCfg ∧ isGood 5 (nodesKey 5 3 2) [0] = true ∧ Sys2Proof.Key.kind 0x0FF = 0
    ∧ Sys2Proof.Key.kind 0x5FF = 5 ∧ goodForm 0x5FF [] = false ∧ Sys2Proof.Key.kind 0x100 = 1
    ∧ goodForm 0x100 [] = false
    ∧ 6 ≤ Sys2Proof.Key.kind 0x9AB ∧ tBase.mh.slots.length = 12 ∧ (tBase.mh.slot 0).defn.accepts 0x9AB = true
    ∧ (tBase.mh.slot 0).state = .empty ∧ ((tReceive (.full ⟨0x900, [], 0⟩)).mh.slot 0).state ≠ .empty
    ∧ (tReceive (.full ⟨0x900, [], 0⟩)).Receives tCfg
    ∧ (∀ j, j < 12 → (tBase.mh.slot j).defn.accepts 0x600 = false)
    ∧ (∀ j, j < 11 → (tBase.mh.slot (j + 1)).defn.accepts 0x9AB = false) :=
  ⟨⟨⟨rfl, rfl⟩, rfl⟩, by decide, by decide, by decide, by decide, by decide, by decide, by decide, rfl, by decide, rfl,
    by decide, ⟨⟨rfl, rfl⟩, rfl⟩, by decide, by decide⟩

/-! ## Formats and invariants -/

theorem test_meets_RoundTrips :
    (List.replicate 16 (0 : Byte)).length ≤ 16
    ∧ (⟨3, 255, 65535, 65535, some ⟨0x7F, 0xFF, 0xFF, 0xFF, true⟩⟩ : SegHeader).bytes.length = 16
    ∧ (0x7F : Byte).toNat < 128
    ∧ SegHeader.ofBytes (⟨3, 255, 65535, 65535, some ⟨0x7F, 0xFF, 0xFF, 0xFF, true⟩⟩ : SegHeader).bytes
        = ⟨3, 255, 65535, 65535, some ⟨0x7F, 0xFF, 0xFF, 0xFF, true⟩⟩ := by decide

theorem test_meets_StepKeepsBounds : tBase.Bounded ∧ ∃ t, step (at_ tBase) = .next t :=
  ⟨{ tb := ⟨by decide, by decide, by decide⟩
     du := ⟨by decide, by decide, by decide, by decide, by decide⟩
     se := ⟨by decide, by decide, fun _ => rfl, fun _ => rfl, fun _ => rfl, fun _ h => by cases h⟩
     si := ⟨by decide, by decide⟩
     mh := ⟨by decide, by decide⟩
     store := by decide, launches := by decide, places := by decide, active := by decide
     holder := fun _ h => by cases h
     settled := fun c h => by cases h; exact ⟨by decide, by decide⟩ }, _, rfl⟩

theorem test_meets_StepKeepsRoles : tBase.RoleFit ∧ ∃ t, step (at_ tBase) = .next t :=
  ⟨{ unsettledLife := fun h => by cases h
     unsettledGen := fun h => by cases h
     unsettledSi := fun h => by cases h
     settledLife := fun _ _ => by decide
     settledGen := fun _ _ => rfl
     settledSi := fun _ _ => by decide
     restTec := fun _ => rfl
     workTec := fun _ => by decide
     idleEngine := fun _ => rfl
     darkLanes := fun h => by cases h
     emptyPort := fun h => by cases h
     quietUplink := fun _ => ⟨rfl, rfl, rfl⟩ }, _, rfl⟩

/-- The accounts of a store of 48 buffers, where no number from 48 on is named. -/
theorem test_accounts (n : Node) (hl : n.ss.bufs.length = 48) (beyond : ∀ b, 48 ≤ b → refCount n.se n.ou b = 0)
    (within : ∀ b : Fin 48, refCount n.se n.ou b = (n.ss.buf b).state.count
      ∧ ((n.ss.buf b).isReferenced = true → 0 < (n.ss.buf b).state.count)) :
    (∀ b, refCount n.se n.ou b = (n.ss.buf b).state.count)
    ∧ ∀ b k, (n.ss.buf b).state = .referenced k → 0 < k := by
  have out (b : Nat) (h : ¬ b < 48) : n.ss.buf b = Buf.free := Ss.buf_of_le (by omega)
  refine ⟨fun b => ?_, fun b k hk => ?_⟩
  · by_cases h : b < 48
    · exact (within ⟨b, h⟩).1
    · rw [out b h, beyond b (by omega)]; rfl
  · by_cases h : b < 48
    · have := (within ⟨b, h⟩).2
      simpa [Buf.isReferenced, hk, BufState.count] using this
    · rw [out b h] at hk; cases hk

theorem test_meets_StepKeepsStore : tBase.StoreExact ∧ ∃ t, step (at_ tBase) = .next t := by
  have free (b : Nat) : tBase.ss.buf b = Buf.free := by
    have h : tBase.ss.bufs = List.replicate 48 Buf.free := rfl
    rw [Ss.buf, h, List.getD_eq_getElem?_getD, List.getElem?_replicate]
    split <;> rfl
  exact ⟨{ counts := fun b => by rw [free]; rfl
           positive := fun b k h => by rw [free] at h; cases h
           lanes := fun p b h => by fin_cases p <;> cases h
           line := fun b h => by cases h
           queued := fun g h => (List.not_mem_nil h).elim
           distinct := List.nodup_nil }, _, rfl⟩

/-- A store with a buffer being filled and one queued. -/
theorem test_meets_StepKeepsStore_queued :
    tStored.StoreExact ∧ tStored.lu.line = .filling 0 ∧ tSeg 1 ∈ tStored.lu.queue :=
  have h := test_accounts tStored rfl (fun _ _ => rfl) (by decide +kernel)
  ⟨{ counts := h.1, positive := h.2
     lanes := fun p b h => by fin_cases p <;> cases h
     line := fun b h => by cases h; decide +kernel
     queued := fun g h => by rcases List.mem_singleton.1 h with rfl; decide +kernel
     distinct := by decide }, rfl, List.mem_singleton.2 rfl⟩

/-- A store with a buffer a lane fills and one that a record names. -/
theorem test_meets_StepKeepsStore_named :
    tNamed.StoreExact ∧ (tNamed.lane 1).seg.buffer = some 2 ∧ 0 < refCount tNamed.se tNamed.ou 0 :=
  have h := test_accounts tNamed rfl
    (fun b hb => by
      have h : refCount tNamed.se tNamed.ou b
          = List.countP (namesContrib b) [some ⟨0, 1⟩, none, none, none] := rfl
      have h0 : 0 ≠ b := by omega
      simp [h, namesContrib, h0]) (by decide +kernel)
  ⟨{ counts := h.1, positive := h.2
     lanes := fun p b h => by
       fin_cases p
       · cases h
       · cases h; decide +kernel
       · cases h
       · cases h
     line := fun b h => by cases h
     queued := fun g h => (List.not_mem_nil h).elim
     distinct := List.nodup_nil }, rfl, by decide +kernel⟩

end Sys2Proof.Tests
end

section
/-! SUPPORT. Event counters (R2): one event counted, which counters a STATUS with its clear flag set returns to 0, and
what a soft reset and a power-on reset leave of them. -/

namespace Sys2Proof.Machine

/-! ## One event (R2) -/

/-- A counter adds 1 below 65,535 and holds that value. -/
theorem Counter.toNat_bump (c : Counter) : (Counter.bump c).toNat = min 65535 (c.toNat + 1) := by
  unfold Counter.bump
  split
  · next hfull => subst hfull; rfl
  · next hroom =>
    have hbelow : c.toNat ≠ 65535 := fun h => hroom (BitVec.eq_of_toNat_eq h)
    have hwidth : c.toNat < 65536 := c.isLt
    have hadd : (c + 1).toNat = (c.toNat + 1) % 65536 := BitVec.toNat_add c 1
    omega

/-! ## What no event counter depends on -/

@[simp] theorem Node.counters_setMailbox (k : Nat) (m : Mailbox) (n : Node) :
    (n.setMailbox m).counters k = n.counters k := rfl

@[simp] theorem Node.counters_seePins (k : Nat) (cp : PlaneSet) (pready : Bool) (n : Node) :
    (n.seePins cp pready).counters k = n.counters k := rfl

@[simp] theorem Node.allCounters_setMailbox (m : Mailbox) (n : Node) :
    (n.setMailbox m).allCounters = n.allCounters := rfl

/-! ## A section cleared (R193) -/

/-- Every counter of the section cleared is 0; the lanes section holds LU's counters at a head, the lanes' at a base. -/
theorem Node.clearSection_counters_self (k : Nat) (n : Node) : ∀ x ∈ (n.clearSection k).counters k, x = 0 := by
  refine List.eq_replicate_length.1 ?_
  unfold Node.clearSection Node.counters
  split
  case h_2 => cases hrole : n.rh.straps.role <;> simp only [hrole] <;> rfl
  all_goals rfl

/-- No counter of another section changes: every section's counters are fields of their own. -/
theorem Node.clearSection_counters_of_ne {j k : Nat} (h : j ≠ k) (n : Node) :
    (n.clearSection k).counters j = n.counters j := by
  unfold Node.clearSection
  split
  case h_2 =>
    dsimp only
    split
    all_goals unfold Node.counters; split
    any_goals contradiction
    all_goals rfl
  all_goals unfold Node.counters; split
  any_goals contradiction
  all_goals rfl

/-! ## STATUS -/

/-- The section number of a STATUS body (R201). -/
theorem field_head_byte (k : Byte) (rest : List Byte) : field (k :: rest) 0 1 = k.toNat := by
  simp [field, beNat]

/-- The clear flag of a STATUS body (R201). -/
theorem field_second_byte (k flag : Byte) (rest : List Byte) : field (k :: flag :: rest) 1 1 = flag.toNat := by
  simp [field, beNat]

/-- The result of a STATUS of sections 1 to 6 after the first accepted SETTLE. -/
theorem Node.statusResult_done {n : Node} {k : Byte} (flag : Byte) (hlife : n.rh.lifecycle ≠ .unsettled)
    (hlow : 1 ≤ k.toNat) (hhigh : k.toNat ≤ 6) : n.statusResult [k, flag] = .done := by
  have hpos : k.toNat ≠ 0 := Nat.one_le_iff_ne_zero.1 hlow
  simp [Node.statusResult, field_head_byte, hlife, hpos, hhigh]

/-- A STATUS with its clear flag set samples the pins and clears its section. -/
theorem Node.status_clearing {n : Node} {k flag : Byte} (hlife : n.rh.lifecycle ≠ .unsettled) (hlow : 1 ≤ k.toNat)
    (hhigh : k.toNat ≤ 6) (hflag : flag ≠ 0) (cp : PlaneSet) (pready : Bool) :
    (n.status [k, flag] cp pready).1 = (n.seePins cp pready).clearSection k.toNat := by
  have hset : flag.toNat ≠ 0 := fun h => hflag (BitVec.eq_of_toNat_eq h)
  simp [Node.status, Node.statusResult_done flag hlife hlow hhigh, Node.statusClear, field_head_byte,
    field_second_byte, hset]

/-- STATUS, heard with its clear flag set, gives the section's counters as 0 and the others as they were. -/
theorem status_clears_section {s : State} {addr : BitVec 7} {k flag : Byte} (hrst : s.node.rstLow = false)
    (hlife : s.node.rh.lifecycle ≠ .unsettled) (hears : s.node.Hears addr [k, flag]) (hlow : 1 ≤ k.toNat)
    (hhigh : k.toNat ≤ 6) (hflag : flag ≠ 0) (cp : PlaneSet) (pready : Bool) :
    Yields (.status addr ⟨[k, flag], cp, pready⟩) s fun t =>
      (∀ x ∈ t.counters k.toNat, x = 0) ∧ ∀ j, j ≠ k.toNat → t.counters j = s.node.counters j := by
  refine Yields.of_next rfl ?_
  rw [Node.awake_of_high hrst, Node.request_of_hears hears,
    Node.status_clearing (n := s.node.setMailbox .taking) hlife hlow hhigh hflag]
  constructor
  · rw [Node.counters_setMailbox]
    exact Node.clearSection_counters_self _ _
  · intro j hj
    simp only [Node.counters_setMailbox, Node.clearSection_counters_of_ne hj, Node.counters_seePins]

/-! ## Resets -/

/-- After a power-on reset every counter is 0, in either role. -/
theorem Node.powerOn_allCounters (straps : Straps) (pins : Pins) (freeIdx : Nat) :
    ∀ x ∈ (Node.powerOn straps pins freeIdx).allCounters, x = 0 := by
  obtain ⟨role, plane, node, adr⟩ := straps
  cases role
  case head => exact List.eq_replicate_length.1 rfl
  case base => exact List.eq_replicate_length.1 rfl

/-- A soft reset leaves the event counters that a power-on reset leaves. -/
theorem Node.softReset_allCounters (c : Settled) (n : Node) :
    (n.softReset c).allCounters = (Node.powerOn n.rh.straps n.pins n.freeIdx).allCounters := rfl

/-- SOFT_RESET with an empty body, at a settled node, is a soft reset. -/
theorem Node.softResetRequest_of_settled {n : Node} {c : Settled} (h : n.rh.settled = some c) :
    n.softResetRequest [] = (n.softReset c, .plain .done) := by
  simp [Node.softResetRequest, h]

/-- SOFT_RESET, heard at a settled node, leaves every counter 0. -/
theorem softReset_clears_counters {s : State} {c : Settled} {addr : BitVec 7} (hworks : s.node.Works c)
    (hears : s.node.Hears addr []) : Yields (.softReset addr []) s fun t => ∀ x ∈ t.allCounters, x = 0 := by
  obtain ⟨hrst, hset⟩ := hworks
  refine Yields.of_next rfl ?_
  rw [Node.awake_of_high hrst, Node.request_of_hears hears,
    Node.softResetRequest_of_settled (n := s.node.setMailbox .taking) hset, Node.allCounters_setMailbox,
    Node.softReset_allCounters]
  exact Node.powerOn_allCounters _ _ _

/-! ## The statement -/

/-- Settles O9: R2's counter, STATUS with clearing section by section, and the two resets. -/
theorem countersSaturateAndClear : Obligations.CountersSaturateAndClear := by
  refine ⟨Counter.toNat_bump, ?status, ?soft, ?power⟩
  case status =>
    rintro s c addr k flag cp pready ⟨hrst, -⟩ hlife hears hlow hhigh hflag
    exact status_clears_section hrst hlife hears hlow hhigh hflag cp pready
  case soft => exact fun s c addr hworks hears => softReset_clears_counters hworks hears
  case power =>
    exact fun role plane node adr s => Yields.of_next rfl (Node.powerOn_allCounters _ _ _)

end Sys2Proof.Machine
end

section
/-! SUPPORT. What a received message leaves to the unit that takes it, and what a selection may change (R34 to R42). -/

namespace Sys2Proof.Machine

/-! ## SI's part of a received message -/

/-- Counting the spaces of a message is the work of the bit clock. -/
theorem Si.countSpaces_frame (key : Key) (payload : List Byte) (marked : Bool) (si : Si) :
    ClockFrame si (si.countSpaces key payload marked) := by
  have fold : ∀ (l : List Bool) (si : Si), ClockFrame si (l.foldl (fun si b => si.recoveryBit b) si) := by
    intro l
    induction l with
    | nil => exact ClockFrame.refl
    | cons b l ih => exact fun si => (si.recoveryBit_frame b).trans (ih _)
  unfold Si.countSpaces
  split
  · exact ClockFrame.refl si
  · exact fold _ si

/-- The state following the counts leaves the message on the carrier. -/
@[simp] theorem Node.followCounts_onCarrier (n : Node) : n.followCounts.si.onCarrier = n.si.onCarrier := by
  unfold Node.followCounts
  split <;> simp [Si.moveTo]

/-- The state following the counts counts no message. -/
@[simp] theorem Node.followCounts_receivedOk (n : Node) : n.followCounts.si.receivedOk = n.si.receivedOk := by
  unfold Node.followCounts
  split <;> simp [Si.moveTo]

section
variable (c : Settled) (key : Key) (payload : List Byte) (marked : Bool) (n : Node)

@[simp] theorem Node.received_tb : (n.received c key payload marked).tb = n.tb := by
  rw [Node.received_frame]

@[simp] theorem Node.received_du : (n.received c key payload marked).du = n.du := by
  rw [Node.received_frame]

@[simp] theorem Node.received_straps : (n.received c key payload marked).rh.straps = n.rh.straps := by
  rw [Node.received_frame]

@[simp] theorem Node.received_runtime : (n.received c key payload marked).rh.runtime = n.rh.runtime := by
  rw [Node.received_frame]

@[simp] theorem Node.received_onCarrier : (n.received c key payload marked).si.onCarrier = n.si.onCarrier :=
  (Node.followCounts_onCarrier _).trans (n.si.countSpaces_frame key payload marked).onCarrier

/-- SI counts the message. -/
@[simp] theorem Node.received_receivedOk :
    (n.received c key payload marked).si.receivedOk = Counter.bump n.si.receivedOk := by
  have hcount : (n.si.countSpaces key payload marked).receivedOk = n.si.receivedOk := by
    rw [(n.si.countSpaces_frame key payload marked).frame]
  exact (Node.followCounts_receivedOk _).trans (congrArg Counter.bump hcount)

end

/-- A node that can receive has no message of its own on the carrier. -/
theorem Node.Receives.onCarrier {c : Settled} {n : Node} (h : n.Receives c) : n.si.onCarrier = none := by
  have hcan := h.2
  simp only [Si.canReceive, Bool.and_eq_true, Option.isNone_iff_eq_none] at hcan
  exact hcan.1.2

/-! ## What a selection may change -/

/-- The pending ANNOUNCE of a node with nothing on the carrier has not started. -/
theorem Node.withdrawAnnounce_of_none {n : Node} (h : n.si.onCarrier = none) :
    n.withdrawAnnounce = { n with mh := { n.mh with announce := false } } := by
  simp [Node.withdrawAnnounce, Node.started, h]

theorem Du.follows_iff {d : Du} {source : BitVec 4} :
    d.follows source = true ↔ d.state.isSelf = false ∧ d.source = source := by
  simp [Du.follows]

/-- What a change of state or source and a selection may change: Q and a pending adoption, DU's own view of its source,
the pending places of MH, and the notices. A delay estimate does not become valid by it. -/
structure SelectFrame (n t : Node) : Prop where
  frame : t = { n with
    tb := { n.tb with q := t.tb.q, adoption := t.tb.adoption }, du := t.du
    mh := { n.mh with announce := t.mh.announce, probe := t.mh.probe }
    rh := { n.rh with notices := t.rh.notices } }
  du : t.du = { n.du with
    state := t.du.state, source := t.du.source, cls := t.du.cls, srcCls := t.du.srcCls, dValid := t.du.dValid
    probe := t.du.probe, countdown := t.du.countdown, lock := t.du.lock, tracking := t.du.tracking
    credit := t.du.credit }
  invalid : n.du.dValid = false → t.du.dValid = false

namespace SelectFrame

variable {a b t : Node}

theorem refl (n : Node) : SelectFrame n n := ⟨rfl, rfl, id⟩

theorem trans (h1 : SelectFrame a b) (h2 : SelectFrame b t) : SelectFrame a t :=
  ⟨by rw [h2.frame, h1.frame], by rw [h2.du, h1.du], fun h => h2.invalid (h1.invalid h)⟩

theorem cands (h : SelectFrame a t) : t.du.cands = a.du.cands := by rw [h.du]

theorem announceIgnored (h : SelectFrame a t) : t.du.announceIgnored = a.du.announceIgnored := by rw [h.du]

theorem si (h : SelectFrame a t) : t.si = a.si := by rw [h.frame]

theorem straps (h : SelectFrame a t) : t.rh.straps = a.rh.straps := by rw [h.frame]

end SelectFrame

theorem Node.raiseIf_selectFrame (n : Node) (p : Bool) (src : Source) : SelectFrame n (n.raiseIf p src) := by
  cases p <;> exact ⟨rfl, rfl, id⟩

theorem Node.withdrawAnnounce_selectFrame (n : Node) : SelectFrame n n.withdrawAnnounce := by
  unfold Node.withdrawAnnounce
  split <;> exact ⟨rfl, rfl, id⟩

theorem Node.emptyProbe_selectFrame (n : Node) : SelectFrame n n.emptyProbe := by
  unfold Node.emptyProbe
  split <;> exact ⟨rfl, rfl, id⟩

theorem Node.leavePlaces_selectFrame (d : Du) (state : TbState) (source : BitVec 4) (n : Node) :
    SelectFrame n (n.leavePlaces d state source) := by
  have hleave : SelectFrame n (if d.state.isSelf && !state.isSelf then n.withdrawAnnounce else n) := by
    split
    · exact n.withdrawAnnounce_selectFrame
    · exact SelectFrame.refl n
  unfold Node.leavePlaces
  dsimp only
  split
  · exact hleave
  · exact hleave.trans (Node.emptyProbe_selectFrame _)

/-- DU's own part of a change makes no delay estimate valid. -/
theorem Du.enter_invalid {d : Du} (h : d.dValid = false) (k : Nat) (state : TbState) (source : BitVec 4) :
    (d.enter k state source).dValid = false := by
  simp [Du.enter, h]

theorem Node.enter_selectFrame (c : Settled) (state : TbState) (source : BitVec 4) (n : Node) :
    SelectFrame n (n.enter c state source) := by
  have hblocks : SelectFrame n { n with du := n.du.enter c.h state source, tb := n.tb.enter n.du state } :=
    ⟨rfl, rfl, fun h => Du.enter_invalid h c.h state source⟩
  unfold Node.enter
  dsimp only
  split
  · exact SelectFrame.refl n
  · exact ((hblocks.trans (Node.raiseIf_selectFrame _ _ _)).trans (Node.raiseIf_selectFrame _ _ _)).trans
      (Node.leavePlaces_selectFrame _ _ _ _)

theorem Node.choosePeer_selectFrame (c : Settled) (k : Cand) (n : Node) : SelectFrame n (n.choosePeer c k) := by
  unfold Node.choosePeer
  split
  · exact SelectFrame.refl n
  · refine ((n.enter_selectFrame c .followAcq k.node).trans ?_).trans (Node.emptyProbe_selectFrame _)
    exact ⟨rfl, rfl, fun _ => rfl⟩

theorem Node.select_selectFrame (c : Settled) (n : Node) : SelectFrame n (n.select c) := by
  have hrecompute : ∀ m : Node, SelectFrame m { m with du := m.du.recompute } := fun m => ⟨rfl, rfl, id⟩
  have hself : SelectFrame n (n.chooseSelf c) := n.enter_selectFrame c _ _
  unfold Node.select
  dsimp only
  refine SelectFrame.trans ?_ (hrecompute _)
  split
  · exact hself
  · split
    · exact n.choosePeer_selectFrame c _
    · exact hself

theorem Node.refreshClass_selectFrame (c : Settled) (n : Node) : SelectFrame n (n.refreshClass c) := by
  unfold Node.refreshClass
  split
  · exact SelectFrame.refl n
  · exact n.select_selectFrame c

end Sys2Proof.Machine
end

section
/-! SUPPORT. ANNOUNCE_RECEIVED (R36): the candidate table, the source class, the selection, the withdrawal of the own
ANNOUNCE, and the measurement of a follower (R53, R54, R59). -/

namespace Sys2Proof.Machine

/-! ## The worst candidate -/

/-- Of two candidates one is the worse. -/
theorem worseCand_cases (b : Option Cand) (k : Cand) : worseCand b k = some k ∨ worseCand b k = b := by
  cases b with
  | none => exact Or.inl rfl
  | some x => exact ite_eq_or_eq (x.rank < k.rank) (some k) (some x)

/-- The worst of a list and a candidate before it is one of them. -/
theorem foldl_worseCand_mem {l : List Cand} {b : Option Cand} {w : Cand} (h : l.foldl worseCand b = some w) :
    w ∈ l ∨ b = some w := by
  induction l generalizing b with
  | nil => exact Or.inr h
  | cons x xs ih =>
    rcases ih h with hin | hb
    · exact Or.inl (List.mem_cons_of_mem x hin)
    · rcases worseCand_cases b x with hx | hkeep
      · exact Or.inl (Option.some.inj (hx.symm.trans hb) ▸ List.mem_cons_self)
      · exact Or.inr (hkeep.symm.trans hb)

/-- The worst candidate is in the table. -/
theorem worstCand_mem {l : List Cand} {w : Cand} (h : worstCand l = some w) : w ∈ l :=
  (foldl_worseCand_mem h).resolve_right nofun

/-- A candidate ranked behind all others is the one a fold from the table's beginning finds. -/
theorem foldl_worseCand_eq {l : List Cand} {b : Option Cand} {w : Cand} (hin : w ∈ l ∨ b = some w)
    (hl : ∀ k ∈ l, k ≠ w → k.rank < w.rank) (hb : ∀ k, b = some k → k ≠ w → k.rank < w.rank) :
    l.foldl worseCand b = some w := by
  induction l generalizing b with
  | nil => simpa using hin
  | cons x xs ih =>
    refine ih ?_ (fun k hk => hl k (List.mem_cons_of_mem x hk)) ?_
    all_goals
      have hx := hl x List.mem_cons_self
      unfold worseCand
      grind

/-- A candidate of the table ranked behind all others is the worst. -/
theorem worstCand_eq {l : List Cand} {w : Cand} (hin : w ∈ l) (hw : ∀ k ∈ l, k ≠ w → k.rank < w.rank) :
    worstCand l = some w :=
  foldl_worseCand_eq (Or.inl hin) hw nofun

/-! ## The table after an ANNOUNCE (R36) -/

/-- The table with the entry of this node refreshed. -/
def refreshed (node : BitVec 4) (cls : Nat) (l : List Cand) : List Cand :=
  l.map fun k => if k.node = node then ⟨node, cls, 0⟩ else k

section
variable {node : BitVec 4} {cls : Nat} {l : List Cand}

/-- An entry of the node is refreshed in its place; the table has changed if the class has. -/
theorem tableAfter_of_mem (h : ∃ k ∈ l, k.node = node) :
    ∃ k ∈ l, k.node = node ∧ tableAfter node cls l = some (refreshed node cls l, k.cls != cls) := by
  obtain ⟨x, hx, hnode⟩ := h
  cases hfind : l.find? (fun k => k.node == node) with
  | none => exact absurd (List.find?_eq_none.1 hfind x hx) (by simp [hnode])
  | some k =>
    refine ⟨k, List.mem_of_find?_eq_some hfind, by simpa using List.find?_some hfind, ?_⟩
    simp only [tableAfter, hfind, refreshed]

/-- A refreshed class that was the same leaves the table unchanged but for the age. -/
theorem tableAfter_of_same (h : ∃ k ∈ l, k.node = node) (hcls : ∀ k ∈ l, k.node = node → k.cls = cls) :
    tableAfter node cls l = some (refreshed node cls l, false) := by
  obtain ⟨k, hk, hnode, ht⟩ := tableAfter_of_mem (cls := cls) h
  simpa [hcls k hk hnode] using ht

/-- A refreshed class that was another changes the table. -/
theorem tableAfter_of_differs (h : ∃ k ∈ l, k.node = node) (hcls : ∀ k ∈ l, k.node = node → k.cls ≠ cls) :
    tableAfter node cls l = some (refreshed node cls l, true) := by
  obtain ⟨k, hk, hnode, ht⟩ := tableAfter_of_mem (cls := cls) h
  rw [ht, bne_iff_ne.2 (hcls k hk hnode)]

theorem find?_node_eq_none (h : ∀ k ∈ l, k.node ≠ node) : l.find? (fun k => k.node == node) = none :=
  List.find?_eq_none.2 fun k hk => by simpa using h k hk

/-- A newcomer goes to the end of a table with room. -/
theorem tableAfter_of_room (h : ∀ k ∈ l, k.node ≠ node) (hroom : l.length < 4) :
    tableAfter node cls l = some (l ++ [⟨node, cls, 0⟩], true) := by
  simp only [tableAfter, find?_node_eq_none h, hroom, if_true]

/-- A newcomer better ranked than the worst entry of a full table replaces it. -/
theorem tableAfter_of_better {w : Cand} (h : ∀ k ∈ l, k.node ≠ node) (hfull : l.length = 4) (hin : w ∈ l)
    (hw : ∀ k ∈ l, k ≠ w → k.rank < w.rank) (hrank : rankOf cls node < w.rank) :
    tableAfter node cls l = some (l.erase w ++ [⟨node, cls, 0⟩], true) := by
  have hno : ¬ l.length < 4 := by omega
  simp only [tableAfter, find?_node_eq_none h, hno, if_false, worstCand_eq hin hw, hrank, if_true]

/-- A full table does not take a newcomer that no entry is ranked behind. -/
theorem tableAfter_eq_none (h : ∀ k ∈ l, k.node ≠ node) (hfull : l.length = 4)
    (hrank : ∀ k ∈ l, k.rank ≤ rankOf cls node) : tableAfter node cls l = none := by
  have hno : ¬ l.length < 4 := by omega
  simp only [tableAfter, find?_node_eq_none h, hno, if_false]
  cases hworst : worstCand l with
  | none => rfl
  | some w => simp only [Nat.not_lt.2 (hrank w (worstCand_mem hworst)), if_false]

/-- A table with room or with an entry of the node takes its ANNOUNCE. -/
theorem tableAfter_isSome (h : l.length < 4 ∨ ∃ k ∈ l, k.node = node) :
    ∃ r changed, tableAfter node cls l = some (r, changed) := by
  by_cases hmem : ∃ k ∈ l, k.node = node
  · obtain ⟨k, -, -, ht⟩ := tableAfter_of_mem (cls := cls) hmem
    exact ⟨_, _, ht⟩
  · exact ⟨_, _, tableAfter_of_room (fun k hk hnode => hmem ⟨k, hk, hnode⟩) (h.resolve_right hmem)⟩

end

/-! ## The stages of an ANNOUNCE that the table takes -/

/-- DU has taken the table and with it the source class. -/
def Node.tabled (sender : BitVec 4) (cls : Nat) (l : List Cand) (n : Node) : Node :=
  { n with du := n.du.takeTable sender cls l }

/-- The selection that a changed table or a changed own class starts. -/
def Node.reselect (c : Settled) (changed : Bool) (n : Node) : Node :=
  if changed then n.select c else n.refreshClass c

/-- The own ANNOUNCE gives way to a better-ranked sender. -/
def Node.yieldTo (sender : BitVec 4) (cls : Nat) (n : Node) : Node :=
  if rankOf cls sender < rankOf n.du.cls n.rh.straps.node then n.withdrawAnnounce else n

theorem Du.takeTable_eq (sender : BitVec 4) (cls : Nat) (l : List Cand) (d : Du) :
    d.takeTable sender cls l = { d with
      cands := l, srcCls := if d.state.isSelf = false ∧ d.source = sender then cls else d.srcCls } := by
  simp only [Du.takeTable, Du.follows_iff]

/-- A source class that is the announced one already stays. -/
theorem Du.takeTable_of_same {cls : Nat} {d : Du} (h : d.srcCls = cls) (sender : BitVec 4) (l : List Cand) :
    d.takeTable sender cls l = { d with cands := l } := by
  subst h
  simp only [Du.takeTable, ite_self]

/-- An own class that does not differ starts no selection. -/
theorem Node.refreshClass_of_eq {n : Node} (h : n.du.ownClass = n.du.cls) (c : Settled) : n.refreshClass c = n :=
  if_pos h

theorem Node.reselect_eq (c : Settled) (changed : Bool) (n : Node) :
    n.reselect c changed = if changed = true ∨ n.du.ownClass ≠ n.du.cls then n.select c else n := by
  unfold Node.reselect Node.refreshClass
  cases changed <;> by_cases hcls : n.du.ownClass = n.du.cls <;> simp [hcls]

theorem Node.reselect_selectFrame (c : Settled) (changed : Bool) (n : Node) :
    SelectFrame n (n.reselect c changed) := by
  cases changed
  · exact n.refreshClass_selectFrame c
  · exact n.select_selectFrame c

theorem Node.yieldTo_selectFrame (sender : BitVec 4) (cls : Nat) (n : Node) : SelectFrame n (n.yieldTo sender cls) := by
  unfold Node.yieldTo
  split
  · exact n.withdrawAnnounce_selectFrame
  · exact SelectFrame.refl n

theorem Node.yieldTo_frame (sender : BitVec 4) (cls : Nat) (n : Node) :
    n.yieldTo sender cls = { n with mh := (n.yieldTo sender cls).mh } := by
  unfold Node.yieldTo Node.withdrawAnnounce
  split
  · split <;> rfl
  · rfl

@[simp] theorem Node.yieldTo_du (sender : BitVec 4) (cls : Nat) (n : Node) : (n.yieldTo sender cls).du = n.du := by
  unfold Node.yieldTo
  split <;> simp

/-- With nothing of its own on the carrier the node's ANNOUNCE gives way at once. -/
theorem Node.yieldTo_of_none {n : Node} (h : n.si.onCarrier = none) (sender : BitVec 4) (cls : Nat) :
    n.yieldTo sender cls = if rankOf cls sender < rankOf n.du.cls n.rh.straps.node
      then { n with mh := { n.mh with announce := false } } else n := by
  rw [Node.yieldTo, Node.withdrawAnnounce_of_none h]

/-! ## What DU does with an ANNOUNCE -/

section
variable {n : Node} {c : Settled} {key : Key} {payload : List Byte} {stamp : Word32}

/-- An ANNOUNCE of the node's own number or of class 3 is ignored. -/
theorem Node.announced_of_barred (h : announceNode key = n.rh.straps.node ∨ announceClass key = 3) :
    n.announced c key payload stamp = n.ignoreAnnounce := by
  simp only [Node.announced, Bool.or_eq_true, decide_eq_true_eq, h, if_true]

/-- An ANNOUNCE that the table does not take is ignored. -/
theorem Node.announced_of_refused (h : tableAfter (announceNode key) (announceClass key) n.du.cands = none) :
    n.announced c key payload stamp = n.ignoreAnnounce := by
  simp only [Node.announced, h, ite_self]

/-- An ANNOUNCE that the table takes goes through the table, the selection, the withdrawal and the measurement. -/
theorem Node.announced_of_taken {l : List Cand} {changed : Bool} (hnode : announceNode key ≠ n.rh.straps.node)
    (hcls : announceClass key ≠ 3)
    (h : tableAfter (announceNode key) (announceClass key) n.du.cands = some (l, changed)) :
    n.announced c key payload stamp =
      (((n.tabled (announceNode key) (announceClass key) l).reselect c changed).yieldTo
        (announceNode key) (announceClass key)).followAnnounce
        c (announceNode key) (AnnounceBody.ofBytes payload) stamp := by
  have hpass : ¬ (announceNode key = n.rh.straps.node ∨ announceClass key = 3) := not_or.2 ⟨hnode, hcls⟩
  simp only [Node.announced, Bool.or_eq_true, decide_eq_true_eq, hpass, if_false, h]
  rfl

end

/-! ## The measurement (R53, R54) -/

theorem Node.canMeasure_iff {sender : BitVec 4} {n : Node} :
    n.canMeasure sender = true ↔
      n.du.state.isSelf = false ∧ n.du.source = sender ∧ n.du.dValid = true ∧ n.tb.history ≠ [] := by
  simp only [Node.canMeasure, Bool.and_eq_true, Du.follows_iff, Bool.not_eq_true', List.isEmpty_eq_false_iff, and_assoc]

/-- A node that does not measure leaves the ANNOUNCE at that. -/
theorem Node.followAnnounce_of_unmeasured {sender : BitVec 4} {n : Node} (c : Settled) (a : AnnounceBody)
    (stamp : Word32)
    (h : n.du.state.isSelf = true ∨ n.du.source ≠ sender ∨ n.du.dValid = false ∨ n.tb.history = []) :
    n.followAnnounce c sender a stamp = n := by
  have hcan : ¬ n.canMeasure sender = true := by
    rw [Node.canMeasure_iff]
    rintro ⟨hstate, hsource, hvalid, hhist⟩
    simp [hstate, hsource, hvalid, hhist] at h
  simp only [Node.followAnnounce, hcan, if_false, Bool.false_eq_true]

theorem Node.target_eq (a : AnnounceBody) (stamp : Word32) (n : Node) :
    n.target a stamp = stamp - BitVec.ofNat 32 n.du.dEst - a.s
      - BitVec.ofNat 32 (if n.rh.straps.role = .head then n.du.dEst + n.rh.runtime.lead else 0) := by
  unfold Node.target Node.advanceA
  cases n.rh.straps.role <;> rfl

/-- A relabelling changes TB and the notices. -/
theorem Node.relabel_frame (label nSrc : Word16) (n : Node) :
    n.relabel label nSrc = { n with
      tb := (n.relabel label nSrc).tb, rh := { n.rh with notices := (n.relabel label nSrc).rh.notices } } := by
  unfold Node.relabel
  split <;> rfl

theorem Node.relabel_of_eq {label nSrc : Word16} (h : label = nSrc) (n : Node) : n.relabel label nSrc = n := by
  simp only [Node.relabel, h, if_true]

/-- Another label is renumbered, with its notice. -/
theorem Node.relabel_of_ne {label nSrc : Word16} (h : label ≠ nSrc) (n : Node) :
    (n.relabel label nSrc).tb = n.tb.renumber label nSrc ∧ (n.relabel label nSrc).rh.isPending 7 = true := by
  simp only [Node.relabel, h, if_false]
  exact ⟨rfl, Node.raise_pending _ .renumbered⟩

/-- The node whose starts are numbered as the ANNOUNCE has them, as the measurement takes it (R54). -/
def Node.numbered (a : AnnounceBody) (stamp : Word32) (n : Node) : Node :=
  match n.tb.entry a.nSrc, n.tb.nearest (n.target a stamp) with
  | none, some (label, _) => n.relabel label a.nSrc
  | _, _ => n

theorem Node.numbered_frame (a : AnnounceBody) (stamp : Word32) (n : Node) :
    n.numbered a stamp = { n with
      tb := (n.numbered a stamp).tb, rh := { n.rh with notices := (n.numbered a stamp).rh.notices } } := by
  unfold Node.numbered
  split
  · exact n.relabel_frame _ _
  · rfl

section
variable {n : Node} {a : AnnounceBody} {stamp : Word32}

theorem Node.numbered_of_entry {h : HistEntry} (hentry : n.tb.entry a.nSrc = some h) : n.numbered a stamp = n := by
  simp only [Node.numbered, hentry]

theorem Node.numbered_of_nearest {label : Word16} {e : Word32} (hentry : n.tb.entry a.nSrc = none)
    (hnear : n.tb.nearest (n.target a stamp) = some (label, e)) : n.numbered a stamp = n.relabel label a.nSrc := by
  simp only [Node.numbered, hentry, hnear]

/-- A frame the history knows is measured by its entry. -/
theorem Node.measureAnnounce_of_entry {h : HistEntry} (c : Settled) (hentry : n.tb.entry a.nSrc = some h) :
    n.measureAnnounce c a stamp = n.correct c c.m (sdiff h.e (n.target a stamp)) := by
  simp only [Node.measureAnnounce, hentry]

/-- Any other frame is measured by the start nearest the target, renumbered first. -/
theorem Node.measureAnnounce_of_nearest {label : Word16} {e : Word32} (c : Settled)
    (hentry : n.tb.entry a.nSrc = none) (hnear : n.tb.nearest (n.target a stamp) = some (label, e)) :
    n.measureAnnounce c a stamp = (n.relabel label a.nSrc).correct c c.m (sdiff e (n.target a stamp)) := by
  simp only [Node.measureAnnounce, hentry, hnear]

variable {c : Settled} {sender : BitVec 4}

/-- A node in FOLLOW_LOCK after the measurement hands a legal timecode on (R59). -/
theorem Node.followAnnounce_of_locked (hcan : n.canMeasure sender = true)
    (hlock : (n.measureAnnounce c a stamp).du.state = .followLock) (hlegal : a.timecode.legal c.r c.d = true) :
    n.followAnnounce c sender a stamp = { n.measureAnnounce c a stamp with
      tb := { (n.measureAnnounce c a stamp).tb with adoption := some (a.timecode, a.nSrc) } } := by
  simp only [Node.followAnnounce, hcan, hlock, Tb.handOff, hlegal, if_true]

/-- A node not locked after the measurement, or an illegal timecode, hands nothing on. -/
theorem Node.followAnnounce_of_kept (hcan : n.canMeasure sender = true)
    (hkept : (n.measureAnnounce c a stamp).du.state ≠ .followLock ∨ a.timecode.legal c.r c.d = false) :
    n.followAnnounce c sender a stamp = n.measureAnnounce c a stamp := by
  simp only [Node.followAnnounce, hcan, if_true]
  split
  · next hlock =>
    have hillegal : a.timecode.legal c.r c.d = false := hkept.resolve_left (not_not_intro hlock)
    simp only [Tb.handOff, hillegal, Bool.false_eq_true, if_false]
  · rfl

end

/-! ## The command -/

/-- ANNOUNCE_RECEIVED, received and of a good form: SI's part, then DU's. -/
theorem exec_announceReceived {s : State} {c : Settled} {key : Key} {payload : List Byte} (h : s.node.Receives c)
    (hgood : isGood 1 key payload = true) (stamp : Word32) (marked : Bool) :
    exec (.announceReceived key payload ⟨stamp, marked⟩) s =
      s.next ((s.node.received c key payload marked).announced c key payload (s.node.stampOf stamp)) := by
  change execAnnounceReceived key payload ⟨stamp, marked⟩ s = _
  unfold execAnnounceReceived
  rw [Node.awake_of_high h.1.1, hgood, Node.receive_of h]

/-! ## AnnounceMeasures -/

/-- A node that measures: what it numbers, corrects and hands on. -/
theorem Node.followAnnounce_measures {n : Node} {c : Settled} {sender : BitVec 4} {a : AnnounceBody}
    {stamp : Word32} (hcan : n.canMeasure sender = true) :
    ∃ x m : Node,
      x = { n with tb := x.tb, rh := { n.rh with notices := x.rh.notices } }
      ∧ (∀ h, n.tb.entry a.nSrc = some h → x = n ∧ m = n.correct c c.m (sdiff h.e (n.target a stamp)))
      ∧ (∀ label e, n.tb.entry a.nSrc = none → n.tb.nearest (n.target a stamp) = some (label, e) →
          (label = a.nSrc → x = n)
          ∧ (label ≠ a.nSrc → x.tb = n.tb.renumber label a.nSrc ∧ x.rh.isPending 7 = true)
          ∧ m = x.correct c c.m (sdiff e (n.target a stamp)))
      ∧ (m.du.state = .followLock → a.timecode.legal c.r c.d = true →
          n.followAnnounce c sender a stamp = { m with tb := { m.tb with adoption := some (a.timecode, a.nSrc) } })
      ∧ ((m.du.state ≠ .followLock ∨ a.timecode.legal c.r c.d = false) →
          n.followAnnounce c sender a stamp = m) := by
  refine ⟨n.numbered a stamp, n.measureAnnounce c a stamp, n.numbered_frame a stamp, ?entry, ?nearest,
    Node.followAnnounce_of_locked hcan, Node.followAnnounce_of_kept hcan⟩
  case entry => exact fun h hentry => ⟨Node.numbered_of_entry hentry, Node.measureAnnounce_of_entry c hentry⟩
  case nearest =>
    intro label e hentry hnear
    rw [Node.numbered_of_nearest hentry hnear]
    exact ⟨fun heq => Node.relabel_of_eq heq n, fun hne => Node.relabel_of_ne hne n,
      Node.measureAnnounce_of_nearest c hentry hnear⟩

/-- An ANNOUNCE that refreshes an entry of its class, with no class of the node's own to change, goes on to the
withdrawal and the measurement. -/
theorem Node.announced_of_refreshed {n : Node} (c : Settled) {key : Key} (payload : List Byte) (stamp : Word32)
    (hnode : announceNode key ≠ n.rh.straps.node) (hcls : announceClass key ≠ 3)
    (hmem : ∃ k ∈ n.du.cands, k.node = announceNode key)
    (hsame : ∀ k ∈ n.du.cands, k.node = announceNode key → k.cls = announceClass key)
    (hsrc : n.du.srcCls = announceClass key) (hown : n.du.cls = n.du.ownClass) :
    ∃ m : Node,
      m = { n with
        du := { n.du with cands := refreshed (announceNode key) (announceClass key) n.du.cands }, mh := m.mh }
      ∧ n.announced c key payload stamp =
        m.followAnnounce c (announceNode key) (AnnounceBody.ofBytes payload) stamp := by
  have hstay : ∀ l, (n.tabled (announceNode key) (announceClass key) l).reselect c false =
      { n with du := { n.du with cands := l } } := by
    intro l
    rw [Node.tabled, Du.takeTable_of_same hsrc]
    exact Node.refreshClass_of_eq (n := { n with du := { n.du with cands := l } }) hown.symm c
  rw [Node.announced_of_taken hnode hcls (tableAfter_of_same hmem hsame), hstay]
  exact ⟨_, Node.yieldTo_frame _ _ _, rfl⟩

/-- Settles O26: the measurement of a follower's source, and what any node does with an ANNOUNCE it has dealt with. -/
theorem announceMeasures : Obligations.AnnounceMeasures := by
  refine ⟨?follower, ?any⟩
  case any =>
    rintro n c sender a stamp target
    refine ⟨Node.followAnnounce_of_unmeasured c a stamp, ?_⟩
    rintro hstate hsource hvalid hhist rfl
    rw [← Node.target_eq]
    exact Node.followAnnounce_measures (Node.canMeasure_iff.2 ⟨hstate, hsource, hvalid, hhist⟩)
  case follower =>
    rintro s c key payload stamp marked a target hrec hgood rfl hnode hcls hstate hsource hvalid hhist hmem hsame hsrc
      hown rfl
    refine Yields.of_next (exec_announceReceived hrec hgood stamp marked) ?_
    obtain ⟨n, hn, hannounced⟩ := Node.announced_of_refreshed (n := s.node.received c key payload marked) c payload
      (s.node.stampOf stamp) (by simpa using hnode) hcls (by simpa using hmem) (by simpa using hsame)
      (by simpa using hsrc) (by simpa using hown)
    rw [Node.received_frame] at hn
    have hcan : n.canMeasure (announceNode key) = true := by
      rw [Node.canMeasure_iff, hn]
      exact ⟨hstate, hsource, hvalid, hhist⟩
    have htb : n.tb = s.node.tb := by rw [hn]
    have htarget : ∀ a t, n.target a t = s.node.target a t := fun a t => by rw [hn]; rfl
    obtain ⟨x, m, hx, hentry, hnear, hlock, hkept⟩ := Node.followAnnounce_measures (c := c)
      (a := AnnounceBody.ofBytes payload) (stamp := s.node.stampOf stamp) hcan
    rw [htarget, Node.target_eq, htb] at hentry hnear
    rw [hannounced]
    refine ⟨x, m, by rw [hx, hn]; rfl, ?entry, ?nearest, hlock, hkept⟩
    case entry =>
      intro h hsome
      obtain ⟨hxn, hm⟩ := hentry h hsome
      exact ⟨by rw [hxn, htb], by rw [hm, hxn]⟩
    case nearest =>
      intro label e hnone hsome
      obtain ⟨heq, hne, hm⟩ := hnear label e hnone hsome
      refine ⟨?_, fun hlabel => (hne hlabel).2, hm⟩
      split
      · next hlabel => rw [heq hlabel, htb]
      · next hlabel => exact (hne hlabel).1

/-! ## AnnounceReceived -/

section
variable {n : Node} {key : Key} {l : List Cand} {changed : Bool}

/-- Without a valid delay estimate an ANNOUNCE that the table takes ends with the withdrawal. -/
theorem Node.announced_of_invalid (c : Settled) (payload : List Byte) (stamp : Word32)
    (hnode : announceNode key ≠ n.rh.straps.node) (hcls : announceClass key ≠ 3) (hvalid : n.du.dValid = false)
    (h : tableAfter (announceNode key) (announceClass key) n.du.cands = some (l, changed)) :
    n.announced c key payload stamp =
      ((n.tabled (announceNode key) (announceClass key) l).reselect c changed).yieldTo
        (announceNode key) (announceClass key) := by
  rw [Node.announced_of_taken hnode hcls h]
  refine Node.followAnnounce_of_unmeasured c _ stamp (Or.inr (Or.inr (Or.inl ?_)))
  rw [Node.yieldTo_du]
  exact (Node.reselect_selectFrame c changed _).invalid hvalid

/-- Without a valid delay estimate the table stays as the ANNOUNCE left it, and it was not ignored. -/
theorem Node.announced_table (c : Settled) (payload : List Byte) (stamp : Word32)
    (hnode : announceNode key ≠ n.rh.straps.node) (hcls : announceClass key ≠ 3) (hvalid : n.du.dValid = false)
    (h : tableAfter (announceNode key) (announceClass key) n.du.cands = some (l, changed)) :
    (n.announced c key payload stamp).du.cands = l
      ∧ (n.announced c key payload stamp).du.announceIgnored = n.du.announceIgnored := by
  have hframe := Node.reselect_selectFrame c changed (n.tabled (announceNode key) (announceClass key) l)
  rw [Node.announced_of_invalid c payload stamp hnode hcls hvalid h, Node.yieldTo_du]
  exact ⟨hframe.cands, hframe.announceIgnored⟩

/-- With nothing of its own on the carrier, a selection leaves it so, and the own ANNOUNCE gives way at once. -/
theorem Node.yieldTo_reselect (c : Settled) (hnone : n.si.onCarrier = none) (sender : BitVec 4) (cls : Nat) :
    (n.reselect c changed).yieldTo sender cls =
      if rankOf cls sender < rankOf (n.reselect c changed).du.cls n.rh.straps.node
      then { n.reselect c changed with mh := { (n.reselect c changed).mh with announce := false } }
      else n.reselect c changed := by
  have hframe := n.reselect_selectFrame c changed
  rw [Node.yieldTo_of_none (by rw [hframe.si, hnone]), hframe.straps]

/-- Without a valid delay estimate the node's own ANNOUNCE is withdrawn for a sender ranked better than the node is
then. -/
theorem Node.announced_withdraws (c : Settled) (payload : List Byte) (stamp : Word32)
    (hnode : announceNode key ≠ n.rh.straps.node) (hcls : announceClass key ≠ 3) (hvalid : n.du.dValid = false)
    (hnone : n.si.onCarrier = none)
    (h : tableAfter (announceNode key) (announceClass key) n.du.cands = some (l, changed))
    (hrank : rankOf (announceClass key) (announceNode key)
      < rankOf (n.announced c key payload stamp).du.cls n.rh.straps.node) :
    (n.announced c key payload stamp).mh.announce = false := by
  rw [Node.announced_of_invalid c payload stamp hnode hcls hvalid h] at hrank ⊢
  rw [Node.yieldTo_du] at hrank
  rw [Node.yieldTo_reselect (n := n.tabled _ _ l) c hnone]
  exact congrArg (fun m : Node => m.mh.announce) (if_pos hrank)

end

/-- The four cases of the table, as the statement tells them. -/
theorem tableAfter_of_cases {node : BitVec 4} {cls : Nat} {l r : List Cand} {changed : Bool}
    (h : (∃ k ∈ l, k.node = node) ∧ r = refreshed node cls l
        ∧ (changed = true ∧ (∀ k ∈ l, k.node = node → k.cls ≠ cls)
          ∨ changed = false ∧ (∀ k ∈ l, k.node = node → k.cls = cls))
      ∨ (∀ k ∈ l, k.node ≠ node) ∧ changed = true
        ∧ (l.length < 4 ∧ r = l ++ [⟨node, cls, 0⟩]
          ∨ l.length = 4 ∧ ∃ w ∈ l, (∀ k ∈ l, k ≠ w → k.rank < w.rank) ∧ rankOf cls node < w.rank
            ∧ r = l.erase w ++ [⟨node, cls, 0⟩])) :
    tableAfter node cls l = some (r, changed) := by
  rcases h with ⟨hmem, rfl, ⟨rfl, hcls⟩ | ⟨rfl, hcls⟩⟩ | ⟨hnew, rfl, ⟨hroom, rfl⟩ | ⟨hfull, w, hin, hw, hrank, rfl⟩⟩
  · exact tableAfter_of_differs hmem hcls
  · exact tableAfter_of_same hmem hcls
  · exact tableAfter_of_room hnew hroom
  · exact tableAfter_of_better hnew hfull hin hw hrank

/-- An ANNOUNCE barred by its sender or class, or one that a full table has no worse entry for, is ignored. -/
theorem Node.announced_ignored {n : Node} (c : Settled) {key : Key} (payload : List Byte) (stamp : Word32)
    (h : announceNode key = n.rh.straps.node ∨ announceClass key = 3
      ∨ (∀ k ∈ n.du.cands, k.node ≠ announceNode key) ∧ n.du.cands.length = 4
        ∧ ∀ k ∈ n.du.cands, k.rank ≤ rankOf (announceClass key) (announceNode key)) :
    n.announced c key payload stamp = n.ignoreAnnounce := by
  rcases h with hnode | hcls | ⟨hnew, hfull, hrank⟩
  · exact Node.announced_of_barred (Or.inl hnode)
  · exact Node.announced_of_barred (Or.inr hcls)
  · exact Node.announced_of_refused (tableAfter_eq_none hnew hfull hrank)

/-- Settles O25: what is ignored, the four cases of the table, and the stages of an ANNOUNCE that the table takes. -/
theorem announceReceived : Obligations.AnnounceReceived := by
  intro s c key payload stamp marked hrec hgood
  have hexec := exec_announceReceived hrec hgood stamp marked
  have hnone : (s.node.received c key payload marked).si.onCarrier = none := by simpa using hrec.onCarrier
  refine ⟨?barred, ?invalid, ?stages⟩
  case barred =>
    intro h
    refine Yields.of_next hexec ?_
    rw [Node.announced_of_barred (by simpa using h)]
    exact ⟨by simp [Node.ignoreAnnounce], by simp [Node.ignoreAnnounce]⟩
  case invalid =>
    intro hnode hcls hvalid
    have htakes : ∀ {l : List Cand} {changed : Bool},
        tableAfter (announceNode key) (announceClass key) s.node.du.cands = some (l, changed) →
        Yields (.announceReceived key payload ⟨stamp, marked⟩) s fun t =>
          t.du.cands = l ∧ t.du.announceIgnored = s.node.du.announceIgnored := by
      intro l changed ht
      refine Yields.of_next hexec ?_
      simpa using Node.announced_table (n := s.node.received c key payload marked) c payload (s.node.stampOf stamp)
        (by simpa using hnode) hcls (by simpa using hvalid) (by simpa using ht)
    refine ⟨?mem, ?newcomer, ?withdraws⟩
    case mem =>
      intro hmem
      obtain ⟨k, -, -, ht⟩ := tableAfter_of_mem (cls := announceClass key) hmem
      exact htakes ht
    case newcomer =>
      intro hnew
      refine ⟨fun hroom => htakes (tableAfter_of_room hnew hroom), ?_⟩
      intro hfull w hin hw
      refine ⟨fun hrank => htakes (tableAfter_of_better hnew hfull hin hw hrank), ?_⟩
      intro hrank
      refine Yields.of_next hexec ?_
      have hall : ∀ k ∈ s.node.du.cands, k.rank ≤ rankOf (announceClass key) (announceNode key) := by
        intro k hk
        by_cases hkw : k = w
        · exact hkw ▸ hrank
        · exact (hw k hk hkw).le.trans hrank
      rw [Node.announced_ignored c payload _ (by simpa using Or.inr (Or.inr ⟨hnew, hfull, hall⟩))]
      simp [Node.ignoreAnnounce]
    case withdraws =>
      intro h
      obtain ⟨l, changed, ht⟩ := tableAfter_isSome (cls := announceClass key) h
      refine Yields.of_next hexec fun hrank => ?_
      exact Node.announced_withdraws c payload _ (by simpa using hnode) hcls (by simpa using hvalid) hnone
        (by simpa using ht) (by simpa using hrank)
  case stages =>
    rintro b rfl
    refine ⟨Node.received_frame c key payload marked s.node, Node.received_receivedOk c key payload marked s.node,
      ?ignored, ?taken⟩
    case ignored =>
      intro h
      refine Yields.of_next hexec ?_
      rw [Node.announced_ignored c payload _ (by simpa using h), Node.ignoreAnnounce, Node.received_du]
    case taken =>
      rintro l changed n1 n2 n3 hnode hcls htable hn1 hn2 hn3
      refine Yields.of_next hexec ?_
      have htabled : n1 = (s.node.received c key payload marked).tabled (announceNode key) (announceClass key) l := by
        rw [hn1, Node.tabled, Du.takeTable_eq, Node.received_du]
      have hselected : n2 = n1.reselect c changed := by rw [hn2, Node.reselect_eq]
      have hyielded : n3 = n2.yieldTo (announceNode key) (announceClass key) := by
        rw [hn3, hselected, Node.yieldTo_reselect c (by rw [htabled]; exact hnone), htabled, Node.tabled,
          Node.received_straps]
      rw [Node.announced_of_taken (by simpa using hnode) hcls (by simpa using tableAfter_of_cases htable), hyielded,
        hselected, htabled]

end Sys2Proof.Machine
end

section
/-! SUPPORT. DELAY_REPLY_RECEIVED (R47 to R49): the two stamps of its payload, the raw delay, the filtered estimate. -/

namespace Sys2Proof.Machine

/-! ## The payload -/

/-- The four bytes of a number below 2^32 spell it. -/
theorem beNat_u32 {k : Nat} (h : k < 4294967296) : beNat (u32 k) = k := by
  simp only [beNat, u32, List.foldl_cons, List.foldl_nil, BitVec.toNat_ofNat]
  omega

/-- A reply's first four bytes are its T2. -/
theorem field_reply_first (t2 t3 : Word32) : BitVec.ofNat 32 (field (u32 t2.toNat ++ u32 t3.toNat) 0 4) = t2 := by
  have hbytes : field (u32 t2.toNat ++ u32 t3.toNat) 0 4 = beNat (u32 t2.toNat) := rfl
  rw [hbytes, beNat_u32 t2.isLt, BitVec.ofNat_toNat, BitVec.setWidth_eq]

/-- A reply's last four bytes are its T3. -/
theorem field_reply_second (t2 t3 : Word32) : BitVec.ofNat 32 (field (u32 t2.toNat ++ u32 t3.toNat) 4 4) = t3 := by
  have hbytes : field (u32 t2.toNat ++ u32 t3.toNat) 4 4 = beNat (u32 t3.toNat) := rfl
  rw [hbytes, beNat_u32 t3.isLt, BitVec.ofNat_toNat, BitVec.setWidth_eq]

/-! ## The estimate (R48) -/

/-- A quarter of the way from one value in 0..4,095 to another stays in range. -/
theorem quarterStep_range {e d : Int} (he : 0 ≤ e) (he' : e ≤ 4095) (hd : 0 ≤ d) (hd' : d ≤ 4095) :
    0 ≤ e + (d - e).tdiv 4 ∧ e + (d - e).tdiv 4 ≤ 4095 := by
  rcases le_total e d with hle | hle
  · rw [Int.tdiv_eq_ediv_of_nonneg (by omega)]
    omega
  · have hneg : (d - e).tdiv 4 = -((e - d) / 4) := by
      rw [← Int.tdiv_eq_ediv_of_nonneg (by omega), ← Int.neg_tdiv, neg_sub]
    omega

/-- An invalid estimate takes the measurement whole. -/
theorem Du.filterDelay_of_invalid {d : Du} (h : d.dValid = false) (k : Nat) : (d.filterDelay k).dEst = k := by
  simp [Du.filterDelay, h]

/-- A valid estimate takes a quarter of the difference. -/
theorem Du.filterDelay_of_valid {d : Du} (h : d.dValid = true) (hest : d.dEst ≤ 4095) {k : Nat} (hk : k ≤ 4095) :
    ((d.filterDelay k).dEst : Int) = d.dEst + ((k : Int) - d.dEst).tdiv 4 := by
  have hrange := quarterStep_range (e := d.dEst) (d := k) (by omega) (by omega) (by omega) (by omega)
  simp only [Du.filterDelay, h, if_true]
  exact Int.toNat_of_nonneg hrange.1

/-- The estimate stays in range. -/
theorem Du.filterDelay_le {d : Du} (hest : d.dValid = true → d.dEst ≤ 4095) {k : Nat} (hk : k ≤ 4095) :
    (d.filterDelay k).dEst ≤ 4095 := by
  cases hvalid : d.dValid with
  | false => rwa [Du.filterDelay_of_invalid hvalid]
  | true =>
    have hrange := quarterStep_range (e := d.dEst) (d := k) (by omega) (by have := hest hvalid; omega) (by omega)
      (by omega)
    have hnew := Du.filterDelay_of_valid hvalid (hest hvalid) hk
    omega

/-! ## What DU does with a reply (R47) -/

section
variable {n : Node} {c : Settled}

/-- A raw delay out of range is counted. -/
theorem Node.takeDelay_of_implausible {d : Int} (h : d < 0 ∨ 4095 < d) :
    n.takeDelay c d = { n with du := { n.du with implausible := Counter.bump n.du.implausible } } := by
  simp only [Node.takeDelay, Bool.or_eq_true, decide_eq_true_eq, h, if_true]

/-- A raw delay in range is filtered into the estimate, and an estimate above the margin is reported. -/
theorem Node.takeDelay_of_plausible {d : Int} (h0 : 0 ≤ d) (h1 : d ≤ 4095) :
    n.takeDelay c d = Node.raiseIf { n with du := n.du.filterDelay d.toNat }
      (c.propTicks < 2 * (n.du.filterDelay d.toNat).dEst) .delayMargin := by
  have hrange : ¬ (d < 0 ∨ 4095 < d) := by omega
  simp only [Node.takeDelay, Bool.or_eq_true, decide_eq_true_eq, hrange, if_false]

variable {key : Key} {payload : List Byte} {stamp : Word32}

/-- A reply to another requester is not the node's. -/
theorem Node.delayReply_of_other (h : Key.first key ≠ n.rh.straps.node) : n.delayReply c key payload stamp = n :=
  if_neg h

/-- A reply to the node is discarded but for one of a follower's own source to its outstanding probe. -/
theorem Node.delayReply_of_unused (hfirst : Key.first key = n.rh.straps.node)
    (h : ¬ (n.du.state.isSelf = false ∧ Key.second key = n.du.source
      ∧ ∃ p, n.du.probe = some p ∧ p.target = n.du.source)) :
    n.delayReply c key payload stamp = n.discardReply := by
  simp only [Node.delayReply, hfirst, if_true]
  cases hprobe : n.du.probe with
  | none => rfl
  | some p =>
    have hunused : ¬ ((n.du.state.isSelf = false ∧ n.du.source = Key.second key) ∧ p.target = n.du.source) := by
      rintro ⟨⟨hstate, hsource⟩, htarget⟩
      exact h ⟨hstate, hsource.symm, p, hprobe, htarget⟩
    simp only [Bool.and_eq_true, beq_iff_eq, Du.follows_iff, hunused, if_false]

/-- The reply that is used clears the probe and brings a raw delay. -/
theorem Node.delayReply_of_used {p : Probe} (hfirst : Key.first key = n.rh.straps.node) (hprobe : n.du.probe = some p)
    (hstate : n.du.state.isSelf = false) (hsource : Key.second key = n.du.source) (htarget : p.target = n.du.source)
    (t2 t3 : Word32) :
    n.delayReply c key (u32 t2.toNat ++ u32 t3.toNat) stamp =
      Node.takeDelay c (rawDelay p.t1 t2 t3 stamp) { n with du := { n.du with probe := none } } := by
  simp only [Node.delayReply, hfirst, if_true, hprobe, Bool.and_eq_true, beq_iff_eq, Du.follows_iff, hstate, hsource,
    htarget, and_self, field_reply_first, field_reply_second]

end

/-! ## The command -/

/-- DELAY_REPLY_RECEIVED, received and of a good form: SI's part, then DU's. -/
theorem exec_delayReplyReceived {s : State} {c : Settled} {key : Key} {payload : List Byte} (h : s.node.Receives c)
    (hgood : isGood 3 key payload = true) (stamp : Word32) (marked : Bool) :
    exec (.delayReplyReceived key payload ⟨stamp, marked⟩) s =
      s.next ((s.node.received c key payload marked).delayReply c key payload (s.node.stampOf stamp)) := by
  change execDelayReplyReceived key payload ⟨stamp, marked⟩ s = _
  unfold execDelayReplyReceived
  rw [Node.awake_of_high h.1.1, hgood, Node.receive_of h]

/-- What a measurement of a raw delay `d` leaves of a node whose probe it has cleared. -/
theorem Node.takeDelay_spec {n : Node} (c : Settled) (d : Int) (hest : n.du.dValid = true → n.du.dEst ≤ 4095) :
    ((d < 0 ∨ 4095 < d) →
      (n.takeDelay c d).du = { n.du with implausible := Counter.bump n.du.implausible })
    ∧ (0 ≤ d → d ≤ 4095 →
      (n.takeDelay c d).du = { n.du with dValid := true, dEst := (n.takeDelay c d).du.dEst }
      ∧ (n.du.dValid = false → ((n.takeDelay c d).du.dEst : Int) = d)
      ∧ (n.du.dValid = true → ((n.takeDelay c d).du.dEst : Int) = n.du.dEst + (d - n.du.dEst).tdiv 4)
      ∧ (c.prop * (c.pre + 1) < 2 * (n.takeDelay c d).du.dEst → (n.takeDelay c d).rh.isPending 8 = true))
    ∧ ((n.takeDelay c d).du.dValid = true → (n.takeDelay c d).du.dEst ≤ 4095) := by
  refine ⟨?implausible, ?plausible, ?range⟩
  case implausible =>
    intro hout
    rw [Node.takeDelay_of_implausible hout]
  case plausible =>
    intro h0 h1
    have hnat : (d.toNat : Int) = d := Int.toNat_of_nonneg h0
    rw [Node.takeDelay_of_plausible h0 h1, Node.raiseIf_du]
    refine ⟨rfl, ?_, ?_, ?_⟩
    · intro hvalid
      rw [Du.filterDelay_of_invalid hvalid, hnat]
    · intro hvalid
      rw [Du.filterDelay_of_valid hvalid (hest hvalid) (by omega), hnat]
    · intro hmargin
      have hmargin : c.propTicks < 2 * (n.du.filterDelay d.toNat).dEst := hmargin
      rw [decide_eq_true hmargin]
      exact Node.raise_pending _ .delayMargin
  case range =>
    by_cases hout : d < 0 ∨ 4095 < d
    · rw [Node.takeDelay_of_implausible hout]
      exact hest
    · rw [Node.takeDelay_of_plausible (by omega) (by omega), Node.raiseIf_du]
      exact fun _ => Du.filterDelay_le hest (by omega)

/-- Settles O29: which replies are used, and what the measurement of one leaves of the estimate. -/
theorem delayReplyReceived : Obligations.DelayReplyReceived := by
  rintro s c key t2 t3 payload stamp marked hrec hgood rfl
  have hexec := exec_delayReplyReceived hrec hgood stamp marked
  refine ⟨?other, fun hfirst => ⟨?unused, ?used⟩⟩
  case other =>
    intro hfirst
    refine Yields.of_next hexec ?_
    rw [Node.delayReply_of_other (by simpa using hfirst), Node.received_du]
  case unused =>
    intro hunused
    refine Yields.of_next hexec ?_
    rw [Node.delayReply_of_unused (by simpa using hfirst) (by simpa using hunused)]
    simp [Node.discardReply]
  case used =>
    intro p hprobe hstate hsource htarget hest
    refine Yields.of_next hexec ⟨rawDelay p.t1 t2 t3 (s.node.stampOf stamp), rfl, ?_⟩
    rw [Node.delayReply_of_used (by simpa using hfirst) (by simpa using hprobe) (by simpa using hstate)
      (by simpa using hsource) (by simpa using htarget), Node.received_du]
    exact Node.takeDelay_spec (n := { s.node.received c _ _ marked with du := { s.node.du with probe := none } })
      c _ hest

end Sys2Proof.Machine
end

section
/-! SUPPORT. LINE_END (R86): the four tests of a filled line, and the segment that a line passing them becomes. -/

namespace Sys2Proof.Machine

/-! ## The store -/

/-- A buffer that holds bytes is one of the store's. -/
theorem Ss.lt_length_of_bytes_ne_nil {ss : Ss} {b : Nat} (h : (ss.buf b).bytes ≠ []) : b < ss.bufs.length := by
  by_contra hout
  rw [Ss.buf_of_le (Nat.le_of_not_lt hout)] at h
  exact h rfl

/-- A marked buffer that holds bytes takes its new state and keeps them. -/
theorem Ss.buf_mark_self {ss : Ss} {b : Nat} (h : (ss.buf b).bytes ≠ []) (x : BufState) :
    (ss.mark b x).buf b = ⟨x, (ss.buf b).bytes⟩ :=
  Ss.buf_setBuf_self (Ss.lt_length_of_bytes_ne_nil h) _

/-- Marking a buffer leaves the others. -/
theorem Ss.buf_mark_of_ne {ss : Ss} {b k : Nat} (h : k ≠ b) (x : BufState) : (ss.mark b x).buf k = ss.buf k :=
  Ss.buf_setBuf_of_ne h _

/-! ## A dropped line -/

/-- A dropped line is counted under its cause, its buffer is given back and SEGMENT_LOSS is pending (R78, R92). -/
theorem Node.dropFilling_spec (d : LineDrop) (b : Nat) (after : LineState) (n : Node) :
    (n.dropFilling d b after).lu = Lu.count d { n.lu with line := after }
    ∧ (n.dropFilling d b after).ss = n.ss.release b ∧ (n.dropFilling d b after).rh.isPending 11 = true :=
  ⟨rfl, rfl, Node.raise_pending _ .segmentLoss⟩

/-! ## The line state at LINE_END (R86) -/

section
variable {n : Node} {c : Settled} {b : Nat}

theorem Node.lineEnd_of_outside (h : n.lu.line = .outside) : n.lineEnd c = n.unframedWord := by
  simp [Node.lineEnd, h]

theorem Node.lineEnd_of_discarding (h : n.lu.line = .discarding) :
    n.lineEnd c = { n with lu := { n.lu with line := .outside } } := by
  simp [Node.lineEnd, h]

/-- A line number past the active lines is the first test. -/
theorem Node.lineEnd_of_excess (h : n.lu.line = .filling b) (hno : c.aLines ≤ n.lu.lineNo) :
    n.lineEnd c = n.dropFilling .excess b .outside := by
  simp [Node.lineEnd, h, hno]

/-- An empty buffer is the second test. -/
theorem Node.lineEnd_of_empty (h : n.lu.line = .filling b) (hno : n.lu.lineNo < c.aLines)
    (hbytes : (n.ss.buf b).bytes = []) : n.lineEnd c = n.dropFilling .empty b .outside := by
  simp [Node.lineEnd, h, Nat.not_le.2 hno, hbytes]

/-- A full launch queue is the third test. -/
theorem Node.lineEnd_of_overflow (h : n.lu.line = .filling b) (hno : n.lu.lineNo < c.aLines)
    (hbytes : (n.ss.buf b).bytes ≠ []) (hfull : 8 ≤ n.lu.queue.length) :
    n.lineEnd c = n.dropFilling .overflow b .outside := by
  simp [Node.lineEnd, h, Nat.not_le.2 hno, hbytes, hfull]

/-- A line that no test drops is queued. -/
theorem Node.lineEnd_of_passed (h : n.lu.line = .filling b) (hno : n.lu.lineNo < c.aLines)
    (hbytes : (n.ss.buf b).bytes ≠ []) (hroom : n.lu.queue.length < 8) : n.lineEnd c = n.queueSegment b := by
  simp [Node.lineEnd, h, Nat.not_le.2 hno, hbytes, Nat.not_le.2 hroom]

end

/-! ## The segment of a finished line (R87) -/

/-- The segment carries the latched frame and, on line 0 alone, the latched timecode. -/
theorem Node.segmentOf_of_latch {n : Node} {frame : BitVec 8} {tc : Timecode} (h : n.lu.latch = some (frame, tc))
    (b : Nat) : n.segmentOf b = ⟨n.rh.straps.plane, frame, n.lu.lineNo, (n.ss.buf b).bytes.length,
      if n.lu.lineNo = 0 then some tc else none, b⟩ := by
  simp [Node.segmentOf, h]

@[simp] theorem Node.queueSegment_queue (b : Nat) (n : Node) :
    (n.queueSegment b).lu.queue = n.lu.queue ++ [n.segmentOf b] := rfl

@[simp] theorem Node.queueSegment_ss (b : Nat) (n : Node) : (n.queueSegment b).ss = n.ss.mark b .queued := rfl

/-- Queueing a segment changes LU and the store's buffers, no other block. -/
theorem Node.queueSegment_frame (b : Nat) (n : Node) :
    n.queueSegment b = { n with
      lu := (n.queueSegment b).lu, ss := { n.ss with bufs := (n.queueSegment b).ss.bufs } } := rfl

/-! ## The command -/

/-- LINE_END at a working head is LU's end of the line. -/
theorem exec_lineEnd {s : State} {c : Settled} (h : s.node.WorksHead c) :
    exec .lineEnd s = s.next (s.node.lineEnd c) := by
  obtain ⟨hrst, hcfg⟩ := h
  have hexec : exec .lineEnd s = s.next (s.node.awake fun n => n.asHead Node.lineEnd) := rfl
  rw [hexec, Node.awake_of_high hrst, Node.asHead_of hcfg]

/-- Settles O35: the line states, each test where those before it let the line pass, and the line that passes all. -/
theorem lineEnd : Obligations.LineEnd := by
  intro s c hworks
  have hexec := exec_lineEnd hworks
  refine ⟨?outside, ?discarding, fun b hline => ⟨?excess, ?empty, ?overflow, ?passed⟩⟩
  case outside =>
    intro hline
    exact Yields.of_next hexec (Node.lineEnd_of_outside hline)
  case discarding =>
    intro hline
    exact Yields.of_next hexec (Node.lineEnd_of_discarding hline)
  case excess =>
    intro hno
    rw [Node.lineEnd_of_excess hline hno] at hexec
    exact Yields.of_next hexec (Node.dropFilling_spec .excess b .outside s.node)
  case empty =>
    intro hno hbytes
    rw [Node.lineEnd_of_empty hline hno hbytes] at hexec
    exact Yields.of_next hexec (Node.dropFilling_spec .empty b .outside s.node)
  case overflow =>
    intro hno hbytes hfull
    rw [Node.lineEnd_of_overflow hline hno hbytes hfull] at hexec
    exact Yields.of_next hexec (Node.dropFilling_spec .overflow b .outside s.node)
  case passed =>
    intro frame tc hno hbytes hroom hlatch
    rw [Node.lineEnd_of_passed hline hno hbytes hroom] at hexec
    refine Yields.of_next hexec ⟨?_, ?_, ?_, rfl, rfl, rfl, Node.queueSegment_frame b s.node⟩
    · rw [Node.queueSegment_queue, Node.segmentOf_of_latch hlatch]
    · rw [Node.queueSegment_ss, Ss.buf_mark_self hbytes]
    · intro k hk
      rw [Node.queueSegment_ss, Ss.buf_mark_of_ne hk]

end Sys2Proof.Machine
end

section
/-! SUPPORT. DELAY_PROBE_RECEIVED (R174): the key of a message between two nodes, what SI's part of a reception leaves
MH's answer to test, and each of the four answers. -/

namespace Sys2Proof.Machine

/-! ## The key of a message between two nodes (R170) -/

/-- A key's kind, then its two nodes, from the top bits down. -/
theorem nodesKey_toNat {kind : Nat} (h : kind < 16) (first second : BitVec 4) :
    (nodesKey kind first second).toNat = kind * 256 + first.toNat * 16 + second.toNat := by
  have hfirst := first.isLt
  have hsecond := second.isLt
  simp only [nodesKey, makeKey, BitVec.toNat_ofNat]
  omega

theorem kind_nodesKey {kind : Nat} (h : kind < 16) (first second : BitVec 4) :
    Sys2Proof.Key.kind (nodesKey kind first second) = kind := by
  have hfirst := first.isLt
  have hsecond := second.isLt
  rw [Sys2Proof.Key.kind, BitVec.toNat_ushiftRight, nodesKey_toNat h, Nat.shiftRight_eq_div_pow]
  omega

theorem Key.first_nodesKey {kind : Nat} (h : kind < 16) (first second : BitVec 4) :
    Key.first (nodesKey kind first second) = first := by
  apply BitVec.eq_of_toNat_eq
  have hfirst := first.isLt
  have hsecond := second.isLt
  rw [Key.first, BitVec.toNat_setWidth, BitVec.toNat_ushiftRight, nodesKey_toNat h, Nat.shiftRight_eq_div_pow]
  omega

theorem Key.second_nodesKey {kind : Nat} (h : kind < 16) (first second : BitVec 4) :
    Key.second (nodesKey kind first second) = second := by
  apply BitVec.eq_of_toNat_eq
  have hsecond := second.isLt
  rw [Key.second, BitVec.toNat_setWidth, nodesKey_toNat h]
  omega

/-! ## The state following the counts (R163) -/

@[simp] theorem Node.followCounts_mh (n : Node) : n.followCounts.mh = n.mh := by
  rw [Node.followCounts_frame]

@[simp] theorem Node.followCounts_listenOnly (n : Node) : n.followCounts.si.listenOnly = n.si.listenOnly := by
  unfold Node.followCounts
  split <;> simp [Si.moveTo]

/-- SILENCED is left by recovery alone, not by the counts. -/
theorem Node.followCounts_of_silenced {n : Node} (h : n.si.state = .silenced) : n.followCounts = n := by
  simp [Node.followCounts, h]

/-- The counts call for SILENCED from a TEC of 192 on. -/
theorem Si.countState_eq_silenced {si : Si} : si.countState = .silenced ↔ 192 ≤ si.tec := by
  unfold Si.countState
  split
  · next htec => simp [htec]
  · next htec => split <;> simpa using htec

/-- The state follows the counts or stays. -/
theorem Node.followCounts_state (n : Node) :
    n.followCounts.si.state = n.si.countState ∨ n.followCounts.si.state = n.si.state := by
  unfold Node.followCounts
  split
  · exact .inl (by simp [Si.moveTo])
  · exact .inr rfl

/-- Below a TEC of 192 a node that is not SILENCED does not become so. -/
theorem Node.followCounts_not_silenced {n : Node} (hstate : n.si.state ≠ .silenced) (htec : n.si.tec < 192) :
    n.followCounts.si.state ≠ .silenced := by
  rcases n.followCounts_state with hcount | hkept
  · rw [hcount, ne_eq, Si.countState_eq_silenced]
    exact Nat.not_le.2 htec
  · rwa [hkept]

/-! ## What SI's part of a reception leaves -/

section
variable (c : Settled) (key : Key) (payload : List Byte) (marked : Bool) (n : Node)

@[simp] theorem Node.received_mh : (n.received c key payload marked).mh = n.mh := Node.followCounts_mh _

@[simp] theorem Node.received_listenOnly : (n.received c key payload marked).si.listenOnly = n.si.listenOnly :=
  (Node.followCounts_listenOnly _).trans (n.si.countSpaces_frame key payload marked).listenOnly

variable {n}

/-- A message received in SILENCED does not end it. -/
theorem Node.received_silenced (h : n.si.state = .silenced) :
    (n.received c key payload marked).si.state = .silenced := by
  have hcount := (n.si.countSpaces_frame key payload marked).state.trans h
  rw [Node.received, Node.followCounts_of_silenced hcount]
  exact hcount

/-- A correct message does not make a node SILENCED. -/
theorem Node.received_not_silenced (hstate : n.si.state ≠ .silenced) (htec : n.si.tec < 192) :
    (n.received c key payload marked).si.state ≠ .silenced := by
  have hclock := n.si.countSpaces_frame key payload marked
  exact Node.followCounts_not_silenced (hclock.state.trans_ne hstate) (hclock.tec.trans_lt htec)

end

/-! ## The answer to a probe (R174) -/

section
variable {n : Node} {key : Key} (stamp : Word32)

/-- A probe for another node is not answered. -/
theorem Node.answerProbe_of_other (h : Key.first key ≠ n.rh.straps.node) : n.answerProbe key stamp = n :=
  if_pos (bne_iff_ne.2 h)

/-- A node that may not send counts the probe. -/
theorem Node.answerProbe_of_barred (hfirst : Key.first key = n.rh.straps.node)
    (h : n.si.listenOnly = true ∨ n.si.state = .silenced) :
    n.answerProbe key stamp =
      { n with mh := { n.mh with probesUnanswered := Counter.bump n.mh.probesUnanswered } } := by
  simp [Node.answerProbe, hfirst, h]

/-- A full reply queue takes no reply. -/
theorem Node.answerProbe_of_full (hfirst : Key.first key = n.rh.straps.node) (hlisten : n.si.listenOnly = false)
    (hstate : n.si.state ≠ .silenced) (hfull : 4 ≤ n.mh.replies.length) :
    n.answerProbe key stamp =
      { n with mh := { n.mh with replyQueueFull := Counter.bump n.mh.replyQueueFull } } := by
  simp [Node.answerProbe, hfirst, hlisten, hstate, hfull]

/-- The reply names the prober and keeps the probe's start stamp. -/
theorem Node.answerProbe_of_room (hfirst : Key.first key = n.rh.straps.node) (hlisten : n.si.listenOnly = false)
    (hstate : n.si.state ≠ .silenced) (hroom : n.mh.replies.length < 4) :
    n.answerProbe key stamp =
      { n with mh := { n.mh with replies := n.mh.replies ++ [⟨Key.second key, stamp⟩] } } := by
  simp [Node.answerProbe, hfirst, hlisten, hstate, Nat.not_le.2 hroom]

end

/-! ## The oldest reply offered (R156, R175) -/

theorem Node.replyOffer_of_cons {n : Node} {r : Reply} {rest : List Reply} (h : n.mh.replies = r :: rest) :
    n.replyOffer =
      [⟨.reply, nodesKey 3 r.requester n.rh.straps.node, u32 r.t2.toNat ++ u32 n.tb.e.toNat⟩] := by
  simp [Node.replyOffer, h]

/-! ## The commands -/

/-- A carrier error reaches no place of MH (R159); the end of an own message is reported by MESSAGE_FAILED. -/
@[simp] theorem Node.serviceError_mh (c : Settled) (kind : CarrierError) (n : Node) :
    (n.serviceError c kind).mh = n.mh := by
  unfold Node.serviceError
  split
  · exact Node.followCounts_mh _
  · rfl

/-- SERVICE_ERROR at a working node. -/
theorem exec_serviceError {s : State} {c : Settled} (h : s.node.Works c) (kind : CarrierError) :
    exec (.serviceError kind) s = s.next (s.node.serviceError c kind) := by
  change execServiceError kind s = _
  rw [execServiceError, Node.awake_of_high h.1, Node.withCfg_of h.2]

/-- DELAY_PROBE_RECEIVED, received and of a good form: SI's part, then MH's. -/
theorem exec_delayProbeReceived {s : State} {c : Settled} {key : Key} {payload : List Byte} (h : s.node.Receives c)
    (hgood : isGood 2 key payload = true) (stamp : Word32) (marked : Bool) :
    exec (.delayProbeReceived key payload ⟨stamp, marked⟩) s =
      s.next ((s.node.received c key payload marked).answerProbe key (s.node.stampOf stamp)) := by
  change execDelayProbeReceived key payload ⟨stamp, marked⟩ s = _
  rw [execDelayProbeReceived, Node.awake_of_high h.1.1, hgood, Node.receive_of h]

/-- Settles O53: each answer, its tests made after SI's part of the reception; the oldest reply's offer; the error. -/
theorem delayProbeReceived : Obligations.DelayProbeReceived := by
  intro s c key stamp marked hrec hgood
  have hexec := exec_delayProbeReceived hrec hgood stamp marked
  refine ⟨?other, fun hfirst => ⟨?barred, ?full, ?room⟩, ?offer, ?error⟩
  case other =>
    intro hfirst
    refine Yields.of_next hexec ?_
    rw [Node.answerProbe_of_other _ (by simpa using hfirst), Node.received_mh]
  case barred =>
    intro hbarred
    have hbarred' := hbarred.imp (Node.received_listenOnly c key [] marked s.node).trans
      (Node.received_silenced c key [] marked)
    refine Yields.of_next hexec ?_
    rw [Node.answerProbe_of_barred _ (by simpa using hfirst) hbarred', Node.received_mh]
  case full =>
    intro hlisten hstate htec hfull
    refine Yields.of_next hexec ?_
    rw [Node.answerProbe_of_full _ (by simpa using hfirst) (by simpa using hlisten)
      (Node.received_not_silenced c key [] marked hstate htec) (by simpa using hfull), Node.received_mh]
  case room =>
    intro hlisten hstate htec hroom
    refine Yields.of_next hexec ?_
    rw [Node.answerProbe_of_room _ (by simpa using hfirst) (by simpa using hlisten)
      (Node.received_not_silenced c key [] marked hstate htec) (by simpa using hroom), Node.received_mh]
  case offer =>
    intro r rest hreplies
    exact ⟨_, Node.replyOffer_of_cons hreplies, kind_nodesKey (by decide) _ _, Key.first_nodesKey (by decide) _ _,
      Key.second_nodesKey (by decide) _ _, rfl⟩
  case error =>
    intro k
    exact Yields.of_next (exec_serviceError hrec.1 k) (Node.serviceError_mh c k s.node)

end Sys2Proof.Machine
end

section
/-! SUPPORT. Every command answers a next state: what stands of the block after it. An invariant of the block that every
command and one tick keep is one that every step keeps. -/

namespace Sys2Proof.Machine

/-- The block after a command: what `exec` answers for it. -/
def Node.after (i : Instr) (n : Node) : Node :=
  match exec i ⟨n, []⟩ with
  | .next t => t.node
  | .fault _ => n
  | .refused _ => n

/-- Every command answers the state with its block changed and the queue as it stands. -/
theorem exec_eq_next (i : Instr) (s : State) : exec i s = s.next (s.node.after i) := by
  cases i <;> rfl

/-! ## The block after each command -/

@[simp] theorem Node.after_powerOnReset (role : Role) (plane : BitVec 2) (node : BitVec 4) (adr : BitVec 2) (n : Node) :
    n.after (.powerOnReset role plane node adr) = Node.powerOn ⟨role, plane, node, adr⟩ n.pins n.freeIdx := rfl

@[simp] theorem Node.after_rstNAsserted (n : Node) :
    n.after .rstNAsserted = n.awake Node.assertReset := rfl

@[simp] theorem Node.after_settle (addr : BitVec 7) (body : List Byte) (n : Node) :
    n.after (.settle addr body) = n.awake (Node.request addr body (Node.settle body)) := rfl

@[simp] theorem Node.after_adjust (addr : BitVec 7) (body : List Byte) (n : Node) :
    n.after (.adjust addr body) = n.awake (Node.request addr body (Node.adjust body)) := rfl

@[simp] theorem Node.after_send (addr : BitVec 7) (body : List Byte) (n : Node) :
    n.after (.send addr body) = n.awake (Node.request addr body (Node.send body)) := rfl

@[simp] theorem Node.after_take (addr : BitVec 7) (body : List Byte) (n : Node) :
    n.after (.take addr body) = n.awake (Node.request addr body (Node.take body)) := rfl

@[simp] theorem Node.after_status (addr : BitVec 7) (req : StatusRequest) (n : Node) :
    n.after (.status addr req) = n.awake (Node.request addr req.body (Node.status req.body req.cp req.pready)) := rfl

@[simp] theorem Node.after_notices (addr : BitVec 7) (body : List Byte) (n : Node) :
    n.after (.notices addr body) = n.awake (Node.request addr body (Node.noticesRequest body)) := rfl

@[simp] theorem Node.after_softReset (addr : BitVec 7) (body : List Byte) (n : Node) :
    n.after (.softReset addr body) = n.awake (Node.request addr body (Node.softResetRequest body)) := rfl

@[simp] theorem Node.after_mailboxBadRequest (addr : BitVec 7) (bytes : List Byte) (n : Node) :
    n.after (.mailboxBadRequest addr bytes) =
      n.awake fun n => if n.isAddressed addr then n.badRequest bytes else n := rfl

@[simp] theorem Node.after_mailboxRead (addr : BitVec 7) (count : Nat) (n : Node) :
    n.after (.mailboxRead addr count) = n.awake fun n => if n.isAddressed addr then n.mailboxRead count else n := rfl

@[simp] theorem Node.after_frameStart (n : Node) :
    n.after .frameStart = n.awake fun n => n.withCfg fun c n => if n.tb.frameDue then n.frameStart c else n := rfl

@[simp] theorem Node.after_runningEntry (n : Node) :
    n.after .runningEntry = n.awake fun n => n.withCfg Node.enterRunning := rfl

@[simp] theorem Node.after_candidateRemoved (n : Node) :
    n.after .candidateRemoved = n.awake fun n => n.withCfg Node.removeAged := rfl

@[simp] theorem Node.after_holdoverExpired (n : Node) :
    n.after .holdoverExpired =
      n.awake fun n => n.withCfg fun c n => if n.du.state = .selfHold && n.du.credit = 0 then n.expireHoldover c
      else n := rfl

@[simp] theorem Node.after_probeTimeout (n : Node) :
    n.after .probeTimeout =
      n.awake fun n => if n.du.probeExpired then { n with du := n.du.abandonProbe } else n := rfl

@[simp] theorem Node.after_strobeFire (n : Node) :
    n.after .strobeFire = n.awake fun n => n.withCfg Node.strobeFire := rfl

@[simp] theorem Node.after_refinPulse (n : Node) :
    n.after .refinPulse = n.awake fun n => n.withCfg Node.pulse := rfl

@[simp] theorem Node.after_referenceSilence (n : Node) :
    n.after .referenceSilence =
      n.awake fun n => n.withCfg fun c n => if n.silenceDue c then n.loseReference c else n := rfl

@[simp] theorem Node.after_announceReceived (key : Key) (payload : List Byte) (arrival : Arrival) (n : Node) :
    n.after (.announceReceived key payload arrival) =
      n.awake fun n => n.receive (isGood 1 key payload) key payload arrival.stamp arrival.marked fun c t n =>
      n.announced c key payload t := rfl

@[simp] theorem Node.after_delayProbeReceived (key : Key) (payload : List Byte) (arrival : Arrival) (n : Node) :
    n.after (.delayProbeReceived key payload arrival) =
      n.awake fun n => n.receive (isGood 2 key payload) key payload arrival.stamp arrival.marked fun _ t n =>
      n.answerProbe key t := rfl

@[simp] theorem Node.after_delayReplyReceived (key : Key) (payload : List Byte) (arrival : Arrival) (n : Node) :
    n.after (.delayReplyReceived key payload arrival) =
      n.awake fun n => n.receive (isGood 3 key payload) key payload arrival.stamp arrival.marked fun c t n =>
      n.delayReply c key payload t := rfl

@[simp] theorem Node.after_controlReceived (key : Key) (payload : List Byte) (arrival : Arrival) (n : Node) :
    n.after (.controlReceived key payload arrival) =
      n.awake fun n => n.controlReceived (isGood 4 key payload) key payload arrival.stamp arrival.marked := rfl

@[simp] theorem Node.after_controlReplyReceived (key : Key) (payload : List Byte) (arrival : Arrival) (n : Node) :
    n.after (.controlReplyReceived key payload arrival) =
      n.awake fun n => n.receive (isGood 5 key payload) key payload arrival.stamp arrival.marked fun _ _ n => n :=
      rfl

@[simp] theorem Node.after_unusableKind (key : Key) (payload : List Byte) (arrival : Arrival) (n : Node) :
    n.after (.unusableKind key payload arrival) =
      n.awake fun n => n.receive (Sys2Proof.Key.kind key == 0 && payloadFits payload) key payload arrival.stamp
      arrival.marked fun _ _ n => { n with mh := { n.mh with unusableKind := Counter.bump n.mh.unusableKind } } :=
      rfl

@[simp] theorem Node.after_badForm (key : Key) (payload : List Byte) (arrival : Arrival) (n : Node) :
    n.after (.badForm key payload arrival) =
      n.awake fun n => n.receive (1 ≤ Sys2Proof.Key.kind key && Sys2Proof.Key.kind key ≤ 5 && payloadFits payload
      && !goodForm key payload) key payload arrival.stamp arrival.marked fun _ _ n => { n with mh := { n.mh with
      badForm := Counter.bump n.mh.badForm } } := rfl

@[simp] theorem Node.after_userMailFiled (key : Key) (payload : List Byte) (arrival : Arrival) (n : Node) :
    n.after (.userMailFiled key payload arrival) =
      n.awake fun n => n.receive (6 ≤ Sys2Proof.Key.kind key && payloadFits payload) key payload arrival.stamp
      arrival.marked fun _ t n => n.fileMail key payload t := rfl

@[simp] theorem Node.after_messageStart (n : Node) :
    n.after .messageStart = n.awake fun n => n.withCfg Node.messageStart := rfl

@[simp] theorem Node.after_arbitrationLost (n : Node) :
    n.after .arbitrationLost = n.awake Node.loseArbitration := rfl

@[simp] theorem Node.after_messageSent (n : Node) :
    n.after .messageSent = n.awake fun n => n.withCfg Node.messageSent := rfl

@[simp] theorem Node.after_messageFailed (n : Node) :
    n.after .messageFailed = n.awake Node.messageFailed := rfl

@[simp] theorem Node.after_serviceError (kind : CarrierError) (n : Node) :
    n.after (.serviceError kind) = n.awake fun n => n.withCfg fun c n => n.serviceError c kind := rfl

@[simp] theorem Node.after_guardedWaitEnd (n : Node) :
    n.after .guardedWaitEnd = n.awake fun n => { n with si := n.si.endGuard } := rfl

@[simp] theorem Node.after_silencedRecovery (n : Node) :
    n.after .silencedRecovery = n.awake Node.recover := rfl

@[simp] theorem Node.after_integrationEnd (n : Node) :
    n.after .integrationEnd = n.awake fun n => { n with si := n.si.endIntegration } := rfl

@[simp] theorem Node.after_listenOnlyEffect (n : Node) :
    n.after .listenOnlyEffect = n.awake Node.atIdlePoint := rfl

@[simp] theorem Node.after_frameBegin (n : Node) :
    n.after .frameBegin = n.awake fun n => n.asHead fun _ n => n.frameBegin := rfl

@[simp] theorem Node.after_lineBegin (n : Node) :
    n.after .lineBegin = n.awake fun n => n.asHead fun _ n => n.lineBegin := rfl

@[simp] theorem Node.after_payloadWord (pctl : BitVec 4) (pd : Word32) (n : Node) :
    n.after (.payloadWord pctl pd) =
      n.awake fun n => n.asHead fun _ n => if (payloadBytes pctl pd).isEmpty then n else n.payload (payloadBytes
      pctl pd) := rfl

@[simp] theorem Node.after_lineEnd (n : Node) :
    n.after .lineEnd = n.awake fun n => n.asHead Node.lineEnd := rfl

@[simp] theorem Node.after_segmentLaunched (n : Node) :
    n.after .segmentLaunched = n.awake fun n => n.asHead fun _ n => if n.launchDue then n.launched else n := rfl

@[simp] theorem Node.after_carrierLoss (lane : Fin 4) (n : Node) :
    n.after (.carrierLoss lane) = n.awake fun n => n.asBase fun c n => n.carrierLoss c lane := rfl

@[simp] theorem Node.after_startDelimiter (lane : Fin 4) (cp : Bool) (n : Node) :
    n.after (.startDelimiter lane cp) = n.awake fun n => n.asBase fun c n => n.startDelimiter c lane cp := rfl

@[simp] theorem Node.after_segmentHeader (lane : Fin 4) (header : List Byte) (n : Node) :
    n.after (.segmentHeader lane header) = n.awake fun n => n.asBase fun c n => n.segmentHeader c lane header := rfl

@[simp] theorem Node.after_segmentEnd (lane : Fin 4) (how : SegEnd) (violation : Bool) (rest : List Byte) (n : Node) :
    n.after (.segmentEnd lane how violation rest) =
      n.awake fun n => n.asBase fun c n => n.segmentEnd c lane how violation rest := rfl

@[simp] theorem Node.after_silenceTimeout (lane : Fin 4) (n : Node) :
    n.after (.silenceTimeout lane) = n.awake fun n => n.asBase fun c n => n.silenceTimeout c lane := rfl

@[simp] theorem Node.after_recordDeadline (frame : BitVec 8) (line : Nat) (n : Node) :
    n.after (.recordDeadline frame line) = n.awake fun n => n.asBase fun c n => n.recordDeadline c frame line := rfl

@[simp] theorem Node.after_recordEnd (n : Node) :
    n.after .recordEnd = n.awake fun n => n.asBase fun c n => (n.recordEnd c).seeReady true := rfl

@[simp] theorem Node.after_abortTaken (n : Node) :
    n.after .abortTaken = n.asBase fun _ n => Node.seeReady true { n with ou := n.ou.takeAbort } := rfl

@[simp] theorem Node.after_wordTaken (n : Node) :
    n.after .wordTaken = n.awake fun n => n.asBase fun _ n => Node.seeReady true { n with ou := n.ou.takeWord } := rfl

@[simp] theorem Node.after_stall (n : Node) :
    n.after .stall = n.awake fun n => n.asBase fun _ n => Node.seeReady false { n with ou := n.ou.stall } := rfl

/-! ## How a command answers -/

/-- Settles O5: each command's answer is a next state with the queue as it stands. -/
theorem everyCommandCompletes : Obligations.EveryCommandCompletes :=
  fun i s => Yields.of_next (exec_eq_next i s) trivial

/-- A command has the property exactly if the block after it has. -/
theorem yields_iff_after {i : Instr} {s : State} {P : Node → Prop} : Yields i s P ↔ P (s.node.after i) :=
  Yields.iff_next (exec_eq_next i s)

/-- A command that leaves the block as it is answers the same state. -/
theorem exec_eq_self {i : Instr} {s : State} (h : s.node.after i = s.node) : exec i s = .next s := by
  rw [exec_eq_next, h, State.next_eq]

/-- What one step makes of the block: a command's effect, or one tick. -/
theorem step_node_cases {s s' : State} (h : step s = .next s') :
    (∃ i, s'.node = s.node.after i) ∨ s'.node = s.node.tick := by
  unfold step at h
  split at h
  · next c rest _ =>
    rw [exec_eq_next] at h
    cases h
    exact .inl ⟨c, rfl⟩
  · split at h
    · next c _ =>
      rw [exec_eq_next] at h
      cases h
      exact .inl ⟨c, rfl⟩
    · cases h
      exact .inr rfl

/-- An invariant of the block that every command and one tick keep is kept by every step. -/
theorem step_keeps {P : Node → Prop} (hcommand : ∀ i n, P n → P (n.after i)) (htick : ∀ n, P n → P n.tick)
    (s s' : State) (hp : P s.node) (h : step s = .next s') : P s'.node := by
  obtain ⟨i, hi⟩ | ht := step_node_cases h
  · rw [hi]
    exact hcommand i _ hp
  · rw [ht]
    exact htick _ hp

/-- Settles O1: the step takes the command at the front off the queue. -/
theorem stepTakesTheFront : Obligations.StepTakesTheFront := fun _ _ _ => rfl

end Sys2Proof.Machine
end

section
/-! SUPPORT. Every command keeps the bounds of Safety.lean, and so does every step (O57). -/

namespace Sys2Proof.Machine

namespace Node.Bounded

variable {n : Node}

theorem enterRunning (h : n.Bounded) (c : Settled) : (n.enterRunning c).Bounded := by
  unfold Node.enterRunning
  split
  · exact Node.Bounded.queueAnnounce (n := { n with rh := { n.rh with lifecycle := .running } }) { h with } c
  · exact h

theorem endGuard (h : n.Bounded) : ({ n with si := n.si.endGuard } : Node).Bounded := by
  refine h.withSi ?_
  unfold Si.endGuard
  split
  · exact { h.si with }
  · exact h.si

theorem seeReady (h : n.Bounded) (v : Bool) : (n.seeReady v).Bounded := { h with }

theorem endIntegration (h : n.Bounded) : ({ n with si := n.si.endIntegration } : Node).Bounded := by
  refine h.withSi ?_
  unfold Si.endIntegration
  split
  · exact { h.si with }
  · exact h.si

/-- A command that acts on a condition only. -/
theorem ite (h : n.Bounded) {p : Prop} [Decidable p] {f : Node → Node} (hf : (f n).Bounded) :
    (if p then f n else n).Bounded := by
  split
  · exact hf
  · exact h

end Node.Bounded

/-- Every command keeps the bounds. -/
theorem Node.Bounded.after {n : Node} (h : n.Bounded) (i : Instr) : (n.after i).Bounded := by
  cases i with
  | powerOnReset role plane node adr =>
    rw [Node.after_powerOnReset]
    exact Node.powerOn_bounded _ _ _
  | rstNAsserted =>
    rw [Node.after_rstNAsserted]
    exact h.awake fun m hm => hm.assertReset
  | settle addr body =>
    rw [Node.after_settle]
    exact h.awake fun m hm => hm.request addr body fun m hm => hm.settle body
  | adjust addr body =>
    rw [Node.after_adjust]
    exact h.awake fun m hm => hm.request addr body fun m hm => hm.adjust body
  | send addr body =>
    rw [Node.after_send]
    exact h.awake fun m hm => hm.request addr body fun m hm => hm.send body
  | take addr body =>
    rw [Node.after_take]
    exact h.awake fun m hm => hm.request addr body fun m hm => hm.take body
  | status addr req =>
    rw [Node.after_status]
    exact h.awake fun m hm => hm.request addr req.body fun m hm => hm.status req.body req.cp req.pready
  | notices addr body =>
    rw [Node.after_notices]
    exact h.awake fun m hm => hm.request addr body fun m hm => hm.noticesRequest body
  | softReset addr body =>
    rw [Node.after_softReset]
    exact h.awake fun m hm => hm.request addr body fun m hm => hm.softResetRequest body
  | mailboxBadRequest addr bytes =>
    rw [Node.after_mailboxBadRequest]
    exact h.awake fun m hm => hm.ite (hm.badRequest bytes)
  | mailboxRead addr count =>
    rw [Node.after_mailboxRead]
    exact h.awake fun m hm => hm.ite (hm.mailboxRead count)
  | frameStart =>
    rw [Node.after_frameStart]
    exact h.awake fun m hm => hm.withCfg fun c m hm => hm.ite (hm.frameStart c)
  | runningEntry =>
    rw [Node.after_runningEntry]
    exact h.awake fun m hm => hm.withCfg fun c m hm => hm.enterRunning c
  | candidateRemoved =>
    rw [Node.after_candidateRemoved]
    exact h.awake fun m hm => hm.withCfg fun c m hm => hm.removeAged c
  | holdoverExpired =>
    rw [Node.after_holdoverExpired]
    exact h.awake fun m hm => hm.withCfg fun c m hm => hm.ite (hm.expireHoldover c)
  | probeTimeout =>
    rw [Node.after_probeTimeout]
    exact h.awake fun m hm => hm.ite (f := fun m => { m with du := m.du.abandonProbe })
      { hm with du := hm.du.abandonProbe }
  | strobeFire =>
    rw [Node.after_strobeFire]
    exact h.awake fun m hm => hm.withCfg fun c m hm => hm.strobeFire c
  | refinPulse =>
    rw [Node.after_refinPulse]
    exact h.awake fun m hm => hm.withCfg fun c m hm => hm.pulse c
  | referenceSilence =>
    rw [Node.after_referenceSilence]
    exact h.awake fun m hm => hm.withCfg fun c m hm => hm.ite (hm.loseReference c)
  | announceReceived key payload a =>
    rw [Node.after_announceReceived]
    exact h.awake fun m hm => hm.receive _ _ _ _ _ fun c t m hm => hm.announced c key payload t
  | delayProbeReceived key payload a =>
    rw [Node.after_delayProbeReceived]
    exact h.awake fun m hm => hm.receive _ _ _ _ _ fun c t m hm => hm.answerProbe key t
  | delayReplyReceived key payload a =>
    rw [Node.after_delayReplyReceived]
    exact h.awake fun m hm => hm.receive _ _ _ _ _ fun c t m hm => hm.delayReply c key payload t
  | controlReceived key payload a =>
    rw [Node.after_controlReceived]
    exact h.awake fun m hm => hm.controlReceived _ _ _ _ _
  | controlReplyReceived key payload a =>
    rw [Node.after_controlReplyReceived]
    exact h.awake fun m hm => hm.receive _ _ _ _ _ fun c t m hm => hm
  | unusableKind key payload a =>
    rw [Node.after_unusableKind]
    exact h.awake fun m hm => hm.receive _ _ _ _ _ fun c t m hm => hm.withMh { hm.mh with }
  | badForm key payload a =>
    rw [Node.after_badForm]
    exact h.awake fun m hm => hm.receive _ _ _ _ _ fun c t m hm => hm.withMh { hm.mh with }
  | userMailFiled key payload a =>
    rw [Node.after_userMailFiled]
    exact h.awake fun m hm => hm.receive _ _ _ _ _ fun c t m hm => hm.fileMail key payload t
  | messageStart =>
    rw [Node.after_messageStart]
    exact h.awake fun m hm => hm.withCfg fun c m hm => hm.messageStart c
  | arbitrationLost =>
    rw [Node.after_arbitrationLost]
    exact h.awake fun m hm => hm.loseArbitration
  | messageSent =>
    rw [Node.after_messageSent]
    exact h.awake fun m hm => hm.withCfg fun c m hm => hm.messageSent c
  | messageFailed =>
    rw [Node.after_messageFailed]
    exact h.awake fun m hm => hm.messageFailed
  | serviceError kind =>
    rw [Node.after_serviceError]
    exact h.awake fun m hm => hm.withCfg fun c m hm => hm.serviceError c kind
  | guardedWaitEnd =>
    rw [Node.after_guardedWaitEnd]
    exact h.awake fun m hm => hm.endGuard
  | silencedRecovery =>
    rw [Node.after_silencedRecovery]
    exact h.awake fun m hm => hm.recover
  | integrationEnd =>
    rw [Node.after_integrationEnd]
    exact h.awake fun m hm => hm.endIntegration
  | listenOnlyEffect =>
    rw [Node.after_listenOnlyEffect]
    exact h.awake fun m hm => hm.atIdlePoint
  | frameBegin =>
    rw [Node.after_frameBegin]
    exact h.awake fun m hm => hm.asHead fun c m hm => hm.frameBegin
  | lineBegin =>
    rw [Node.after_lineBegin]
    exact h.awake fun m hm => hm.asHead fun c m hm => hm.lineBegin
  | payloadWord pctl pd =>
    rw [Node.after_payloadWord]
    exact h.awake fun m hm => hm.asHead fun c m hm => by
      split
      · exact hm
      · exact hm.payload _
  | lineEnd =>
    rw [Node.after_lineEnd]
    exact h.awake fun m hm => hm.asHead fun c m hm => hm.lineEnd c
  | segmentLaunched =>
    rw [Node.after_segmentLaunched]
    exact h.awake fun m hm => hm.asHead fun c m hm => hm.ite hm.launched
  | carrierLoss p =>
    rw [Node.after_carrierLoss]
    exact h.awake fun m hm => hm.asBase fun c m hm => hm.carrierLoss c p
  | startDelimiter p cp =>
    rw [Node.after_startDelimiter]
    exact h.awake fun m hm => hm.asBase fun c m hm => hm.startDelimiter c p cp
  | segmentHeader p bytes =>
    rw [Node.after_segmentHeader]
    exact h.awake fun m hm => hm.asBase fun c m hm => hm.segmentHeader c p bytes
  | segmentEnd p how v rest =>
    rw [Node.after_segmentEnd]
    exact h.awake fun m hm => hm.asBase fun c m hm => hm.segmentEnd c p how v rest
  | silenceTimeout p =>
    rw [Node.after_silenceTimeout]
    exact h.awake fun m hm => hm.asBase fun c m hm => hm.silenceTimeout c p
  | recordDeadline f l =>
    rw [Node.after_recordDeadline]
    exact h.awake fun m hm => hm.asBase fun c m hm => hm.recordDeadline c f l
  | recordEnd =>
    rw [Node.after_recordEnd]
    exact h.awake fun m hm => hm.asBase fun c m hm => (hm.recordEnd c).seeReady true
  | abortTaken =>
    rw [Node.after_abortTaken]
    exact h.asBase fun c m hm => (hm.withOu (by rw [Ou.takeAbort_queue]; exact hm.places)).seeReady true
  | wordTaken =>
    rw [Node.after_wordTaken]
    exact h.awake fun m hm => hm.asBase fun c m hm =>
      (hm.withOu (by rw [Ou.takeWord_queue]; exact hm.places)).seeReady true
  | stall =>
    rw [Node.after_stall]
    exact h.awake fun m hm => hm.asBase fun c m hm =>
      (hm.withOu (by rw [Ou.stall_queue]; exact hm.places)).seeReady false

/-- Settles O57: every command and one tick keep the bounds. -/
theorem stepKeepsBounds : Obligations.StepKeepsBounds := step_keeps (fun i _ h => h.after i) fun _ h => h.tick

end Sys2Proof.Machine
end

section
/-! SUPPORT. The frame of the control side: no operation of the timebase, the discipline unit, the strobe generator, the
service interface, the message handler and the mailbox's ordinary requests reaches the path of the lines, the straps
or the settled configuration, and each keeps SI's TEC as its state allows it. -/

namespace Sys2Proof.Machine

/-! ## The frame -/

/-- TEC as the state of SI allows it: 0 until SI has integrated, below 192 in ACTIVE and GUARDED (R163, R165). -/
structure Si.TecFits (si : Si) : Prop where
  rest : si.state = .off ∨ si.state = .integrating → si.tec = 0
  work : si.state = .active ∨ si.state = .guarded → si.tec < 192

/-- What the control side may change: its own blocks and the pins. The generator runs on if it runs, SI does not leave or
enter OFF, and the lifecycle neither leaves nor enters UNSETTLED. -/
structure ControlFrame (n t : Node) : Prop where
  frame : t = { n with
    tb := t.tb, du := t.du, sg := t.sg, si := t.si, mh := t.mh, rh := t.rh, pins := t.pins, freeIdx := t.freeIdx }
  straps : t.rh.straps = n.rh.straps
  settled : t.rh.settled = n.rh.settled
  gen : t.tb.gen.isSome = n.tb.gen.isSome
  life : t.rh.lifecycle = .unsettled ↔ n.rh.lifecycle = .unsettled
  off : t.si.state = .off ↔ n.si.state = .off
  tec : n.si.TecFits → t.si.TecFits

namespace ControlFrame

variable {a b t n : Node}

theorem refl (n : Node) : ControlFrame n n := ⟨rfl, rfl, rfl, rfl, Iff.rfl, Iff.rfl, id⟩

theorem trans (h1 : ControlFrame a b) (h2 : ControlFrame b t) : ControlFrame a t :=
  ⟨by rw [h2.frame, h1.frame], h2.straps.trans h1.straps, h2.settled.trans h1.settled, h2.gen.trans h1.gen,
    h2.life.trans h1.life, h2.off.trans h1.off, fun h => h2.tec (h1.tec h)⟩

theorem ite {p : Prop} [Decidable p] (h : ControlFrame n t) : ControlFrame n (if p then t else n) := by
  split
  · exact h
  · exact refl n

theorem of_du (n : Node) (d : Du) : ControlFrame n { n with du := d } := ⟨rfl, rfl, rfl, rfl, Iff.rfl, Iff.rfl, id⟩

theorem of_mh (n : Node) (m : Mh) : ControlFrame n { n with mh := m } := ⟨rfl, rfl, rfl, rfl, Iff.rfl, Iff.rfl, id⟩

theorem of_sg (n : Node) (g : Sg) : ControlFrame n { n with sg := g } := ⟨rfl, rfl, rfl, rfl, Iff.rfl, Iff.rfl, id⟩

theorem of_pins (n : Node) (p : Pins) : ControlFrame n { n with pins := p } :=
  ⟨rfl, rfl, rfl, rfl, Iff.rfl, Iff.rfl, id⟩

theorem of_tb (n : Node) (tb : Tb) (h : tb.gen.isSome = n.tb.gen.isSome := by rfl) :
    ControlFrame n { n with tb := tb } :=
  ⟨rfl, rfl, rfl, h, Iff.rfl, Iff.rfl, id⟩

theorem of_rh (n : Node) (rh : Rh) (hstraps : rh.straps = n.rh.straps := by rfl)
    (hsettled : rh.settled = n.rh.settled := by rfl)
    (hlife : rh.lifecycle = .unsettled ↔ n.rh.lifecycle = .unsettled := by rfl) :
    ControlFrame n { n with rh := rh } :=
  ⟨rfl, hstraps, hsettled, rfl, hlife, Iff.rfl, id⟩

theorem of_si (n : Node) (si : Si) (hstate : si.state = n.si.state := by rfl) (htec : si.tec = n.si.tec := by rfl) :
    ControlFrame n { n with si := si } :=
  ⟨rfl, rfl, rfl, rfl, Iff.rfl, by rw [hstate], fun ⟨h1, h2⟩ => ⟨by rwa [hstate, htec], by rwa [hstate, htec]⟩⟩

theorem of_clock {si : Si} (h : ClockFrame n.si si) : ControlFrame n { n with si := si } := of_si n si h.state h.tec

theorem raise (n : Node) (src : Source) : ControlFrame n (n.raise src) := of_rh n _

theorem raiseIf (n : Node) (p : Bool) (src : Source) : ControlFrame n (n.raiseIf p src) := by
  cases p
  · exact refl n
  · exact raise n src

theorem setMailbox (n : Node) (m : Mailbox) : ControlFrame n (n.setMailbox m) := of_rh n _

end ControlFrame

/-- A change of state or source and a selection stay within the control side. -/
theorem SelectFrame.control {n t : Node} (h : SelectFrame n t) : ControlFrame n t := by
  have hframe := h.frame
  refine ⟨?_, ?_, ?_, ?_, ?_, ?_, ?_⟩
  · rw [hframe]
  · rw [hframe]
  · rw [hframe]
  · rw [hframe]
  · rw [hframe]
  · rw [hframe]
  · rw [hframe]
    exact id

/-! ## The timebase and the discipline unit -/

section
variable (c : Settled) (n : Node)

theorem Node.enter_control (state : TbState) (source : BitVec 4) : ControlFrame n (n.enter c state source) :=
  (n.enter_selectFrame c state source).control

theorem Node.select_control : ControlFrame n (n.select c) := (n.select_selectFrame c).control

theorem Node.refreshClass_control : ControlFrame n (n.refreshClass c) := (n.refreshClass_selectFrame c).control

theorem Node.expireHoldover_control : ControlFrame n (n.expireHoldover c) :=
  ((n.enter_control c _ _).trans (.raise _ _)).trans (Node.refreshClass_control c _)

theorem Node.spendCredit_control : ControlFrame n (n.spendCredit c) := by
  unfold Node.spendCredit
  refine ControlFrame.ite ((ControlFrame.of_du n { n.du with credit := n.du.credit - 1 }).trans ?_)
  exact (Node.expireHoldover_control c _).ite

theorem Node.removeAged_control : ControlFrame n (n.removeAged c) := by
  unfold Node.removeAged
  split
  · exact .refl n
  · exact (ControlFrame.of_du n _).trans (Node.select_control c _)

theorem Node.ageCands_control : ControlFrame n (n.ageCands c) :=
  (ControlFrame.of_du n _).trans (Node.removeAged_control c _)

theorem Node.queueProbe_control : ControlFrame n (n.queueProbe c) := by
  unfold Node.queueProbe
  extract_lets du1 n1
  have hdown : ControlFrame n n1 := .of_du n _
  refine hdown.trans (ControlFrame.ite ?_)
  exact (ControlFrame.of_mh n1 { n1.mh with probe := some n1.du.source }).trans
    (.of_du _ { n1.du with countdown := 4 * c.m })

theorem Node.queueAnnounce_control : ControlFrame n (n.queueAnnounce c) := by
  unfold Node.queueAnnounce
  exact (ControlFrame.of_mh n _).ite

/-- The joining count leaves straps and configuration, and does not touch UNSETTLED. -/
theorem Rh.countJoining_frame (rh : Rh) : rh.countJoining.straps = rh.straps ∧ rh.countJoining.settled = rh.settled
    ∧ (rh.countJoining.lifecycle = .unsettled ↔ rh.lifecycle = .unsettled) := by
  unfold Rh.countJoining
  split
  · next h => split <;> simp [h]
  · exact ⟨rfl, rfl, Iff.rfl⟩

end

/-- A frame start comes only where the generator runs, and begins the next frame. -/
theorem Node.frameStartTb_control (c : Settled) {n : Node} (h : n.tb.gen.isSome = true) :
    ControlFrame n (n.frameStartTb c) := by
  obtain ⟨hstraps, hsettled, hlife⟩ := n.rh.applyRuntime.countJoining_frame
  have hgen : (n.tb.frameStart c n.rh.pending.preset).gen.isSome = n.tb.gen.isSome := h.symm
  exact ((ControlFrame.of_tb n _ hgen).trans (.of_sg _ _)).trans (.of_rh _ _ hstraps hsettled hlife)

theorem Node.frameStartDu_control (c : Settled) (n : Node) : ControlFrame n (n.frameStartDu c) := by
  unfold Node.frameStartDu
  exact ((((Node.spendCredit_control c _).trans (Node.ageCands_control c _)).trans (.of_du _ _)).trans
    (Node.queueProbe_control c _)).trans (Node.queueAnnounce_control c _)

theorem Node.frameStart_control (c : Settled) {n : Node} (h : n.tb.gen.isSome = true) :
    ControlFrame n (n.frameStart c) := (Node.frameStartTb_control c h).trans (Node.frameStartDu_control c _)

theorem Tb.gen_of_frameDue {tb : Tb} (h : tb.frameDue = true) : tb.gen.isSome = true := by
  unfold Tb.frameDue at h
  split at h
  · cases h
  · next g hg => rw [hg, Option.isSome_some]

/-- A frame start that is due. -/
theorem Node.frameStart_due_control (c : Settled) (n : Node) :
    ControlFrame n (if n.tb.frameDue then n.frameStart c else n) := by
  split
  · next h => exact Node.frameStart_control c (Tb.gen_of_frameDue h)
  · exact .refl n

section
variable (c : Settled) (n : Node)

theorem Node.stepBy_control (e : Int) : ControlFrame n (n.stepBy c e) := by
  unfold Node.stepBy
  extract_lets isRef lost tb1 du1 n1 n2 n3
  have h1 : ControlFrame n n1 :=
    (ControlFrame.of_tb n { n.tb.requestStep e with q := n.du.i } (by simp [Tb.requestStep])).trans (.of_du _ _)
  have h2 : ControlFrame n n2 := (h1.trans (.raise _ _)).trans (.raiseIf _ _ _)
  have h3 : ControlFrame n2 n3 := ((Node.enter_control c n2 _ _).trans (Node.refreshClass_control c _)).ite
  exact (h2.trans h3).trans (Node.frameStart_due_control c n3)

theorem Node.gainLock_control : ControlFrame n (n.gainLock c) := by
  unfold Node.gainLock
  split
  · exact ((Node.enter_control c n _ _).trans (.raise _ _)).trans (Node.refreshClass_control c _)
  · exact (ControlFrame.of_du n _).trans (.raise _ _)
  · exact .refl n

theorem Node.loseTracking_control : ControlFrame n n.loseTracking :=
  ((ControlFrame.of_du n _).trans (.raise _ _)).ite

theorem Node.slew_control (m : Nat) (e : Int) : ControlFrame n (n.slew c m e) := by
  unfold Node.slew
  extract_lets before tb1 du1 n1
  have h1 : ControlFrame n n1 := (ControlFrame.of_tb n { n.tb with q := newTrim m e n.du.i }).trans (.of_du _ _)
  refine h1.trans ?_
  split
  · exact (Node.gainLock_control c n1).ite
  · exact n1.loseTracking_control

theorem Node.correct_control (m : Nat) (e : Int) : ControlFrame n (n.correct c m e) := by
  unfold Node.correct
  split
  · exact n.stepBy_control c _
  · exact n.slew_control c m _

theorem Node.relabel_control (label nSrc : Word16) : ControlFrame n (n.relabel label nSrc) := by
  unfold Node.relabel
  split
  · exact .refl n
  · exact (ControlFrame.of_tb n (n.tb.renumber label nSrc)).trans (.raise _ _)

theorem Node.measureAnnounce_control (a : AnnounceBody) (stamp : Word32) :
    ControlFrame n (n.measureAnnounce c a stamp) := by
  unfold Node.measureAnnounce
  split
  · exact n.correct_control c _ _
  · split
    · exact .refl n
    · exact (n.relabel_control _ _).trans (Node.correct_control c _ _ _)

theorem Tb.handOff_gen (t : Timecode) (nSrc : Word16) (tb : Tb) : (tb.handOff c t nSrc).gen = tb.gen := by
  unfold Tb.handOff
  split <;> rfl

theorem Node.followAnnounce_control (sender : BitVec 4) (a : AnnounceBody) (stamp : Word32) :
    ControlFrame n (n.followAnnounce c sender a stamp) := by
  unfold Node.followAnnounce
  refine ControlFrame.ite ((n.measureAnnounce_control c a stamp).trans ?_)
  exact (ControlFrame.of_tb _ _ (congrArg Option.isSome (Tb.handOff_gen c _ _ _))).ite

theorem Node.ignoreAnnounce_control : ControlFrame n n.ignoreAnnounce := .of_du n _

theorem Node.announced_control (key : Key) (payload : List Byte) (stamp : Word32) :
    ControlFrame n (n.announced c key payload stamp) := by
  by_cases hbarred : announceNode key = n.rh.straps.node ∨ announceClass key = 3
  · rw [Node.announced_of_barred hbarred]
    exact n.ignoreAnnounce_control
  · obtain ⟨hnode, hcls⟩ := not_or.1 hbarred
    cases htable : tableAfter (announceNode key) (announceClass key) n.du.cands with
    | none =>
      rw [Node.announced_of_refused htable]
      exact n.ignoreAnnounce_control
    | some r =>
      rw [Node.announced_of_taken hnode hcls htable]
      have htabled : ControlFrame n (n.tabled (announceNode key) (announceClass key) r.1) := .of_du n _
      exact ((htabled.trans (Node.reselect_selectFrame c _ _).control).trans
        (Node.yieldTo_selectFrame _ _ _).control).trans (Node.followAnnounce_control c _ _ _ _)

theorem Node.takeDelay_control (d : Int) : ControlFrame n (n.takeDelay c d) := by
  unfold Node.takeDelay
  split
  · exact .of_du n _
  · exact (ControlFrame.of_du n _).trans (.raiseIf _ _ _)

theorem Node.delayReply_control (key : Key) (payload : List Byte) (stamp : Word32) :
    ControlFrame n (n.delayReply c key payload stamp) := by
  unfold Node.delayReply
  refine ControlFrame.ite ?_
  split
  · exact .of_du n _
  · split
    · exact (ControlFrame.of_du n _).trans (Node.takeDelay_control c _ _)
    · exact .of_du n _

theorem Node.loseReference_control : ControlFrame n (n.loseReference c) :=
  ((ControlFrame.of_du n _).trans (.raiseIf _ _ _)).trans (Node.refreshClass_control c _)

theorem Node.measurePulse_control : ControlFrame n (n.measurePulse c) := by
  unfold Node.measurePulse
  refine ControlFrame.ite ?_
  split
  · exact .refl n
  · exact n.correct_control c _ _

theorem Node.pulse_control : ControlFrame n (n.pulse c) := by
  unfold Node.pulse
  split
  · exact ((ControlFrame.of_du n _).trans (Node.refreshClass_control c _)).trans (Node.measurePulse_control c _)
  · exact (ControlFrame.of_du n _).trans (Node.loseReference_control c _).ite

theorem Node.enterRunning_control : ControlFrame n (n.enterRunning c) := by
  unfold Node.enterRunning
  split
  · next h =>
    simp only [Bool.and_eq_true, decide_eq_true_eq] at h
    exact (ControlFrame.of_rh n { n.rh with lifecycle := .running } rfl rfl (by simp [h.1])).trans
      (Node.queueAnnounce_control c _)
  · exact .refl n

theorem Node.strobeFire_control : ControlFrame n (n.strobeFire c) := (ControlFrame.of_sg n _).ite

end

/-! ## The service interface and the message handler -/

/-- The state following the counts fits TEC, whatever it was in ACTIVE and GUARDED before. -/
theorem Node.followCounts_tecFits {n : Node}
    (h : n.si.state = .off ∨ n.si.state = .integrating → n.si.tec = 0) : n.followCounts.si.TecFits := by
  have hcount : n.si.countState ≠ .off ∧ n.si.countState ≠ .integrating := by
    unfold Si.countState
    split
    · exact ⟨nofun, nofun⟩
    · split <;> exact ⟨nofun, nofun⟩
  unfold Node.followCounts
  split
  · refine ⟨fun hrest => ?_, fun hwork => ?_⟩
    · simp [Si.moveTo, hcount] at hrest
    · have hne : n.si.countState ≠ .silenced := by
        rintro hs
        simp [Si.moveTo, hs] at hwork
      have := Si.countState_eq_silenced.not.1 hne
      simpa [Si.moveTo] using this
  · next hstay =>
    refine ⟨h, fun hwork => ?_⟩
    have heq : n.si.countState = n.si.state := by simpa [hwork] using hstay
    have hne : n.si.countState ≠ .silenced := by rcases hwork with hw | hw <;> simp [heq, hw]
    simpa using Si.countState_eq_silenced.not.1 hne

/-- The state following the counts does not leave or enter OFF. -/
theorem Node.followCounts_off (n : Node) : n.followCounts.si.state = .off ↔ n.si.state = .off := by
  unfold Node.followCounts
  split
  · next h =>
    have hcount : n.si.countState ≠ .off := by
      unfold Si.countState
      split
      · nofun
      · split <;> nofun
    simp only [Bool.and_eq_true, Bool.or_eq_true, decide_eq_true_eq] at h
    rcases h.1 with hs | hs <;> simp [Si.moveTo, hcount, hs]
  · rfl

/-- SI changed, its state kept, then the state following the counts. -/
theorem ControlFrame.of_counts (n : Node) (si : Si) (hstate : si.state = n.si.state)
    (htec : n.si.TecFits → si.state = .off ∨ si.state = .integrating → si.tec = 0) :
    ControlFrame n (Node.followCounts { n with si := si }) := by
  have hframe := Node.followCounts_frame { n with si := si }
  refine ⟨?_, ?_, ?_, ?_, ?_, ?_, fun h => Node.followCounts_tecFits (htec h)⟩
  · rw [hframe]
  · rw [hframe]
  · rw [hframe]
  · rw [hframe]
  · rw [hframe]
  · rw [Node.followCounts_off, hstate]

section
variable (n : Node)

theorem Node.withdrawAnnounce_control : ControlFrame n n.withdrawAnnounce :=
  n.withdrawAnnounce_selectFrame.control

theorem Node.emptyProbe_control : ControlFrame n n.emptyProbe := n.emptyProbe_selectFrame.control

theorem Node.setListenOnly_control (v : Bool) : ControlFrame n (n.setListenOnly v) := by
  unfold Node.setListenOnly
  refine ((ControlFrame.of_si n { n.si with listenOnly := v || n.rh.straps.node == 15 }).trans
    (.of_rh _ { n.rh with pending := { n.rh.pending with listenOnly := none } })).trans ?_
  exact ((Node.withdrawAnnounce_control _).trans (Node.emptyProbe_control _)).ite

theorem Node.atIdlePoint_control : ControlFrame n n.atIdlePoint := by
  unfold Node.atIdlePoint
  refine ControlFrame.ite ?_
  unfold Node.takeListenOnly
  split
  · exact .refl n
  · exact n.setListenOnly_control _

theorem Node.beginMessage_control (o : Offer) : ControlFrame n (n.beginMessage o) :=
  (ControlFrame.of_mh n (n.mh.takeOffer o.place)).trans (.of_si _ _)

theorem Node.messageStart_control (c : Settled) : ControlFrame n (n.messageStart c) := by
  unfold Node.messageStart
  refine ControlFrame.ite (n.atIdlePoint_control.trans ?_)
  unfold Node.offer
  refine ControlFrame.ite ?_
  split
  · exact .refl _
  · exact Node.beginMessage_control _ _

theorem Node.report_control (p : Place) (sent : Bool) (stamp : Word32) : ControlFrame n (n.report p sent stamp) := by
  have hdu : ControlFrame n (n.reportDu p sent stamp) := by
    unfold Node.reportDu
    split
    · exact .of_du n _
    · exact .refl n
  exact (hdu.trans (.of_mh _ _)).trans (.raiseIf _ _ _)

theorem Node.messageSent_control (c : Settled) : ControlFrame n (n.messageSent c) := by
  unfold Node.messageSent
  split
  · exact .refl n
  · split
    · exact .refl n
    · extract_lets si1 m
      have hcounts : ControlFrame n m := ControlFrame.of_counts n _ rfl fun hfit hrest => by simp [hfit.rest hrest]
      exact (hcounts.trans (.of_si m m.si.afterOwn)).trans (Node.report_control _ _ _ _)

theorem Node.messageFailed_control : ControlFrame n n.messageFailed := by
  unfold Node.messageFailed
  split
  · exact .refl n
  · exact (ControlFrame.of_si n _).trans (Node.report_control _ _ _ _)

theorem Node.loseArbitration_control : ControlFrame n n.loseArbitration := by
  unfold Node.loseArbitration
  split
  · exact .refl n
  · next o _ =>
    split
    · exact .refl n
    · extract_lets m
      have hgive : ControlFrame n m :=
        (ControlFrame.of_mh n (n.mh.giveUpOffer o.place)).trans (.of_si _ (n.si.becomeReceiver o.stamp))
      refine hgive.trans ?_
      split
      · exact .refl m
      · exact m.withdrawAnnounce_control

theorem Si.afterError_state (c : Settled) (kind : CarrierError) (wasActive : Bool) (si : Si) :
    (si.afterError c kind wasActive).state = si.state ∧ (si.afterError c kind wasActive).tec = si.tec := by
  unfold Si.afterError
  split <;> exact ⟨rfl, rfl⟩

theorem Node.serviceError_control (c : Settled) (kind : CarrierError) : ControlFrame n (n.serviceError c kind) := by
  unfold Node.serviceError
  split
  · next hcan =>
    have hafter := Si.afterError_state c kind (n.si.state == .active)
      (Node.followCounts { n with si := n.si.countError kind }).si
    refine (ControlFrame.of_counts n (n.si.countError kind) rfl ?_).trans (.of_si _ _ hafter.1 hafter.2)
    rintro - (hoff | hint)
    · have hstate : n.si.state = .off := hoff
      simp [Si.canErr, SiState.isOn, hstate] at hcan
    · have hstate : n.si.state = .integrating := hint
      simp [Si.canErr, SiState.isOn, hstate] at hcan
  · exact .refl n

theorem Node.endGuard_control : ControlFrame n { n with si := n.si.endGuard } := by
  unfold Si.endGuard
  split
  · exact .of_si n _
  · exact .refl n

theorem Node.recover_control : ControlFrame n n.recover := by
  unfold Node.recover
  split
  · next h =>
    simp only [Bool.and_eq_true, decide_eq_true_eq] at h
    have hsi : ControlFrame n { n with si := { n.si with
        state := .active, tec := 0, recCount := 0, recovery := 0, recoveryRun := 0
        phase := .idle, spaces := 0, rxStamp := none, found := none } } :=
      ⟨rfl, rfl, rfl, rfl, Iff.rfl, by simp [h.1], fun _ => ⟨fun _ => rfl, fun _ => by simp⟩⟩
    exact hsi.trans (.raise _ _)
  · exact .refl n

theorem Node.endIntegration_control : ControlFrame n { n with si := n.si.endIntegration } := by
  unfold Si.endIntegration
  split
  · next h =>
    simp only [Bool.and_eq_true, decide_eq_true_eq] at h
    refine ⟨rfl, rfl, rfl, rfl, Iff.rfl, by simp [h.1], fun hfit => ⟨by simp, fun _ => ?_⟩⟩
    show n.si.tec < 192
    rw [hfit.rest (.inr h.1)]
    decide
  · exact .refl n

theorem Node.received_control (c : Settled) (key : Key) (payload : List Byte) (marked : Bool) :
    ControlFrame n (n.received c key payload marked) := by
  have hspaces := n.si.countSpaces_frame key payload marked
  refine ControlFrame.of_counts n _ hspaces.state fun hfit hrest => ?_
  exact hspaces.tec.trans (hfit.rest (hspaces.state ▸ hrest))

theorem Node.answerProbe_control (key : Key) (stamp : Word32) : ControlFrame n (n.answerProbe key stamp) := by
  unfold Node.answerProbe
  split
  · exact .refl n
  · split
    · exact .of_mh n _
    · split <;> exact .of_mh n _

theorem Node.fileMail_control (key : Key) (payload : List Byte) (stamp : Word32) :
    ControlFrame n (n.fileMail key payload stamp) := by
  unfold Node.fileMail
  extract_lets m
  split
  · exact (ControlFrame.of_mh n _).trans (.raise _ _)
  · exact (ControlFrame.of_mh n _).trans (.raise _ _)
  · exact .of_mh n _

/-! ## Requests of the mailbox that reach the control side only -/

theorem Node.takeItem_control (c : Settled) (i : AdjustItem) : ControlFrame n (n.takeItem c i) := by
  cases i with
  | schedule _ l => exact .of_sg n _
  | _ => exact .of_rh n _

theorem Node.takeItems_control (c : Settled) (l : List AdjustItem) : ControlFrame n (n.takeItems c l) := by
  have hfold : ∀ (l : List AdjustItem) (n : Node), ControlFrame n (l.foldl (fun n i => n.takeItem c i) n) := by
    intro l
    induction l with
    | nil => exact .refl
    | cons i l ih => exact fun n => (n.takeItem_control c i).trans (ih _)
  exact (hfold l n).trans (Node.atIdlePoint_control _)

theorem Node.adjust_control (body : List Byte) : ControlFrame n (n.adjust body).1 := by
  unfold Node.adjust
  split
  · exact .refl n
  · split
    · exact .refl n
    · unfold Node.adjustItems
      split
      · exact n.takeItems_control _ _
      · exact .refl n

theorem Node.send_control (body : List Byte) : ControlFrame n (n.send body).1 := by
  unfold Node.send
  split
  · exact .refl n
  · exact .of_mh n _

theorem Node.take_control (body : List Byte) : ControlFrame n (n.take body).1 := by
  unfold Node.take
  split
  · exact .refl n
  · split
    · exact .refl n
    · exact .of_mh n _

theorem Node.noticesRequest_control (body : List Byte) : ControlFrame n (n.noticesRequest body).1 := by
  unfold Node.noticesRequest
  split
  · exact .refl n
  · exact ⟨rfl, rfl, rfl, rfl, Iff.rfl, Iff.rfl, id⟩

theorem Node.badRequest_control (bytes : List Byte) : ControlFrame n (n.badRequest bytes) := by
  unfold Node.badRequest
  split
  · exact .setMailbox n _
  · exact .setMailbox n _
  · exact .refl n

theorem Node.mailboxRead_control (count : Nat) : ControlFrame n (n.mailboxRead count) := by
  unfold Node.mailboxRead
  split <;> exact .of_rh n _

theorem Node.placeReply_control (requester : BitVec 4) (r : Response) : ControlFrame n (n.placeReply requester r) := by
  unfold Node.placeReply
  split <;> exact .of_mh n _

/-! ## One tick -/

theorem Tb.onTick_gen (c : Option Settled) (tb : Tb) : (tb.onTick c).gen = tb.gen := by
  unfold Tb.onTick
  split
  · unfold Tb.advance
    split <;> rfl
  · rfl

theorem Node.tick_control : ControlFrame n n.tick := by
  unfold Node.tick Node.awake
  split
  · exact .refl n
  · have hclock : ClockFrame n.si (n.si.tickWith n.rh.settled (n.tb.e + 1) (n.pins.svc.headD true)) := by
      unfold Si.tickWith
      split
      · exact ClockFrame.refl _
      · exact Si.tick_frame _ _ _ _
    exact (((ControlFrame.of_tb n _ (congrArg Option.isSome (Tb.onTick_gen _ _))).trans (.of_sg _ _)).trans
      (.of_clock hclock)).trans (.of_pins _ _)

end

end Sys2Proof.Machine
end

section
/-! SUPPORT. The frames of the two line sides: what the commands of a working base (lanes, stitch engine, output port) and
those of a working head (plane port, uplink) may change. -/

namespace Sys2Proof.Machine

/-! ## The base role -/

/-- What the lanes, the stitch engine and the output port may change: their own blocks, the store, the pins and the
notices. -/
structure BaseFrame (n t : Node) : Prop where
  frame : t = { n with
    ss := t.ss, rl := t.rl, se := t.se, ou := t.ou, pins := t.pins, rh := { n.rh with notices := t.rh.notices } }

namespace BaseFrame

variable {a b t n : Node}

theorem refl (n : Node) : BaseFrame n n := ⟨rfl⟩

theorem trans (h1 : BaseFrame a b) (h2 : BaseFrame b t) : BaseFrame a t := ⟨by rw [h2.frame, h1.frame]⟩

theorem ite {p : Prop} [Decidable p] (h : BaseFrame n t) : BaseFrame n (if p then t else n) := by
  split
  · exact h
  · exact refl n

theorem of_engine (h : EngineFrame n t) : BaseFrame n t := ⟨by rw [h.frame]⟩

theorem of_ss (n : Node) (ss : Ss) : BaseFrame n { n with ss := ss } := ⟨rfl⟩

theorem of_se (n : Node) (se : Se) : BaseFrame n { n with se := se } := ⟨rfl⟩

theorem of_ou (n : Node) (ou : Ou) : BaseFrame n { n with ou := ou } := ⟨rfl⟩

theorem onLane (n : Node) (p : Fin 4) (f : Lane → Lane) : BaseFrame n (n.onLane p f) := ⟨rfl⟩

theorem raise (n : Node) (src : Source) : BaseFrame n (n.raise src) := ⟨rfl⟩

theorem raiseIf (n : Node) (p : Bool) (src : Source) : BaseFrame n (n.raiseIf p src) := by
  cases p <;> exact ⟨rfl⟩

theorem countLane (n : Node) (p : Fin 4) (k : LaneCount) : BaseFrame n (n.countLane p k) :=
  (onLane n p _).trans (raiseIf _ _ _)

theorem settleRefs (n : Node) : BaseFrame n n.settleRefs := ⟨rfl⟩

theorem seeReady (n : Node) (v : Bool) : BaseFrame n (n.seeReady v) := ⟨rfl⟩

theorem seeCarrier (n : Node) (p : Fin 4) (v : Bool) : BaseFrame n (n.seeCarrier p v) := ⟨rfl⟩

theorem runEngine (n : Node) (c : Settled) : BaseFrame n (n.runEngine c) := of_engine (n.runEngine_frame c)

theorem abandon (n : Node) (p : Fin 4) : BaseFrame n (n.abandon p) := by
  refine BaseFrame.trans (b := n.giveBack (n.lane p).seg.buffer) ?_ (onLane _ _ _)
  cases (n.lane p).seg.buffer <;> exact ⟨rfl⟩

end BaseFrame

section
variable (c : Settled) (n : Node)

/-! ### The engine's own steps on a full table -/

theorem Node.releaseGap_frame (f : FrameCtx) : EngineFrame n (n.releaseGap f) := n.releaseLine_frame _ _ _ _ _

theorem Node.releaseRecord_frame (f : FrameCtx) (r : Record) (cause : Cause) :
    EngineFrame n (n.releaseRecord f r cause) :=
  (EngineFrame.of_se n _).trans (Node.releaseLine_frame _ _ _ _ _ _)

theorem Node.forceStep_frame (f : FrameCtx) (r : Record) : EngineFrame n (n.forceStep c f r) := by
  unfold Node.forceStep
  split
  · exact n.advanceFrame_frame f
  · split
    · exact n.releaseRecord_frame f r _
    · exact n.releaseGap_frame f

theorem Node.force_frame (k : Nat) (n : Node) : EngineFrame n (n.force c k) := by
  induction k generalizing n with
  | zero => exact .refl n
  | succ k ih =>
    unfold Node.force
    split
    · split
      · exact .refl n
      · split
        · exact .refl n
        · exact (n.forceStep_frame c _ _).trans (ih _)
    · exact .refl n

theorem Node.walkTo_frame (frame : BitVec 8) (line : Nat) (k : Nat) (n : Node) :
    EngineFrame n (n.walkTo c frame line k) := by
  induction k generalizing n with
  | zero => exact .refl n
  | succ k ih =>
    unfold Node.walkTo
    split
    · split
      · exact .refl n
      · split
        · exact (n.advanceFrame_frame _).trans (ih _)
        · exact (n.releaseGap_frame _).trans (ih _)
    · exact .refl n

theorem Node.raiseStray_frame : EngineFrame n (n.raiseStray c) := by
  unfold Node.raiseStray
  split
  · split
    · exact .of_se n _
    · exact ((EngineFrame.of_se n { n.se with resyncStray := Counter.bump n.se.resyncStray }).trans
        (Node.enterFlushing_frame _ _)).trans (Node.runEngine_frame c _)
  · exact .refl n

/-! ### Deliveries -/

theorem Node.accept_base (f : FrameCtx) (d : Delivery) : BaseFrame n (n.accept c f d) := by
  unfold Node.accept
  exact BaseFrame.trans ⟨rfl⟩ (.runEngine _ c)

theorem Node.deliverIdle_base (d : Delivery) : BaseFrame n (n.deliverIdle c d).1 := by
  unfold Node.deliverIdle
  split
  · exact .refl n
  · split
    · exact (BaseFrame.of_se n _).trans (Node.accept_base c _ _ _)
    · exact .refl n

theorem Node.ownLine_base (f : FrameCtx) (d : Delivery) : BaseFrame n (n.ownLine c f d) := by
  unfold Node.ownLine
  exact (BaseFrame.trans ⟨rfl⟩ (.of_engine (Node.releaseLine_frame _ _ _ _ _ _))).trans (.runEngine _ c)

theorem Node.deliverFull_base (f : FrameCtx) (r : Record) (d : Delivery) : BaseFrame n (n.deliverFull c f r d).1 := by
  unfold Node.deliverFull
  split
  · split
    · exact .refl n
    · refine BaseFrame.trans (.of_engine (n.walkTo_frame c d.frame d.line 4)) ?_
      dsimp only
      split
      · exact Node.ownLine_base c _ _ _
      · exact Node.deliverIdle_base c _ _
  · split
    · exact .refl n
    · refine BaseFrame.trans (.of_engine (n.force_frame c 4)) ?_
      dsimp only
      split
      · split
        · exact Node.accept_base c _ _ _
        · exact .refl _
      · exact Node.deliverIdle_base c _ _

theorem Node.deliver_base (d : Delivery) : BaseFrame n (n.deliver c d).1 := by
  unfold Node.deliver
  split
  · exact n.deliverIdle_base c d
  · split
    · unfold Node.deliverRun
      split
      · split
        · exact n.deliverFull_base c _ _ d
        · exact n.accept_base c _ d
      · exact n.accept_base c _ d
    · exact .of_engine (n.raiseStray_frame c)
    · exact .refl n
  · exact .refl n

theorem Node.planeLost_base (p : Fin 4) : BaseFrame n (n.planeLost c p) := by
  unfold Node.planeLost
  extract_lets se1 m
  have hset : BaseFrame n m := .of_se n _
  refine hset.trans ?_
  split
  · exact .refl m
  · exact .of_se m _
  · extract_lets g
    split
    · exact ((BaseFrame.of_se m _).trans (.of_engine (Node.enterFlushing_frame _ _))).trans (.runEngine _ c)
    · exact ((BaseFrame.of_se m _).trans (.of_engine (Node.reevaluate_frame _ _))).trans (.runEngine _ c)

/-! ### Lanes -/

theorem Node.loseLane_base (p : Fin 4) (cause : LaneCount) : BaseFrame n (n.loseLane c p cause) :=
  (((((BaseFrame.abandon n p).trans (.onLane _ _ _)).trans (.countLane _ _ _)).trans (.raise _ _)).trans
    (Node.planeLost_base c _ _)).trans (.settleRefs _)

theorem Node.carrierLoss_base (p : Fin 4) : BaseFrame n (n.carrierLoss c p) := by
  unfold Node.carrierLoss
  refine BaseFrame.trans (.seeCarrier n p false) ?_
  dsimp only
  split
  · exact .refl _
  · exact (BaseFrame.abandon _ p).trans (.onLane _ _ _)
  · exact Node.loseLane_base c _ _ _

theorem Node.badSegment_base (p : Fin 4) (cause : LaneCount) : BaseFrame n (n.badSegment c p cause) := by
  unfold Node.badSegment
  extract_lets m
  have hcount : BaseFrame n m := (BaseFrame.abandon n p).trans (.countLane _ p cause)
  refine hcount.trans ?_
  split
  · exact .refl m
  · exact .onLane m p _
  · exact BaseFrame.trans (.onLane m p _) (Node.loseLane_base c _ _ _).ite

theorem Node.handOn_base (p : Fin 4) (h : SegHeader) (disp : Disposition) (payload : List Byte) :
    BaseFrame n (n.handOn c p h disp payload) := by
  have hpresent : BaseFrame n (n.present c p h.frame h.line).1 := by
    unfold Node.present
    exact (BaseFrame.of_engine (n.raiseStray_frame c)).ite
  cases disp with
  | filling b =>
    have hwrite : BaseFrame n { n with ss := n.ss.write b payload } := .of_ss n _
    have hdeliver := Node.deliver_base c { n with ss := n.ss.write b payload }
      (Node.delivery p h b { n with ss := n.ss.write b payload })
    have hand : BaseFrame n (n.handBuffer c p h b payload) := by
      unfold Node.handBuffer
      dsimp only
      split
      · next heq => exact hwrite.trans (by rw [heq] at hdeliver; exact hdeliver)
      · next heq =>
        refine (hwrite.trans (by rw [heq] at hdeliver; exact hdeliver)).trans ?_
        exact (BaseFrame.of_ss _ _).trans (.countLane _ _ _)
    exact hand.trans (.settleRefs _)
  | refused => exact hpresent.trans (.settleRefs _)
  | checkOnly => exact (hpresent.trans (.countLane _ _ _)).trans (.settleRefs _)

theorem Node.lockLane_base (p : Fin 4) : BaseFrame n (n.lockLane p) :=
  ((BaseFrame.onLane n p _).trans (.of_se _ _)).trans (.raise _ _)

theorem Node.goodSegment_base (p : Fin 4) (h : SegHeader) (disp : Disposition) (payload : List Byte) :
    BaseFrame n (n.goodSegment c p h disp payload) := by
  unfold Node.goodSegment
  extract_lets m
  have hcount : BaseFrame n m := (BaseFrame.countLane n p .good).trans (.onLane _ p _)
  refine hcount.trans ?_
  split
  · exact .abandon m p
  · split
    · exact (BaseFrame.abandon m p).trans (.onLane _ _ _)
    · exact ((BaseFrame.onLane m p _).trans (Node.lockLane_base _ p)).trans (Node.handOn_base c _ _ _ _ _)
  · exact (BaseFrame.onLane m p _).trans (Node.handOn_base c _ _ _ _ _)

theorem Node.segmentEnd_base (p : Fin 4) (how : SegEnd) (violation : Bool) (rest : List Byte) :
    BaseFrame n (n.segmentEnd c p how violation rest) := by
  unfold Node.segmentEnd
  split
  · exact .refl n
  · exact n.badSegment_base c p _
  · split
    · exact n.goodSegment_base c p _ _ _
    · split <;> exact n.badSegment_base c p _

theorem Node.startDelimiter_base (p : Fin 4) (cp : Bool) : BaseFrame n (n.startDelimiter c p cp) := by
  unfold Node.startDelimiter
  split
  · exact ((BaseFrame.seeCarrier n p true).trans (Node.segmentEnd_base c _ _ _ _ _)).trans (.onLane _ _ _)
  · exact n.carrierLoss_base c p

theorem Node.segmentHeader_base (p : Fin 4) (bytes : List Byte) : BaseFrame n (n.segmentHeader c p bytes) := by
  unfold Node.segmentHeader
  refine BaseFrame.ite ?_
  split
  · unfold Node.askGrant
    split
    · exact (BaseFrame.of_ss n _).trans (.onLane _ _ _)
    · exact ((BaseFrame.of_ss n _).trans (.onLane _ _ _)).trans (.countLane _ _ _)
  · exact .onLane n p _

theorem Node.silenceTimeout_base (p : Fin 4) : BaseFrame n (n.silenceTimeout c p) := by
  unfold Node.silenceTimeout
  refine BaseFrame.ite ?_
  split
  · exact .refl n
  · exact .onLane n p _
  · exact n.loseLane_base c p _

theorem Node.recordDeadline_base (frame : BitVec 8) (line : Nat) : BaseFrame n (n.recordDeadline c frame line) :=
  BaseFrame.ite (((BaseFrame.of_se n _).trans (.runEngine _ c)).trans (.settleRefs _))

theorem Node.recordEnd_base : BaseFrame n (n.recordEnd c) :=
  BaseFrame.ite (((BaseFrame.of_ou n _).trans (.runEngine _ c)).trans (.settleRefs _))

end

/-! ## The head role -/

/-- What the plane port and the uplink may change: LU, the store and the notices. -/
structure HeadFrame (n t : Node) : Prop where
  frame : t = { n with ss := t.ss, lu := t.lu, rh := { n.rh with notices := t.rh.notices } }

section
variable (c : Settled) (n : Node)

theorem Node.endLine_head : HeadFrame n n.endLine := by
  unfold Node.endLine
  split <;> exact ⟨rfl⟩

theorem Node.frameBegin_head : HeadFrame n n.frameBegin := by
  unfold Node.frameBegin
  dsimp only
  exact ⟨by rw [n.endLine_head.frame]⟩

theorem Node.numberLine_head : HeadFrame n n.numberLine := by
  unfold Node.numberLine
  dsimp only
  split <;> exact ⟨rfl⟩

theorem Node.lineBegin_head : HeadFrame n n.lineBegin := by
  unfold Node.lineBegin
  split
  · exact ⟨rfl⟩
  · exact ⟨by rw [n.endLine.numberLine_head.frame, n.endLine_head.frame]⟩

theorem Node.payload_head (bs : List Byte) : HeadFrame n (n.payload bs) := by
  unfold Node.payload
  split
  · exact ⟨rfl⟩
  · split <;> exact ⟨rfl⟩
  · exact ⟨rfl⟩

theorem Node.lineEnd_head : HeadFrame n (n.lineEnd c) := by
  unfold Node.lineEnd
  split
  · exact ⟨rfl⟩
  · exact ⟨rfl⟩
  · split
    · exact ⟨rfl⟩
    · split
      · exact ⟨rfl⟩
      · split <;> exact ⟨rfl⟩

theorem Node.launched_head : HeadFrame n n.launched := by
  unfold Node.launched
  split <;> exact ⟨rfl⟩

end

end Sys2Proof.Machine
end

section
/-! SUPPORT. The commands by what they may change, and the blocks at rest that do not work in the node's role (O58). -/

namespace Sys2Proof.Machine

/-! ## When a command acts, case by case -/

theorem Node.awake_cases (n : Node) (f : Node → Node) : n.awake f = n ∨ n.awake f = f n := by
  unfold Node.awake
  split
  · exact .inl rfl
  · exact .inr rfl

theorem Node.withCfg_cases (n : Node) (f : Settled → Node → Node) :
    n.withCfg f = n ∨ ∃ c, n.rh.settled = some c ∧ n.withCfg f = f c n := by
  unfold Node.withCfg
  split
  · exact .inl rfl
  · next c hc => exact .inr ⟨c, hc, rfl⟩

theorem Node.asHead_cases (n : Node) (f : Settled → Node → Node) :
    n.asHead f = n ∨ ∃ c, n.headCfg = some c ∧ n.asHead f = f c n := by
  unfold Node.asHead
  split
  · exact .inl rfl
  · next c hc => exact .inr ⟨c, hc, rfl⟩

theorem Node.asBase_cases (n : Node) (f : Settled → Node → Node) :
    n.asBase f = n ∨ ∃ c, n.baseCfg = some c ∧ n.asBase f = f c n := by
  unfold Node.asBase
  split
  · exact .inl rfl
  · next c hc => exact .inr ⟨c, hc, rfl⟩

/-! ## The commands of the control side -/

namespace ControlFrame

variable {n : Node}

theorem awake {f : Node → Node} (h : ControlFrame n (f n)) : ControlFrame n (n.awake f) := by
  obtain hn | hn := n.awake_cases f <;> rw [hn]
  · exact refl n
  · exact h

theorem withCfg {f : Settled → Node → Node} (h : ∀ c, ControlFrame n (f c n)) : ControlFrame n (n.withCfg f) := by
  obtain hn | ⟨c, -, hn⟩ := n.withCfg_cases f <;> rw [hn]
  · exact refl n
  · exact h c

theorem request {addr : BitVec 7} {body : List Byte} {f : Node → Node × Response}
    (h : ∀ m, ControlFrame m (f m).1) : ControlFrame n (n.request addr body f) :=
  ControlFrame.ite (((setMailbox n _).trans (h _)).trans (setMailbox _ _))

theorem receive {ok : Bool} {key : Key} {payload : List Byte} {stamp : Word32} {marked : Bool}
    {f : Settled → Word32 → Node → Node} (h : ∀ c t m, ControlFrame m (f c t m)) :
    ControlFrame n (n.receive ok key payload stamp marked f) :=
  withCfg fun c => ControlFrame.ite ((n.received_control c key payload marked).trans (h c _ _))

end ControlFrame

/-- The commands that stay within the control side: all but the resets, SETTLE, STATUS, SOFT_RESET, CONTROL_RECEIVED and
the commands of the two line sides. -/
def Instr.isControl : Instr → Bool
  | .powerOnReset _ _ _ _ | .rstNAsserted | .settle _ _ | .status _ _ | .softReset _ _ | .controlReceived _ _ _ => false
  | .frameBegin | .lineBegin | .payloadWord _ _ | .lineEnd | .segmentLaunched => false
  | .carrierLoss _ | .startDelimiter _ _ | .segmentHeader _ _ | .segmentEnd _ _ _ _ | .silenceTimeout _ => false
  | .recordDeadline _ _ | .recordEnd | .abortTaken | .wordTaken | .stall => false
  | _ => true

/-- The commands of the control side stay within it. -/
theorem Node.after_control (n : Node) {i : Instr} (h : Instr.isControl i = true) : ControlFrame n (n.after i) := by
  cases i with
  | adjust addr body =>
    rw [Node.after_adjust]
    exact .awake (.request fun m => m.adjust_control body)
  | send addr body =>
    rw [Node.after_send]
    exact .awake (.request fun m => m.send_control body)
  | take addr body =>
    rw [Node.after_take]
    exact .awake (.request fun m => m.take_control body)
  | notices addr body =>
    rw [Node.after_notices]
    exact .awake (.request fun m => m.noticesRequest_control body)
  | mailboxBadRequest addr bytes =>
    rw [Node.after_mailboxBadRequest]
    exact .awake (.ite (n.badRequest_control bytes))
  | mailboxRead addr count =>
    rw [Node.after_mailboxRead]
    exact .awake (.ite (n.mailboxRead_control count))
  | frameStart =>
    rw [Node.after_frameStart]
    exact .awake (.withCfg fun c => n.frameStart_due_control c)
  | runningEntry =>
    rw [Node.after_runningEntry]
    exact .awake (.withCfg fun c => n.enterRunning_control c)
  | candidateRemoved =>
    rw [Node.after_candidateRemoved]
    exact .awake (.withCfg fun c => n.removeAged_control c)
  | holdoverExpired =>
    rw [Node.after_holdoverExpired]
    exact .awake (.withCfg fun c => .ite (n.expireHoldover_control c))
  | probeTimeout =>
    rw [Node.after_probeTimeout]
    exact .awake (.ite (.of_du n _))
  | strobeFire =>
    rw [Node.after_strobeFire]
    exact .awake (.withCfg fun c => n.strobeFire_control c)
  | refinPulse =>
    rw [Node.after_refinPulse]
    exact .awake (.withCfg fun c => n.pulse_control c)
  | referenceSilence =>
    rw [Node.after_referenceSilence]
    exact .awake (.withCfg fun c => .ite (n.loseReference_control c))
  | announceReceived key payload arrival =>
    rw [Node.after_announceReceived]
    exact .awake (.receive fun c t m => m.announced_control c key payload t)
  | delayProbeReceived key payload arrival =>
    rw [Node.after_delayProbeReceived]
    exact .awake (.receive fun c t m => m.answerProbe_control key t)
  | delayReplyReceived key payload arrival =>
    rw [Node.after_delayReplyReceived]
    exact .awake (.receive fun c t m => m.delayReply_control c key payload t)
  | controlReplyReceived key payload arrival =>
    rw [Node.after_controlReplyReceived]
    exact .awake (.receive fun c t m => .refl m)
  | unusableKind key payload arrival =>
    rw [Node.after_unusableKind]
    exact .awake (.receive fun c t m => .of_mh m _)
  | badForm key payload arrival =>
    rw [Node.after_badForm]
    exact .awake (.receive fun c t m => .of_mh m _)
  | userMailFiled key payload arrival =>
    rw [Node.after_userMailFiled]
    exact .awake (.receive fun c t m => m.fileMail_control key payload t)
  | messageStart =>
    rw [Node.after_messageStart]
    exact .awake (.withCfg fun c => n.messageStart_control c)
  | arbitrationLost =>
    rw [Node.after_arbitrationLost]
    exact .awake n.loseArbitration_control
  | messageSent =>
    rw [Node.after_messageSent]
    exact .awake (.withCfg fun c => n.messageSent_control c)
  | messageFailed =>
    rw [Node.after_messageFailed]
    exact .awake n.messageFailed_control
  | serviceError kind =>
    rw [Node.after_serviceError]
    exact .awake (.withCfg fun c => n.serviceError_control c kind)
  | guardedWaitEnd =>
    rw [Node.after_guardedWaitEnd]
    exact .awake n.endGuard_control
  | silencedRecovery =>
    rw [Node.after_silencedRecovery]
    exact .awake n.recover_control
  | integrationEnd =>
    rw [Node.after_integrationEnd]
    exact .awake n.endIntegration_control
  | listenOnlyEffect =>
    rw [Node.after_listenOnlyEffect]
    exact .awake n.atIdlePoint_control
  | _ => cases h

/-! ## Invariants that the control side keeps -/

/-- A property of the block that the control side's frame, a section cleared and a soft reset keep. -/
structure KeptByControl (P : Node → Prop) : Prop where
  frame : ∀ {n t : Node}, P n → ControlFrame n t → P t
  cleared : ∀ {n t : Node}, P n → n.OnlyCleared t → P t
  soft : ∀ {n : Node} {c : Settled}, P n → n.rh.settled = some c → P (n.softReset c)

namespace KeptByControl

variable {P : Node → Prop} {n : Node}

theorem request (h : KeptByControl P) (hn : P n) {addr : BitVec 7} {body : List Byte} {f : Node → Node × Response}
    (hf : ∀ m, P m → P (f m).1) : P (n.request addr body f) := by
  unfold Node.request
  split
  · exact h.frame (hf _ (h.frame hn (.setMailbox n _))) (.setMailbox _ _)
  · exact hn

theorem statusClear (h : KeptByControl P) (hn : P n) (body : List Byte) : P (n.statusClear body) :=
  h.cleared hn (n.statusClear_onlyCleared body)

theorem status (h : KeptByControl P) (hn : P n) (body : List Byte) (cp : PlaneSet) (pready : Bool) :
    P (n.status body cp pready).1 := by
  unfold Node.status
  split
  · exact h.statusClear (h.frame hn (.of_pins n _)) body
  · exact hn

theorem softResetRequest (h : KeptByControl P) (hn : P n) (body : List Byte) : P (n.softResetRequest body).1 := by
  unfold Node.softResetRequest
  split
  · exact hn
  · split
    · exact hn
    · next c hc => exact h.soft hn hc

theorem remote (h : KeptByControl P) (hn : P n) (kind : Nat) (body : List Byte) : P (n.remote kind body).1 := by
  unfold Node.remote
  split
  · exact h.frame hn (n.adjust_control body)
  · unfold Node.remoteStatus
    split
    · exact h.frame (h.statusClear hn body) ⟨rfl, rfl, rfl, rfl, Iff.rfl, Iff.rfl, id⟩
    · exact hn
  · exact h.softResetRequest hn body
  · exact hn

theorem control (h : KeptByControl P) (hn : P n) (key : Key) (payload : List Byte) : P (n.control key payload) := by
  unfold Node.control
  split
  · split
    · exact h.frame hn (.of_mh n _)
    · exact h.frame (h.remote hn _ _) (Node.placeReply_control _ _ _)
  · exact hn

theorem controlReceived (h : KeptByControl P) (hn : P n) (ok : Bool) (key : Key) (payload : List Byte)
    (stamp : Word32) (marked : Bool) : P (n.controlReceived ok key payload stamp marked) := by
  unfold Node.controlReceived
  split
  · exact h.control (h.frame hn (.of_counts n n.si.countReceived rfl fun hfit => hfit.rest)) key payload
  · unfold Node.receive
    obtain heq | ⟨c, -, heq⟩ := n.withCfg_cases _ <;> rw [heq]
    · exact hn
    · split
      · exact h.control (h.frame hn (n.received_control c key payload marked)) key payload
      · exact hn

theorem awake (hn : P n) {f : Node → Node} (hf : P (f n)) : P (n.awake f) := by
  obtain heq | heq := n.awake_cases f <;> rw [heq]
  · exact hn
  · exact hf

end KeptByControl

/-! ## The blocks of the node's role -/

theorem Node.headCfg_of_straps {n t : Node} (hstraps : t.rh.straps = n.rh.straps)
    (hsettled : t.rh.settled = n.rh.settled) : t.headCfg = n.headCfg := by
  unfold Node.headCfg
  rw [hstraps, hsettled]

theorem Node.baseCfg_of_straps {n t : Node} (hstraps : t.rh.straps = n.rh.straps)
    (hsettled : t.rh.settled = n.rh.settled) : t.baseCfg = n.baseCfg := by
  unfold Node.baseCfg
  rw [hstraps, hsettled]

/-- A working base is no head. -/
theorem Node.headCfg_of_base {n : Node} {c : Settled} (h : n.baseCfg = some c) : n.headCfg = none := by
  have hrole := (Node.baseCfg_eq_some.1 h).1
  simp [Node.headCfg, hrole]

/-- A working head is no base. -/
theorem Node.baseCfg_of_head {n : Node} {c : Settled} (h : n.headCfg = some c) : n.baseCfg = none := by
  have hrole := (Node.headCfg_eq_some.1 h).1
  simp [Node.baseCfg, hrole]

namespace Node.RoleFit

variable {n t : Node}

theorem tecFits (h : n.RoleFit) : n.si.TecFits := ⟨h.restTec, h.workTec⟩

/-- A block whose control side moves within its frame, and whose line sides are at rest where they were. -/
theorem of_frames (h : n.RoleFit) (hstraps : t.rh.straps = n.rh.straps) (hsettled : t.rh.settled = n.rh.settled)
    (hgen : t.tb.gen.isSome = n.tb.gen.isSome) (hlife : t.rh.lifecycle = .unsettled ↔ n.rh.lifecycle = .unsettled)
    (hoff : t.si.state = .off ↔ n.si.state = .off) (htec : t.si.TecFits)
    (hengine : n.baseCfg = none → t.se.state = n.se.state)
    (hlanes : n.baseCfg = none → ∀ p, (t.lane p).state = (n.lane p).state ∧ (t.lane p).seg = (n.lane p).seg)
    (hport : n.baseCfg = none → t.ou.queue = n.ou.queue ∧ t.ou.abort = n.ou.abort)
    (huplink : n.headCfg = none →
      t.lu.carrier = n.lu.carrier ∧ t.lu.line = n.lu.line ∧ t.lu.queue = n.lu.queue) : t.RoleFit where
  unsettledLife hs := hlife.2 (h.unsettledLife (hsettled ▸ hs))
  unsettledGen hs := by
    have hn := h.unsettledGen (hsettled ▸ hs)
    rw [hn] at hgen
    exact Option.not_isSome_iff_eq_none.1 (by simp [hgen])
  unsettledSi hs := hoff.2 (h.unsettledSi (hsettled ▸ hs))
  settledLife c hs hl := h.settledLife c (hsettled ▸ hs) (hlife.1 hl)
  settledGen c hs := hgen.trans (h.settledGen c (hsettled ▸ hs))
  settledSi c hs ho := h.settledSi c (hsettled ▸ hs) (hoff.1 ho)
  restTec := htec.rest
  workTec := htec.work
  idleEngine hb := by
    rw [Node.baseCfg_of_straps hstraps hsettled] at hb
    rw [hengine hb, h.idleEngine hb]
  darkLanes hb p := by
    rw [Node.baseCfg_of_straps hstraps hsettled] at hb
    rw [(hlanes hb p).1, (hlanes hb p).2]
    exact h.darkLanes hb p
  emptyPort hb := by
    rw [Node.baseCfg_of_straps hstraps hsettled] at hb
    rw [(hport hb).1, (hport hb).2]
    exact h.emptyPort hb
  quietUplink hh := by
    rw [Node.headCfg_of_straps hstraps hsettled] at hh
    obtain ⟨hcarrier, hline, hqueue⟩ := huplink hh
    rw [hcarrier, hline, hqueue]
    exact h.quietUplink hh

theorem of_control (h : n.RoleFit) (hf : ControlFrame n t) : t.RoleFit := by
  have hframe := hf.frame
  refine h.of_frames hf.straps hf.settled hf.gen hf.life hf.off (hf.tec h.tecFits) ?_ ?_ ?_ ?_
  · intro _
    rw [hframe]
  · intro _ p
    rw [hframe]
    exact ⟨rfl, rfl⟩
  · intro _
    rw [hframe]
    exact ⟨rfl, rfl⟩
  · intro _
    rw [hframe]
    exact ⟨rfl, rfl, rfl⟩

theorem of_cleared (h : n.RoleFit) (hf : n.OnlyCleared t) : t.RoleFit := by
  have hstate : t.si.state = n.si.state := (congrArg Si.state hf.si :)
  have htec : t.si.tec = n.si.tec := (congrArg Si.tec hf.si :)
  refine h.of_frames (by rw [hf.rh]) (by rw [hf.rh]) (by rw [hf.tb]) (by rw [hf.rh]) (by rw [hstate]) ?_ ?_ ?_ ?_ ?_
  · exact ⟨by rw [hstate, htec]; exact h.restTec, by rw [hstate, htec]; exact h.workTec⟩
  · exact fun _ => (congrArg Se.state hf.se :)
  · exact fun _ p => ⟨(congrArg Lane.state (hf.lanes p) :), (congrArg Lane.seg (hf.lanes p) :)⟩
  · exact fun _ => ⟨(congrArg Ou.queue hf.ou :), (congrArg Ou.abort hf.ou :)⟩
  · exact fun _ => ⟨(congrArg Lu.carrier hf.lu :), (congrArg Lu.line hf.lu :), (congrArg Lu.queue hf.lu :)⟩

theorem of_base {c : Settled} (h : n.RoleFit) (hb : n.baseCfg = some c) (hf : BaseFrame n t) : t.RoleFit := by
  have hframe := hf.frame
  have hno : n.baseCfg = none → False := by simp [hb]
  refine h.of_frames (by rw [hframe]) (by rw [hframe]) (by rw [hframe]) (by rw [hframe]) (by rw [hframe])
    (by rw [hframe]; exact h.tecFits) (fun hn => (hno hn).elim) (fun hn => (hno hn).elim)
    (fun hn => (hno hn).elim) ?_
  intro _
  rw [hframe]
  exact ⟨rfl, rfl, rfl⟩

theorem of_head {c : Settled} (h : n.RoleFit) (hb : n.headCfg = some c) (hf : HeadFrame n t) : t.RoleFit := by
  have hframe := hf.frame
  refine h.of_frames (by rw [hframe]) (by rw [hframe]) (by rw [hframe]) (by rw [hframe]) (by rw [hframe])
    (by rw [hframe]; exact h.tecFits) ?_ ?_ ?_ fun hn => absurd (hn.symm.trans hb) nofun
  · intro _
    rw [hframe]
  · intro _ p
    rw [hframe]
    exact ⟨rfl, rfl⟩
  · intro _
    rw [hframe]
    exact ⟨rfl, rfl⟩

/-- The blocks at rest after a power-on reset. -/
theorem powerOn (straps : Straps) (pins : Pins) (k : Nat) : (Node.powerOn straps pins k).RoleFit where
  unsettledLife _ := rfl
  unsettledGen _ := rfl
  unsettledSi _ := rfl
  settledLife _ hs := nomatch hs
  settledGen _ hs := nomatch hs
  settledSi _ hs := nomatch hs
  restTec _ := rfl
  workTec _ := (by decide : 0 < 192)
  idleEngine _ := rfl
  darkLanes _ p := by fin_cases p <;> exact ⟨rfl, rfl⟩
  emptyPort _ := ⟨rfl, rfl⟩
  quietUplink _ := ⟨rfl, rfl, rfl⟩

/-- A soft reset keeps the settled configuration, begins frame 0 and lets SI integrate. -/
theorem softReset {c : Settled} (h : n.RoleFit) (hc : n.rh.settled = some c) : (n.softReset c).RoleFit where
  unsettledLife hs := absurd (hs.symm.trans hc) nofun
  unsettledGen hs := absurd (hs.symm.trans hc) nofun
  unsettledSi hs := absurd (hs.symm.trans hc) nofun
  settledLife _ _ := nofun
  settledGen _ _ := rfl
  settledSi _ _ := nofun
  restTec _ := rfl
  workTec _ := (by decide : 0 < 192)
  idleEngine _ := rfl
  darkLanes _ p := by fin_cases p <;> exact ⟨rfl, rfl⟩
  emptyPort hb := by
    obtain ⟨hqueue, habort⟩ := h.emptyPort hb
    refine ⟨rfl, ?_⟩
    show n.ou.abortAfterReset = none
    simp [Ou.abortAfterReset, hqueue, habort]
  quietUplink hh := by
    refine ⟨?_, rfl, rfl⟩
    show (if n.lu.carrier = .off then Carrier.off else .idleFill) = .off
    rw [if_pos (h.quietUplink hh).1]

/-- An accepted SETTLE at a node not yet settled. -/
theorem acceptSettle (h : n.RoleFit) (hlife : n.rh.lifecycle = .unsettled) (c : Settled) :
    (n.acceptSettle c).RoleFit := by
  have hnone : n.rh.settled = none := by
    cases hs : n.rh.settled with
    | none => rfl
    | some d => exact absurd hlife (h.settledLife d hs)
  have hbase : n.baseCfg = none := by unfold Node.baseCfg; rw [hnone]; split <;> rfl
  have hhead : n.headCfg = none := by unfold Node.headCfg; rw [hnone]; split <;> rfl
  have htec : n.si.tec = 0 := h.restTec (.inl (h.unsettledSi hnone))
  refine ⟨nofun, nofun, nofun, fun _ _ => nofun, fun _ _ => rfl, fun _ _ => nofun, fun _ => htec, ?_,
    fun _ => h.idleEngine hbase, fun _ => h.darkLanes hbase, fun _ => h.emptyPort hbase, fun hh => ?_⟩
  · rintro (hs | hs) <;> cases hs
  · have hrole : n.rh.straps.role = .base := by
      cases hr : n.rh.straps.role with
      | base => rfl
      | head => simp [Node.headCfg, Node.acceptSettle, hr] at hh
    show (n.lu.settle n.rh.straps.role).carrier = .off ∧ (n.lu.settle n.rh.straps.role).line = .outside
      ∧ (n.lu.settle n.rh.straps.role).queue = []
    rw [hrole]
    exact h.quietUplink hhead

theorem settle (h : n.RoleFit) (body : List Byte) : (n.settle body).1.RoleFit := by
  unfold Node.settle
  split
  · exact h
  · split
    · exact h
    · next hlife =>
      split
      · exact h
      · exact h.acceptSettle (by simpa using hlife) _

theorem assertReset (h : n.RoleFit) : n.assertReset.RoleFit := by
  unfold Node.assertReset
  split
  · exact { h with }
  · next c hc =>
    have hno : n.baseCfg = none → False := by simp [hc]
    exact { h with
      idleEngine := fun _ => rfl, darkLanes := fun hb => (hno hb).elim, emptyPort := fun hb => (hno hb).elim }

end Node.RoleFit

theorem roleFit_keptByControl : KeptByControl Node.RoleFit :=
  ⟨Node.RoleFit.of_control, Node.RoleFit.of_cleared, Node.RoleFit.softReset⟩

section
variable {n : Node}

theorem Node.RoleFit.asHead (h : n.RoleFit) {f : Settled → Node → Node} (hf : ∀ c, HeadFrame n (f c n)) :
    (n.awake fun n => n.asHead f).RoleFit := by
  refine KeptByControl.awake h ?_
  obtain heq | ⟨c, hc, heq⟩ := n.asHead_cases f <;> rw [heq]
  · exact h
  · exact h.of_head hc (hf c)

theorem Node.RoleFit.asBase (h : n.RoleFit) {f : Settled → Node → Node} (hf : ∀ c, BaseFrame n (f c n)) :
    (n.asBase f).RoleFit := by
  obtain heq | ⟨c, hc, heq⟩ := n.asBase_cases f <;> rw [heq]
  · exact h
  · exact h.of_base hc (hf c)

/-- Every command keeps the blocks at rest that do not work in the node's role. -/
theorem Node.RoleFit.after (h : n.RoleFit) (i : Instr) : (n.after i).RoleFit := by
  have hk := roleFit_keptByControl
  cases i with
  | powerOnReset role plane node adr => exact .powerOn _ _ _
  | rstNAsserted =>
    rw [Node.after_rstNAsserted]
    exact KeptByControl.awake h h.assertReset
  | settle addr body =>
    rw [Node.after_settle]
    exact KeptByControl.awake h (hk.request h fun m hm => hm.settle body)
  | status addr req =>
    rw [Node.after_status]
    exact KeptByControl.awake h (hk.request h fun m hm => hk.status hm _ _ _)
  | softReset addr body =>
    rw [Node.after_softReset]
    exact KeptByControl.awake h (hk.request h fun m hm => hk.softResetRequest hm body)
  | controlReceived key payload arrival =>
    rw [Node.after_controlReceived]
    exact KeptByControl.awake h (hk.controlReceived h _ _ _ _ _)
  | frameBegin =>
    rw [Node.after_frameBegin]
    exact h.asHead fun c => n.frameBegin_head
  | lineBegin =>
    rw [Node.after_lineBegin]
    exact h.asHead fun c => n.lineBegin_head
  | payloadWord pctl pd =>
    rw [Node.after_payloadWord]
    refine h.asHead fun c => ?_
    split
    · exact ⟨rfl⟩
    · exact n.payload_head _
  | lineEnd =>
    rw [Node.after_lineEnd]
    exact h.asHead fun c => n.lineEnd_head c
  | segmentLaunched =>
    rw [Node.after_segmentLaunched]
    refine h.asHead fun c => ?_
    split
    · exact n.launched_head
    · exact ⟨rfl⟩
  | carrierLoss p =>
    rw [Node.after_carrierLoss]
    exact KeptByControl.awake h (h.asBase fun c => n.carrierLoss_base c p)
  | startDelimiter p cp =>
    rw [Node.after_startDelimiter]
    exact KeptByControl.awake h (h.asBase fun c => n.startDelimiter_base c p cp)
  | segmentHeader p bytes =>
    rw [Node.after_segmentHeader]
    exact KeptByControl.awake h (h.asBase fun c => n.segmentHeader_base c p bytes)
  | segmentEnd p how v rest =>
    rw [Node.after_segmentEnd]
    exact KeptByControl.awake h (h.asBase fun c => n.segmentEnd_base c p how v rest)
  | silenceTimeout p =>
    rw [Node.after_silenceTimeout]
    exact KeptByControl.awake h (h.asBase fun c => n.silenceTimeout_base c p)
  | recordDeadline frame line =>
    rw [Node.after_recordDeadline]
    exact KeptByControl.awake h (h.asBase fun c => n.recordDeadline_base c frame line)
  | recordEnd =>
    rw [Node.after_recordEnd]
    exact KeptByControl.awake h (h.asBase fun c => (n.recordEnd_base c).trans (.seeReady _ true))
  | abortTaken =>
    rw [Node.after_abortTaken]
    exact h.asBase fun c => (BaseFrame.of_ou n n.ou.takeAbort).trans (.seeReady _ true)
  | wordTaken =>
    rw [Node.after_wordTaken]
    exact KeptByControl.awake h (h.asBase fun c => (BaseFrame.of_ou n n.ou.takeWord).trans (.seeReady _ true))
  | stall =>
    rw [Node.after_stall]
    exact KeptByControl.awake h (h.asBase fun c => (BaseFrame.of_ou n n.ou.stall).trans (.seeReady _ false))
  | _ => exact h.of_control (n.after_control rfl)

end

/-- Settles O58: every command and one tick keep the blocks at rest. -/
theorem stepKeepsRoles : Obligations.StepKeepsRoles :=
  step_keeps (fun i _ h => h.after i) fun n h => h.of_control n.tick_control

end Sys2Proof.Machine
end

section
/-! SUPPORT. Who names or owns a buffer of the store (R73, R74, R78): the claims on it, the buffer state that each claim
calls for, and what a recount makes of a store whose claims are met. -/

namespace Sys2Proof.Machine

/-! ## Items of four planes -/

theorem Four.mem_toList {α : Type} {q : Four α} {a : α} : a ∈ q.toList ↔ ∃ p, q.get p = a := by
  simp only [Four.toList, List.mem_cons, List.not_mem_nil, or_false]
  constructor
  · rintro (h | h | h | h)
    · exact ⟨0, h.symm⟩
    · exact ⟨1, h.symm⟩
    · exact ⟨2, h.symm⟩
    · exact ⟨3, h.symm⟩
  · rintro ⟨p, rfl⟩
    fin_cases p <;> simp [Four.get]

@[simp] theorem Four.get_build {α : Type} (f : Fin 4 → α) (p : Fin 4) : (Four.build f).get p = f p := by
  fin_cases p <;> rfl

@[simp] theorem Four.get_const {α : Type} (a : α) (p : Fin 4) : (Four.const a).get p = a := by
  fin_cases p <;> rfl

/-- Some plane's item has the property exactly if one is counted. -/
theorem Four.countP_pos {α : Type} {q : Four α} {f : α → Bool} :
    0 < q.toList.countP f ↔ ∃ p, f (q.get p) = true := by
  rw [List.countP_pos_iff]
  constructor
  · rintro ⟨a, ha, hf⟩
    obtain ⟨p, rfl⟩ := Four.mem_toList.1 ha
    exact ⟨p, hf⟩
  · rintro ⟨p, hf⟩
    exact ⟨_, Four.mem_toList.2 ⟨p, rfl⟩, hf⟩

/-! ## The buffers that the engine and the output queue name -/

/-- A line's contributions name buffer `b`. -/
def ContribsName (b : Nat) (q : Four (Option Contribution)) : Prop := ∃ p k, q.get p = some k ∧ k.buf = b

/-- An assembly record, a descriptor or a hold slot names buffer `b`. -/
inductive Named (se : Se) (ou : Ou) (b : Nat) : Prop where
  | record (r : Record) (hr : r ∈ se.table) (hb : ContribsName b r.contribs)
  | descriptor (d : Descriptor) (hd : d ∈ ou.queue) (hb : 0 < d.names b)
  | hold (p : Fin 4) (h : Hold) (hh : se.holds.get p = some h) (hb : h.buf = b)

theorem namesContrib_iff {b : Nat} {k : Option Contribution} :
    namesContrib b k = true ↔ ∃ x, k = some x ∧ x.buf = b := by
  cases k <;> simp [namesContrib]

theorem namesHold_iff {b : Nat} {h : Option Hold} : namesHold b h = true ↔ ∃ x, h = some x ∧ x.buf = b := by
  cases h <;> simp [namesHold]

theorem contribsName_iff {b : Nat} {q : Four (Option Contribution)} :
    (∃ p, namesContrib b (q.get p) = true) ↔ ContribsName b q := by
  constructor
  · rintro ⟨p, hp⟩
    obtain ⟨k, hk, hb⟩ := namesContrib_iff.1 hp
    exact ⟨p, k, hk, hb⟩
  · rintro ⟨p, k, hk, hb⟩
    exact ⟨p, namesContrib_iff.2 ⟨k, hk, hb⟩⟩

/-- A sum of naturals over a list is positive exactly if a term is. -/
theorem sum_map_pos {α : Type} {l : List α} {f : α → Nat} : 0 < (l.map f).sum ↔ ∃ a ∈ l, 0 < f a := by
  induction l with
  | nil => simp
  | cons a l ih => simp [ih]

/-- A buffer's reference count is positive exactly if something names it. -/
theorem refCount_pos {se : Se} {ou : Ou} {b : Nat} : 0 < refCount se ou b ↔ Named se ou b := by
  have hparts : 0 < refCount se ou b ↔ (∃ r ∈ se.table, ContribsName b r.contribs)
      ∨ (∃ d ∈ ou.queue, 0 < d.names b) ∨ ∃ p, namesHold b (se.holds.get p) = true := by
    simp only [refCount, Nat.add_pos_iff_pos_or_pos, sum_map_pos, Four.countP_pos, contribsName_iff, or_assoc]
  rw [hparts]
  constructor
  · rintro (⟨r, hr, hb⟩ | ⟨d, hd, hb⟩ | ⟨p, hp⟩)
    · exact .record r hr hb
    · exact .descriptor d hd hb
    · obtain ⟨h, hh, hb⟩ := namesHold_iff.1 hp
      exact .hold p h hh hb
  · rintro (⟨r, hr, hb⟩ | ⟨d, hd, hb⟩ | ⟨p, h, hh, hb⟩)
    · exact .inl ⟨r, hr, hb⟩
    · exact .inr (.inl ⟨d, hd, hb⟩)
    · exact .inr (.inr ⟨p, namesHold_iff.2 ⟨h, hh, hb⟩⟩)

/-! ## Claims on a buffer -/

/-- How a buffer can be claimed: named by a record, descriptor or hold slot; filled by a lane or by LU; queued. -/
inductive Claim
  | named
  | lane (p : Fin 4)
  | line
  | queued

/-- The claim that a buffer state stands for (R73); a FREE buffer stands for none. -/
def BufState.claim : BufState → Option Claim
  | .free => none
  | .filling (.lane p) => some (.lane p)
  | .filling .lu => some .line
  | .queued => some .queued
  | .referenced _ => some .named

theorem BufState.claim_eq_named {x : BufState} : x.claim = some .named ↔ ∃ k, x = .referenced k := by
  rcases x with _ | (p | _) | _ | k <;> simp [BufState.claim]

theorem BufState.claim_eq_lane {x : BufState} {p : Fin 4} : x.claim = some (.lane p) ↔ x = .filling (.lane p) := by
  rcases x with _ | (p | _) | _ | k <;> simp [BufState.claim]

theorem BufState.claim_eq_line {x : BufState} : x.claim = some .line ↔ x = .filling .lu := by
  rcases x with _ | (p | _) | _ | k <;> simp [BufState.claim]

theorem BufState.claim_eq_queued {x : BufState} : x.claim = some .queued ↔ x = .queued := by
  rcases x with _ | (p | _) | _ | k <;> simp [BufState.claim]

/-- What claims buffer `b` at a node. -/
def Node.Claims (n : Node) : Claim → Nat → Prop
  | .named, b => Named n.se n.ou b
  | .lane p, b => (n.lane p).seg.buffer = some b
  | .line, b => n.lu.line = .filling b
  | .queued, b => ∃ g ∈ n.lu.queue, g.buf = b

/-- Every claim is met, and the launch queue claims each of its buffers once: the store's accounts but for the counts. -/
structure Node.StoreSound (n : Node) : Prop where
  met : ∀ k b, n.Claims k b → (n.ss.buf b).state.claim = some k
  distinct : (n.lu.queue.map (·.buf)).Nodup

namespace Node.StoreSound

variable {n : Node} {b : Nat}

theorem named (h : n.StoreSound) (hb : Named n.se n.ou b) : ∃ k, (n.ss.buf b).state = .referenced k :=
  BufState.claim_eq_named.1 (h.met .named b hb)

theorem lane (h : n.StoreSound) {p : Fin 4} (hb : (n.lane p).seg.buffer = some b) :
    (n.ss.buf b).state = .filling (.lane p) :=
  BufState.claim_eq_lane.1 (h.met (.lane p) b hb)

theorem line (h : n.StoreSound) (hb : n.lu.line = .filling b) : (n.ss.buf b).state = .filling .lu :=
  BufState.claim_eq_line.1 (h.met .line b hb)

theorem queued (h : n.StoreSound) {g : Segment} (hg : g ∈ n.lu.queue) : (n.ss.buf g.buf).state = .queued :=
  BufState.claim_eq_queued.1 (h.met .queued g.buf ⟨g, hg, rfl⟩)

end Node.StoreSound

/-- Every reference count is that of the holders, and positive where a buffer is REFERENCED. -/
def Node.CountsExact (n : Node) : Prop :=
  ∀ b, refCount n.se n.ou b = (n.ss.buf b).state.count ∧ ∀ k, (n.ss.buf b).state = .referenced k → 0 < k

theorem BufState.count_pos {x : BufState} (h : 0 < x.count) : ∃ k, x = .referenced k := by
  cases x with
  | referenced k => exact ⟨k, rfl⟩
  | _ => cases h

theorem BufState.count_of_not_referenced {x : BufState} (h : ∀ k, x ≠ .referenced k) : x.count = 0 := by
  cases x with
  | referenced k => exact absurd rfl (h k)
  | _ => rfl

/-- The store's accounts: every claim met, and the counts exact. -/
theorem Node.storeExact_iff {n : Node} : n.StoreExact ↔ n.StoreSound ∧ n.CountsExact := by
  constructor
  · intro h
    refine ⟨⟨fun k b hk => ?_, h.distinct⟩, fun b => ⟨h.counts b, h.positive b⟩⟩
    cases k with
    | named =>
      have hpos : 0 < refCount n.se n.ou b := refCount_pos.2 hk
      exact BufState.claim_eq_named.2 (BufState.count_pos (h.counts b ▸ hpos))
    | lane p => exact BufState.claim_eq_lane.2 (h.lanes p b hk)
    | line => exact BufState.claim_eq_line.2 (h.line b hk)
    | queued =>
      obtain ⟨g, hg, rfl⟩ := hk
      exact BufState.claim_eq_queued.2 (h.queued g hg)
  · rintro ⟨hs, hc⟩
    exact ⟨fun b => (hc b).1, fun b => (hc b).2, fun p b hb => hs.lane hb, fun b hb => hs.line hb,
      fun g hg => hs.queued hg, hs.distinct⟩

namespace Node.StoreExact

variable {n t : Node}

theorem sound (h : n.StoreExact) : n.StoreSound := (Node.storeExact_iff.1 h).1

theorem exactCounts (h : n.StoreExact) : n.CountsExact := (Node.storeExact_iff.1 h).2

end Node.StoreExact

/-- A claim is on another buffer than one whose state stands for something else. -/
theorem Node.StoreSound.ne_of_claims {n : Node} (h : n.StoreSound) {k : Claim} {a b : Nat} (ha : n.Claims k a)
    (hb : (n.ss.buf b).state.claim ≠ some k) : a ≠ b := by
  rintro rfl
  exact hb (h.met k a ha)

/-- One buffer changed: every claim left or new has to be one on another buffer, or met by the buffer's new state. -/
theorem Node.StoreSound.of_change {n t : Node} (h : n.StoreSound) {b : Nat}
    (hbuf : ∀ a, a ≠ b → (t.ss.buf a).state = (n.ss.buf a).state)
    (hclaims : ∀ k a, t.Claims k a → a ≠ b ∧ n.Claims k a ∨ (t.ss.buf a).state.claim = some k)
    (hdistinct : (t.lu.queue.map (·.buf)).Nodup) : t.StoreSound := by
  refine ⟨fun k a hk => ?_, hdistinct⟩
  obtain ⟨hne, hn⟩ | hfit := hclaims k a hk
  · rw [hbuf a hne]
    exact h.met k a hn
  · exact hfit

/-- The counts stand where no reference and no REFERENCED buffer comes or goes. -/
theorem Node.CountsExact.of_same {n t : Node} (h : n.CountsExact) (hse : t.se.table = n.se.table)
    (hholds : t.se.holds = n.se.holds) (hqueue : t.ou.queue = n.ou.queue)
    (href : ∀ a, (t.ss.buf a).state = (n.ss.buf a).state
      ∨ (∀ k, (n.ss.buf a).state ≠ .referenced k) ∧ ∀ k, (t.ss.buf a).state ≠ .referenced k) : t.CountsExact := by
  intro a
  have hcount : refCount t.se t.ou a = refCount n.se n.ou a := by
    unfold refCount
    rw [hse, hholds, hqueue]
  obtain heq | ⟨hn, ht⟩ := href a
  · rw [hcount, heq]
    exact h a
  · rw [hcount, (h a).1, BufState.count_of_not_referenced hn, BufState.count_of_not_referenced ht]
    exact ⟨rfl, fun k hk => absurd hk (ht k)⟩

/-- A block that holds the same store, the same holders and the same claims. -/
theorem Node.StoreExact.of_same {n t : Node} (h : n.StoreExact) (hbufs : t.ss.bufs = n.ss.bufs)
    (htable : t.se.table = n.se.table) (hholds : t.se.holds = n.se.holds) (hqueue : t.ou.queue = n.ou.queue)
    (hlanes : ∀ p, (t.lane p).seg.buffer = (n.lane p).seg.buffer ∨ (t.lane p).seg.buffer = none)
    (hline : ∀ b, t.lu.line = .filling b → n.lu.line = .filling b) (hlaunch : t.lu.queue = n.lu.queue) :
    t.StoreExact := by
  have hbuf : ∀ a, t.ss.buf a = n.ss.buf a := fun a => by unfold Ss.buf; rw [hbufs]
  have hcount : ∀ a, refCount t.se t.ou a = refCount n.se n.ou a := fun a => by
    unfold refCount
    rw [htable, hholds, hqueue]
  refine ⟨fun a => by rw [hcount, hbuf, h.counts], fun a k hk => h.positive a k (hbuf a ▸ hk), fun p a hp => ?_,
    fun a ha => ?_, fun g hg => ?_, ?_⟩
  · rw [hbuf]
    obtain heq | hnone := hlanes p
    · exact h.lanes p a (heq ▸ hp)
    · rw [hnone] at hp
      cases hp
  · rw [hbuf]
    exact h.line a (hline a ha)
  · rw [hbuf]
    exact h.queued g (hlaunch ▸ hg)
  · rw [hlaunch]
    exact h.distinct

/-- One buffer changed that is REFERENCED neither before nor after, the references left: every other claim has to be one
on another buffer, or met by the buffer's new state. -/
theorem Node.StoreExact.of_change {n t : Node} (h : n.StoreExact) {b : Nat} (hse : t.se = n.se) (hou : t.ou = n.ou)
    (hbuf : ∀ a, a ≠ b → (t.ss.buf a).state = (n.ss.buf a).state)
    (hn : ∀ k, (n.ss.buf b).state ≠ .referenced k) (ht : ∀ k, (t.ss.buf b).state ≠ .referenced k)
    (hclaims : ∀ k a, k ≠ .named → t.Claims k a → a ≠ b ∧ n.Claims k a ∨ (t.ss.buf a).state.claim = some k)
    (hdistinct : (t.lu.queue.map (·.buf)).Nodup) : t.StoreExact := by
  refine Node.storeExact_iff.2 ⟨h.sound.of_change hbuf (fun k a hk => ?_) hdistinct, ?_⟩
  · by_cases hnamed : k = .named
    · subst hnamed
      have hold : Named n.se n.ou a := by rw [← hse, ← hou]; exact hk
      obtain ⟨j, hj⟩ := h.sound.named hold
      exact .inl ⟨fun hab => hn j (hab ▸ hj), hold⟩
    · exact hclaims k a hnamed hk
  · refine h.exactCounts.of_same (by rw [hse]) (by rw [hse]) (by rw [hou]) fun a => ?_
    by_cases hab : a = b
    · exact .inr (hab ▸ ⟨hn, ht⟩)
    · exact .inl (hbuf a hab)

/-! ## The recount -/

/-- At the end of an event the recount makes the counts exact, if every claim is met. -/
theorem Node.StoreSound.settleRefs {n : Node} (h : n.StoreSound) : n.settleRefs.StoreExact := by
  have hkept : ∀ b, (∀ k, (n.ss.buf b).state ≠ .referenced k) → n.settleRefs.ss.buf b = n.ss.buf b := fun b hb => by
    rw [Node.settleRefs_buf, Buf.recount_of_not_referenced hb]
  have hcases : ∀ b, (∃ k, (n.ss.buf b).state = .referenced k) ∨ ∀ k, (n.ss.buf b).state ≠ .referenced k := fun b =>
    (em _).imp_right fun hno k hk => hno ⟨k, hk⟩
  refine ⟨fun b => ?counts, fun b k hk => ?positive, fun p b hb => ?lanes, fun b hb => ?line, fun g hg => ?queued,
    h.distinct⟩
  case counts =>
    show refCount n.se n.ou b = _
    obtain ⟨k, hk⟩ | hno := hcases b
    · rw [Node.settleRefs_buf]
      simp only [Buf.recount, hk]
      split
      · next hzero => exact hzero
      · rfl
    · rw [hkept b hno, BufState.count_of_not_referenced hno]
      refine Nat.eq_zero_of_not_pos fun hpos => ?_
      obtain ⟨k, hk⟩ := h.named (refCount_pos.1 hpos)
      exact hno k hk
  case positive =>
    obtain ⟨j, hj⟩ | hno := hcases b
    · rw [Node.settleRefs_buf] at hk
      simp only [Buf.recount, hj] at hk
      split at hk
      · cases hk
      · next hne =>
        cases hk
        exact Nat.pos_of_ne_zero hne
    · rw [hkept b hno] at hk
      exact absurd hk (hno k)
  case lanes =>
    have hfit : (n.ss.buf b).state = .filling (.lane p) := h.lane hb
    rw [hkept b (by simp [hfit]), hfit]
  case line =>
    have hfit : (n.ss.buf b).state = .filling .lu := h.line hb
    rw [hkept b (by simp [hfit]), hfit]
  case queued =>
    have hfit : (n.ss.buf g.buf).state = .queued := h.queued hg
    rw [hkept g.buf (by simp [hfit]), hfit]

/-! ## The store's buffers after each operation -/

theorem Ss.state_setBuf_of_ne {ss : Ss} {a b : Nat} (h : a ≠ b) (x : Buf) :
    ((ss.setBuf b x).buf a).state = (ss.buf a).state := by
  rw [Ss.buf_setBuf_of_ne h]

/-- A buffer that is not FREE is one of the store's. -/
theorem Ss.lt_of_not_free {ss : Ss} {b : Nat} (h : (ss.buf b).state ≠ .free) : b < ss.bufs.length := by
  by_contra hge
  rw [Ss.buf_of_le (Nat.not_lt.1 hge)] at h
  exact h rfl

/-- A buffer set to a state is in that state, if it is one of the store's. -/
theorem Ss.state_mark_self {ss : Ss} {b : Nat} (h : (ss.buf b).state ≠ .free) (x : BufState) :
    ((ss.mark b x).buf b).state = x := by
  unfold Ss.mark
  rw [Ss.buf_setBuf_self (Ss.lt_of_not_free h)]

/-- A buffer given back is FREE, one of the store's or not. -/
theorem Ss.state_release_self (ss : Ss) (b : Nat) : ((ss.release b).buf b).state = .free := by
  unfold Ss.release
  by_cases h : b < ss.bufs.length
  · rw [Ss.buf_setBuf_self h]
    rfl
  · rw [Ss.buf_of_le]
    · rfl
    · simpa [Ss.setBuf] using h

/-- Bytes written leave every buffer's state. -/
theorem Ss.state_write (ss : Ss) (b : Nat) (bs : List Byte) (a : Nat) :
    ((ss.write b bs).buf a).state = (ss.buf a).state := by
  unfold Ss.write
  by_cases hab : a = b
  · subst hab
    by_cases h : a < ss.bufs.length
    · rw [Ss.buf_setBuf_self h]
    · rw [Ss.buf_of_le (Nat.not_lt.1 h), Ss.buf_of_le]
      simpa [Ss.setBuf] using h
  · rw [Ss.buf_setBuf_of_ne hab]

/-- What a grant request makes of the store's buffers: a FREE one becomes FILLING for its owner, or none changes. -/
theorem Ss.grant_cases (ss : Ss) (e : EngineState) (r : Requester) :
    (∃ b, (ss.grant e r).2 = some b ∧ (ss.buf b).state = .free
      ∧ ((ss.grant e r).1.buf b).state = .filling r.owner ∧ ∀ a, a ≠ b → (ss.grant e r).1.buf a = ss.buf a)
    ∨ (ss.grant e r).2 = none ∧ (ss.grant e r).1.bufs = ss.bufs := by
  unfold Ss.grant
  split
  · exact .inr ⟨rfl, rfl⟩
  · next b hb =>
    obtain ⟨hlt, hfree, -⟩ := firstFree_spec hb
    split
    · exact .inr ⟨rfl, rfl⟩
    · refine .inl ⟨b, rfl, hfree, ?_, fun a hne => ?_⟩
      · exact congrArg Buf.state (Ss.buf_setBuf_self hlt ⟨.filling r.owner, []⟩)
      · exact Ss.buf_setBuf_of_ne (ss := ss) hne ⟨.filling r.owner, []⟩

end Sys2Proof.Machine
end

section
/-! SUPPORT. The engine's steps move references and make none: every buffer that a record, descriptor or hold slot names
after them was named before (R74, R79). A delivery adds the buffer it brings, if it is accepted. -/

namespace Sys2Proof.Machine

/-! ## Names moved -/

/-- A step of the engine after which nothing is named that was not named before. -/
structure NamesKept (n t : Node) : Prop extends EngineFrame n t where
  named : ∀ b, Named t.se t.ou b → Named n.se n.ou b

namespace NamesKept

variable {a b t n : Node}

theorem refl (n : Node) : NamesKept n n := ⟨.refl n, fun _ => id⟩

theorem trans (h1 : NamesKept a b) (h2 : NamesKept b t) : NamesKept a t :=
  ⟨h1.toEngineFrame.trans h2.toEngineFrame, fun k hk => h1.named k (h2.named k hk)⟩

theorem raiseIf (n : Node) (p : Bool) (src : Source) : NamesKept n (n.raiseIf p src) :=
  ⟨.raiseIf n p src, fun k hk => by simpa using hk⟩

theorem raise (n : Node) (src : Source) : NamesKept n (n.raise src) := raiseIf n true src

end NamesKept

/-- A record whose contributions are among those of a record of the old table, an old descriptor or a FRAME_END, and an
old hold slot name nothing new. -/
theorem Named.of_parts {se se' : Se} {ou ou' : Ou} {b : Nat} (h : Named se ou b)
    (htable : ∀ r ∈ se.table, ∃ r' ∈ se'.table, ∀ p k, r.contribs.get p = some k → r'.contribs.get p = some k)
    (hqueue : ∀ d ∈ ou.queue, d ∈ ou'.queue ∨ ∃ e, d = .frameEnd e)
    (hholds : ∀ p x, se.holds.get p = some x → se'.holds.get p = some x) : Named se' ou' b := by
  cases h with
  | record r hr hb =>
    obtain ⟨r', hr', hsub⟩ := htable r hr
    obtain ⟨p, k, hk, hkb⟩ := hb
    exact .record r' hr' ⟨p, k, hsub p k hk, hkb⟩
  | descriptor d hd hb =>
    obtain hold | ⟨e, rfl⟩ := hqueue d hd
    · exact .descriptor d hold hb
    · cases hb
  | hold p x hx hb => exact .hold p x (hholds p x hx) hb

/-- The engine changed, its table a part of the old one and its hold slots kept or empty. -/
theorem NamesKept.of_se (n : Node) (se : Se)
    (htable : ∀ r ∈ se.table, ∃ r' ∈ n.se.table, ∀ p k, r.contribs.get p = some k → r'.contribs.get p = some k)
    (hholds : ∀ p x, se.holds.get p = some x → n.se.holds.get p = some x)
    (hlocked : se.lockedSet = n.se.lockedSet := by rfl) : NamesKept n { n with se := se } :=
  ⟨.of_se n se hlocked, fun _ h => h.of_parts htable (fun _ hd => .inl hd) hholds⟩

/-- The engine changed, its table and hold slots kept. -/
theorem NamesKept.of_state (n : Node) (se : Se) (htable : se.table = n.se.table := by rfl)
    (hholds : se.holds = n.se.holds := by rfl) (hlocked : se.lockedSet = n.se.lockedSet := by rfl) :
    NamesKept n { n with se := se } :=
  .of_se n se (fun r hr => ⟨r, htable ▸ hr, fun _ _ => id⟩) (fun _ _ hx => hholds ▸ hx) hlocked

/-- The engine changed, its table empty. -/
theorem NamesKept.of_empty (n : Node) (se : Se) (htable : se.table = [] := by rfl)
    (hholds : ∀ p x, se.holds.get p = some x → n.se.holds.get p = some x := by exact fun _ _ => id)
    (hlocked : se.lockedSet = n.se.lockedSet := by rfl) : NamesKept n { n with se := se } :=
  .of_se n se (fun r hr => by rw [htable] at hr; cases hr) hholds hlocked

theorem Named.of_table_eq_nil {se : Se} {ou : Ou} {b : Nat} (h : Named se ou b) (htable : se.table = []) :
    (∃ d ∈ ou.queue, 0 < d.names b) ∨ ∃ p x, se.holds.get p = some x ∧ x.buf = b := by
  cases h with
  | record r hr => rw [htable] at hr; cases hr
  | descriptor d hd hb => exact .inl ⟨d, hd, hb⟩
  | hold p x hx hb => exact .inr ⟨p, x, hx, hb⟩

/-! ## Releases -/

/-- The planes of a line name contributions of the line and hold slots only. -/
theorem Node.lineDesc_names {f : FrameCtx} {q : Four (Option Contribution)} {tc : Option Timecode} {k : Nat}
    {cause : Cause} {n : Node} {b : Nat} (h : 0 < (Descriptor.line (n.lineDesc f q tc k cause)).names b) :
    ContribsName b q ∨ ∃ p x, n.se.holds.get p = some x ∧ x.buf = b := by
  obtain ⟨p, hp⟩ := Four.countP_pos.1 h
  simp only [Node.lineDesc, Four.get_build, planeOut] at hp
  split at hp
  · next x hx =>
    exact .inl ⟨p, x, hx, by simpa [namesOut] using hp⟩
  · unfold concealed at hp
    split at hp
    · split at hp
      · next x _ hx => exact .inr ⟨p, x, hx, by simpa [namesOut] using hp⟩
      · cases hp
      · cases hp
    · cases hp

/-- A line that goes out names nothing but its contributions and what was named. -/
theorem Node.releaseLine_named {f : FrameCtx} {q : Four (Option Contribution)} {tc : Option Timecode} {k : Nat}
    {cause : Cause} {n : Node} {b : Nat}
    (h : Named (n.releaseLine f q tc k cause).se (n.releaseLine f q tc k cause).ou b) :
    ContribsName b q ∨ Named n.se n.ou b := by
  cases h with
  | record r hr hb => exact .inr (.record r hr hb)
  | descriptor d hd hb =>
    obtain hold | hnew := List.mem_append.1 hd
    · exact .inr (.descriptor d hold hb)
    · cases List.mem_singleton.1 hnew
      exact (Node.lineDesc_names hb).imp_right fun ⟨p, x, hx, hxb⟩ => .hold p x hx hxb
  | hold p x hx hb =>
    have hafter : holdAfter f.fCur f.nNext (q.get p) (n.se.holds.get p) = some x := by
      simpa [Node.releaseLine, Node.putLine, Node.lineDesc] using hx
    cases hq : q.get p with
    | none => exact .inr (.hold p x (by simpa [holdAfter, hq] using hafter) hb)
    | some y =>
      have hxy : (⟨y.buf, y.length, f.fCur, f.nNext⟩ : Hold) = x := by simpa [holdAfter, hq] using hafter
      exact .inl ⟨p, y, hq, by rw [← hb, ← hxy]⟩

theorem noContribs_name (b : Nat) : ¬ ContribsName b noContribs := by
  rintro ⟨p, k, hk, -⟩
  simp [noContribs] at hk

theorem foldl_lowerRecord_mem {fCur : BitVec 8} {l : List Record} {best : Option Record} {r : Record}
    (h : l.foldl (lowerRecord fCur) best = some r) : r ∈ l ∨ best = some r := by
  induction l generalizing best with
  | nil => exact .inr h
  | cons x l ih =>
    obtain hmem | hbest := ih h
    · exact .inl (List.mem_cons_of_mem _ hmem)
    · cases best with
      | none =>
        cases hbest
        exact .inl List.mem_cons_self
      | some b =>
        simp only [lowerRecord] at hbest
        split at hbest
        · cases hbest
          exact .inl List.mem_cons_self
        · exact .inr hbest

/-- The head record is one of the table's. -/
theorem headRecord_mem {fCur : BitVec 8} {l : List Record} {r : Record} (h : headRecord fCur l = some r) : r ∈ l :=
  (foldl_lowerRecord_mem h).resolve_right nofun

section
variable (c : Settled) (n : Node)

theorem Node.releaseGap_names (f : FrameCtx) : NamesKept n (n.releaseGap f) :=
  ⟨n.releaseGap_frame f, fun b h => (Node.releaseLine_named h).resolve_left (noContribs_name b)⟩

theorem Node.releaseRecord_names (f : FrameCtx) {r : Record} (hr : r ∈ n.se.table) (cause : Cause) :
    NamesKept n (n.releaseRecord f r cause) := by
  refine ⟨n.releaseRecord_frame f r cause, fun b h => ?_⟩
  obtain hown | hold := Node.releaseLine_named h
  · exact .record r hr hown
  · exact hold.of_parts (fun x hx => ⟨x, List.mem_of_mem_erase hx, fun _ _ => id⟩) (fun _ => .inl) fun _ _ => id

theorem Node.discardTable_names : NamesKept n n.discardTable := by
  unfold Node.discardTable
  exact NamesKept.trans (.of_empty n { n.se with
    table := [], contribDiscarded := Counter.bumps _ n.se.contribDiscarded }) (.raiseIf _ _ _)

theorem Node.enterFlushing_names (f : FrameCtx) : NamesKept n (n.enterFlushing f) := by
  unfold Node.enterFlushing
  exact (n.discardTable_names.trans (.of_state _ _)).trans (.raise _ _)

theorem Node.putFrameEnd_names (f : FrameCtx) (cause : EndCause) : NamesKept n (n.putFrameEnd f cause) := by
  refine ⟨n.putFrameEnd_frame f cause, fun b h => h.of_parts (fun r hr => ⟨r, hr, fun _ _ => id⟩) (fun d hd => ?_)
    fun _ _ => id⟩
  obtain hold | hnew := List.mem_append.1 hd
  · exact .inl hold
  · exact .inr ⟨_, List.mem_singleton.1 hnew⟩

/-- The engine in IDLE holds no record and no hold slot. -/
theorem NamesKept.of_idle (n : Node) (se : Se) (htable : se.table = []) (hholds : se.holds = Four.const none)
    (hlocked : se.lockedSet = n.se.lockedSet := by rfl) : NamesKept n { n with se := se } :=
  .of_empty n se htable (fun p x hx => by simp [hholds] at hx) hlocked

theorem Node.flushStep_names (f : FrameCtx) : NamesKept n (n.flushStep c f) := by
  refine ⟨n.flushStep_frame c f, ?_⟩
  unfold Node.flushStep
  split
  · intro b h
    have hline : Named (n.releaseLine f noContribs none 0 .flush).se (n.releaseLine f noContribs none 0 .flush).ou b :=
      h.of_parts (fun r hr => ⟨r, hr, fun _ _ => id⟩) (fun _ => .inl) fun _ _ => id
    exact (Node.releaseLine_named hline).resolve_left (noContribs_name b)
  · exact ((n.putFrameEnd_names f .flush).trans (.of_idle _ _ rfl rfl)).named

theorem Node.withdraw_names (mask : PlaneSet) : NamesKept n (n.withdraw mask) := by
  unfold Node.withdraw
  extract_lets before table k
  have hkept : NamesKept n { n with se := { n.se with
      table := table.filter fun r => contribCount r.contribs != 0
      contribWithdrawn := Counter.bumps k n.se.contribWithdrawn } } := by
    refine .of_se n _ (fun r hr => ?_) fun _ _ => id
    obtain ⟨r', hr', rfl⟩ := List.mem_map.1 (List.mem_filter.1 hr).1
    refine ⟨r', hr', fun p x hx => ?_⟩
    simp only [Record.withdraw, keepPlanes, Four.get_build] at hx
    split at hx
    · exact hx
    · cases hx
  exact hkept.trans (.raiseIf _ _ _)


/-- Records changed but for their contributions name nothing new. -/
theorem NamesKept.of_map (n : Node) (f : Record → Record) (hf : ∀ r, (f r).contribs = r.contribs) :
    NamesKept n { n with se := { n.se with table := n.se.table.map f } } := by
  refine .of_se n _ (fun r hr => ?_) fun _ _ => id
  obtain ⟨r', hr', rfl⟩ := List.mem_map.1 hr
  exact ⟨r', hr', fun p k hk => hf r' ▸ hk⟩

@[simp] theorem Record.evaluate_contribs (j : PlaneSet) (e : Word32) (r : Record) :
    (r.evaluate j e).contribs = r.contribs := by
  unfold Record.evaluate
  split
  · split <;> rfl
  · split <;> rfl
  · rfl

theorem Node.reevaluate_names (j : PlaneSet) : NamesKept n (n.reevaluate j) :=
  .of_map n _ (Record.evaluate_contribs j n.tb.e)

theorem Node.advanceFrame_names (f : FrameCtx) : NamesKept n (n.advanceFrame f) := by
  unfold Node.advanceFrame
  extract_lets n1 se1 n2 mask g n3 n4 se4
  have h2 : NamesKept n n2 := (n.putFrameEnd_names f .normal).trans (.of_state n1 _)
  have h3 : NamesKept n n3 := h2.trans ((Node.withdraw_names n2 mask).trans (Node.reevaluate_names _ g.j))
  split
  · exact h3.trans ((n3.discardTable_names.trans (.of_idle n4 _ rfl rfl)).trans (.raise _ _))
  · exact h3.trans (.of_state n3 _)

theorem Node.releaseStep_names {f : FrameCtx} {n t : Node} (h : n.releaseStep c f = some t) : NamesKept n t := by
  unfold Node.releaseStep at h
  split at h
  · cases h
    exact n.advanceFrame_names f
  · split at h
    · cases h
    · next r hr =>
      split at h
      · split at h
        · cases h
          exact n.releaseRecord_names f (headRecord_mem hr) _
        · cases h
          exact n.releaseGap_names f
      · cases h

theorem Node.engineStep_names {n t : Node} (h : n.engineStep c = some t) : NamesKept n t := by
  unfold Node.engineStep at h
  split at h
  · cases h
  · split at h
    · cases h
    · exact Node.releaseStep_names c h
    · cases h
      exact n.flushStep_names c _

theorem Node.runEngine_names : NamesKept n (n.runEngine c) := by
  have hsteps : ∀ (k : Nat) (n : Node), NamesKept n (n.engineSteps c k) := by
    intro k
    induction k with
    | zero => exact .refl
    | succ k ih =>
      intro n
      unfold Node.engineSteps
      split
      · exact .refl n
      · next t ht => exact (Node.engineStep_names c ht).trans (ih t)
  exact hsteps 4 n

theorem Node.force_names (k : Nat) (n : Node) : NamesKept n (n.force c k) := by
  induction k generalizing n with
  | zero => exact .refl n
  | succ k ih =>
    unfold Node.force
    split
    · split
      · exact .refl n
      · split
        · exact .refl n
        · next f _ _ r hr =>
          refine NamesKept.trans ?_ (ih _)
          unfold Node.forceStep
          split
          · exact n.advanceFrame_names _
          · split
            · exact n.releaseRecord_names _ (headRecord_mem hr) _
            · exact n.releaseGap_names _
    · exact .refl n

theorem Node.walkTo_names (frame : BitVec 8) (line : Nat) (k : Nat) (n : Node) :
    NamesKept n (n.walkTo c frame line k) := by
  induction k generalizing n with
  | zero => exact .refl n
  | succ k ih =>
    unfold Node.walkTo
    split
    · split
      · exact .refl n
      · split
        · exact (n.advanceFrame_names _).trans (ih _)
        · exact (n.releaseGap_names _).trans (ih _)
    · exact .refl n

theorem Node.raiseStray_names : NamesKept n (n.raiseStray c) := by
  unfold Node.raiseStray
  split
  · split
    · exact .of_state n _
    · exact (NamesKept.trans (.of_state n { n.se with resyncStray := Counter.bump n.se.resyncStray })
        (Node.enterFlushing_names _ _)).trans (Node.runEngine_names c _)
  · exact .refl n

end

/-! ## Deliveries -/

/-- What a delivery makes of the store: accepted, its buffer is REFERENCED and may be named beside what was named; else
the store stands and nothing new is named. The lanes and LU stay. -/
structure Delivered (n : Node) (b : Nat) (r : Node × Answer) : Prop where
  rl : r.1.rl = n.rl
  lu : r.1.lu = n.lu
  ss : r.1.ss = if r.2 = .accept then n.ss.mark b (.referenced 1) else n.ss
  named : ∀ a, Named r.1.se r.1.ou a → Named n.se n.ou a ∨ r.2 = .accept ∧ a = b

theorem Delivered.of_names {n t : Node} {b : Nat} {a : Answer} (h : NamesKept n t) (ha : a ≠ .accept) :
    Delivered n b (t, a) := by
  have hframe := h.frame
  refine ⟨by rw [hframe], by rw [hframe], ?_, fun k hk => .inl (h.named k hk)⟩
  simp only [ha, if_false]
  rw [hframe]

/-- Steps of the engine before a delivery. -/
theorem Delivered.before {n m : Node} {b : Nat} {r : Node × Answer} (h : NamesKept n m) (hd : Delivered m b r) :
    Delivered n b r := by
  have hframe := h.frame
  refine ⟨hd.rl.trans (by rw [hframe]), hd.lu.trans (by rw [hframe]), hd.ss.trans (by rw [hframe]), fun k hk => ?_⟩
  exact (hd.named k hk).imp_left (h.named k)

theorem findRecord_mem {frame : BitVec 8} {line : Nat} {l : List Record} {r : Record}
    (h : findRecord frame line l = some r) : r ∈ l := List.mem_of_find?_eq_some h

/-- The one contribution of a delivery names its buffer. -/
theorem Delivery.contribs_name {d : Delivery} {b : Nat} (h : ContribsName b d.contribs) : b = d.buf := by
  obtain ⟨p, k, hk, rfl⟩ := h
  unfold Delivery.contribs at hk
  by_cases hp : p = d.plane
  · subst hp
    rw [Four.get_set_self] at hk
    cases hk
    rfl
  · rw [Four.get_set_of_ne _ _ hp, Four.get_const] at hk
    cases hk

theorem Record.join_name {d : Delivery} {r : Record} {b : Nat} (h : ContribsName b (r.join d).contribs) :
    ContribsName b r.contribs ∨ b = d.buf := by
  obtain ⟨p, k, hk, rfl⟩ := h
  simp only [Record.join] at hk
  by_cases hp : p = d.plane
  · subst hp
    rw [Four.get_set_self] at hk
    cases hk
    exact .inr rfl
  · rw [Four.get_set_of_ne _ _ hp] at hk
    exact .inl ⟨p, k, hk, rfl⟩

/-- The table after an accepted delivery names what it named and the delivery's buffer. -/
theorem tableWith_name {j : PlaneSet} {e : Word32} {w : Nat} {d : Delivery} {l : List Record} {r : Record} {b : Nat}
    (hr : r ∈ tableWith j e w d l) (hb : ContribsName b r.contribs) :
    (∃ x ∈ l, ContribsName b x.contribs) ∨ b = d.buf := by
  unfold tableWith at hr
  split at hr
  · obtain hold | hnew := List.mem_append.1 hr
    · exact .inl ⟨r, hold, hb⟩
    · rw [List.mem_singleton.1 hnew, Record.evaluate_contribs] at hb
      exact .inr (Delivery.contribs_name hb)
  · obtain ⟨x, hx, rfl⟩ := List.mem_map.1 hr
    split at hb
    · rw [Record.evaluate_contribs] at hb
      exact (Record.join_name hb).imp_left fun h => ⟨x, hx, h⟩
    · exact .inl ⟨x, hx, hb⟩

section
variable (c : Settled) (n : Node)

theorem Node.accept_delivered (f : FrameCtx) (d : Delivery) : Delivered n d.buf (n.accept c f d, .accept) := by
  unfold Node.accept
  have hrun := Node.runEngine_names c { n with
    ss := n.ss.mark d.buf (.referenced 1)
    se := { n.se with table := tableWith f.j n.tb.e n.rh.runtime.w d n.se.table, strayRun := 0 } }
  have hframe := hrun.frame
  refine ⟨by rw [hframe], by rw [hframe], by rw [hframe]; rfl, fun a ha => ?_⟩
  obtain ⟨r, hr, hb⟩ | ⟨x, hx, hb⟩ | ⟨p, x, hx, hb⟩ := hrun.named a ha
  · obtain ⟨x, hx, hxb⟩ | hown := tableWith_name hr hb
    · exact .inl (.record x hx hxb)
    · exact .inr ⟨rfl, hown⟩
  · exact .inl (.descriptor x hx hb)
  · exact .inl (.hold p x hx hb)

theorem Node.deliverIdle_delivered (d : Delivery) : Delivered n d.buf (n.deliverIdle c d) := by
  unfold Node.deliverIdle
  split
  · exact .of_names (.refl n) nofun
  · split
    · exact Delivered.before (.of_state n _) (Node.accept_delivered c _ _ d)
    · exact .of_names (.refl n) nofun

theorem Node.ownLine_delivered (f : FrameCtx) (d : Delivery) : Delivered n d.buf (n.ownLine c f d, .accept) := by
  unfold Node.ownLine
  generalize hm : ({ n with
    ss := n.ss.mark d.buf (.referenced 1), se := { n.se with strayRun := 0 } } : Node) = m
  have hline := m.releaseLine_frame f d.contribs d.timecode 0 .forced
  have hrun := Node.runEngine_names c (m.releaseLine f d.contribs d.timecode 0 .forced)
  have hframe := (hline.trans hrun.toEngineFrame).frame
  refine ⟨by rw [hframe, ← hm], by rw [hframe, ← hm], by rw [hframe, ← hm]; rfl, fun a ha => ?_⟩
  obtain hown | hold := Node.releaseLine_named (hrun.named a ha)
  · exact .inr ⟨rfl, Delivery.contribs_name hown⟩
  · refine .inl (hold.of_parts ?_ ?_ ?_)
    · rw [← hm]
      exact fun r hr => ⟨r, hr, fun _ _ => id⟩
    · rw [← hm]
      exact fun _ => .inl
    · rw [← hm]
      exact fun _ _ => id

theorem Node.deliverFull_delivered (f : FrameCtx) (r : Record) (d : Delivery) :
    Delivered n d.buf (n.deliverFull c f r d) := by
  unfold Node.deliverFull
  split
  · split
    · exact .of_names (.refl n) nofun
    · refine Delivered.before (n.walkTo_names c d.frame d.line 4) ?_
      dsimp only
      split
      · exact Node.ownLine_delivered c _ _ d
      · exact Node.deliverIdle_delivered c _ d
  · split
    · exact .of_names (.refl n) nofun
    · refine Delivered.before (n.force_names c 4) ?_
      dsimp only
      split
      · split
        · exact Node.accept_delivered c _ _ d
        · exact .of_names (.refl _) nofun
      · exact Node.deliverIdle_delivered c _ d

/-- Every delivery. -/
theorem Node.deliver_delivered (d : Delivery) : Delivered n d.buf (n.deliver c d) := by
  unfold Node.deliver
  split
  · exact n.deliverIdle_delivered c d
  · split
    · unfold Node.deliverRun
      split
      · split
        · exact n.deliverFull_delivered c _ _ d
        · exact n.accept_delivered c _ d
      · exact n.accept_delivered c _ d
    · exact .of_names (n.raiseStray_names c) nofun
    · next a ha hstray => exact .of_names (.refl n) ha
  · exact .of_names (.refl n) nofun

/-- What a lost plane makes of the engine, its locked set apart: nothing new is named, and the store, the lanes and LU
stand. -/
theorem Node.planeLost_names (p : Fin 4) : (∀ b, Named (n.planeLost c p).se (n.planeLost c p).ou b → Named n.se n.ou b)
    ∧ (n.planeLost c p).ss = n.ss ∧ (n.planeLost c p).rl = n.rl ∧ (n.planeLost c p).lu = n.lu := by
  unfold Node.planeLost
  extract_lets se1 m
  have hm : ∀ b, Named m.se m.ou b → Named n.se n.ou b := fun b h =>
    h.of_parts (fun r hr => ⟨r, hr, fun _ _ => id⟩) (fun _ => .inl) fun _ _ => id
  have hkept : ∀ t : Node, NamesKept m t →
      (∀ b, Named t.se t.ou b → Named n.se n.ou b) ∧ t.ss = n.ss ∧ t.rl = n.rl ∧ t.lu = n.lu := by
    intro t ht
    have hframe := ht.frame
    exact ⟨fun b hb => hm b (ht.named b hb), by rw [hframe], by rw [hframe], by rw [hframe]⟩
  refine hkept _ ?_
  split
  · exact .refl m
  · exact .of_state m _
  · extract_lets g
    split
    · exact (NamesKept.trans (.of_state m { m.se with resyncEmpty := Counter.bump m.se.resyncEmpty })
        (Node.enterFlushing_names _ _)).trans (Node.runEngine_names c _)
    · exact (NamesKept.trans (.of_state m _) (Node.reevaluate_names _ _)).trans (Node.runEngine_names c _)

end

end Sys2Proof.Machine
end

section
/-! SUPPORT. The store's accounts through every command of the lanes, the stitch engine, the output port and the plane
port, and so through every step (O59). -/

namespace Sys2Proof.Machine

/-! ## What stays of the accounts -/

/-- Nothing new is named, and the store, the lanes and LU stand. -/
theorem Node.StoreSound.of_named {n t : Node} (h : n.StoreSound)
    (hnamed : ∀ b, Named t.se t.ou b → Named n.se n.ou b) (hss : t.ss = n.ss) (hrl : t.rl = n.rl)
    (hlu : t.lu = n.lu) : t.StoreSound := by
  refine ⟨fun k b hk => ?_, by rw [hlu]; exact h.distinct⟩
  rw [hss]
  refine h.met k b ?_
  cases k with
  | named => exact hnamed b hk
  | lane p => simpa only [Node.Claims, Node.lane, hrl] using hk
  | line => simpa only [Node.Claims, hlu] using hk
  | queued => simpa only [Node.Claims, hlu] using hk

theorem Node.StoreSound.of_names {n t : Node} (h : n.StoreSound) (hk : NamesKept n t) : t.StoreSound := by
  have hframe := hk.frame
  exact h.of_named hk.named (by rw [hframe]) (by rw [hframe]) (by rw [hframe])

section
variable {n : Node}

namespace Node.StoreExact

theorem of_control {t : Node} (h : n.StoreExact) (hf : ControlFrame n t) : t.StoreExact := by
  have hframe := hf.frame
  rw [hframe]
  exact h.of_same rfl rfl rfl rfl (fun _ => .inl rfl) (fun _ => id) rfl

theorem of_cleared {t : Node} (h : n.StoreExact) (hf : n.OnlyCleared t) : t.StoreExact := by
  have hline : t.lu.line = n.lu.line := (congrArg Lu.line hf.lu :)
  have hseg : ∀ p, (t.lane p).seg = (n.lane p).seg := fun p => (congrArg Lane.seg (hf.lanes p) :)
  exact h.of_same (by rw [hf.ss]) (congrArg Se.table hf.se :) (congrArg Se.holds hf.se :) (congrArg Ou.queue hf.ou :)
    (fun p => .inl (by rw [hseg])) (fun b hb => hline ▸ hb) (congrArg Lu.queue hf.lu :)

/-- A lane changed whose segment keeps its buffer, or gives the claim up. -/
theorem onLane (h : n.StoreExact) (p : Fin 4) (f : Lane → Lane)
    (hf : (f (n.lane p)).seg.buffer = (n.lane p).seg.buffer ∨ (f (n.lane p)).seg.buffer = none) :
    (n.onLane p f).StoreExact := by
  refine h.of_same rfl rfl rfl rfl (fun r => ?_) (fun _ => id) rfl
  by_cases hr : r = p
  · subst hr
    rwa [Node.onLane_lane_self]
  · rw [Node.onLane_lane_of_ne f n hr]
    exact .inl rfl

theorem raise (h : n.StoreExact) (src : Source) : (n.raise src).StoreExact := h.of_control (.raise n src)

theorem raiseIf (h : n.StoreExact) (p : Bool) (src : Source) : (n.raiseIf p src).StoreExact :=
  h.of_control (.raiseIf n p src)

end Node.StoreExact

@[simp] theorem Lane.count_seg (k : LaneCount) (l : Lane) : (l.count k).seg = l.seg := by
  cases k <;> rfl

theorem Node.StoreExact.countLane (h : n.StoreExact) (p : Fin 4) (k : LaneCount) : (n.countLane p k).StoreExact :=
  (h.onLane p _ (.inl (by rw [Lane.count_seg]))).raiseIf _ _

@[simp] theorem Node.countLane_seg (p r : Fin 4) (k : LaneCount) (n : Node) :
    ((n.countLane p k).lane r).seg = (n.lane r).seg := by
  have hrl : (n.countLane p k).lane r = (n.onLane p (Lane.count k)).lane r := by
    simp only [Node.lane, Node.countLane, Node.raiseIf_rl]
  rw [hrl]
  by_cases hr : r = p
  · subst hr
    rw [Node.onLane_lane_self, Lane.count_seg]
  · rw [Node.onLane_lane_of_ne _ _ hr]

/-! ## Lanes -/

/-- A lane without its segment: its buffer is FREE again (R78, R97). -/
theorem Node.StoreExact.abandon (h : n.StoreExact) (p : Fin 4) : (n.abandon p).StoreExact := by
  unfold Node.abandon
  cases hb : (n.lane p).seg.buffer with
  | none => exact h.onLane p _ (.inr rfl)
  | some b =>
    have hstate := h.sound.lane hb
    refine h.of_change (b := b) rfl rfl (fun a ha => Ss.state_setBuf_of_ne ha _) (by simp [hstate]) (fun k => ?_)
      (fun k a hne hk => .inl ?_) h.distinct
    · rw [show (Node.onLane p _ (n.giveBack (some b))).ss = n.ss.release b from rfl, Ss.state_release_self]
      nofun
    · cases k with
      | named => exact absurd rfl hne
      | lane r =>
        by_cases hr : r = p
        · subst hr
          simp only [Node.Claims, Node.onLane_lane_self] at hk
          cases hk
        · have hold : n.Claims (.lane r) a := by
            simp only [Node.Claims, Node.onLane_lane_of_ne _ _ hr] at hk
            exact hk
          exact ⟨h.sound.ne_of_claims hold (by simp [hstate, BufState.claim, Ne.symm hr]), hold⟩
      | line => exact ⟨h.sound.ne_of_claims (k := .line) hk (by simp [hstate, BufState.claim]), hk⟩
      | queued => exact ⟨h.sound.ne_of_claims (k := .queued) hk (by simp [hstate, BufState.claim]), hk⟩

theorem Node.abandon_seg (p : Fin 4) (n : Node) : ((n.abandon p).lane p).seg = .none := by
  unfold Node.abandon
  rw [Node.onLane_lane_self]

theorem Node.StoreExact.loseLane (h : n.StoreExact) (c : Settled) (p : Fin 4) (cause : LaneCount) :
    (n.loseLane c p cause).StoreExact := by
  unfold Node.loseLane
  have hdark := (((h.abandon p).onLane p Lane.toDark (.inr rfl)).countLane p cause).raise .laneChange
  obtain ⟨hnamed, hss, hrl, hlu⟩ := Node.planeLost_names c _ p
  exact (hdark.sound.of_named hnamed hss hrl hlu).settleRefs

theorem Node.StoreExact.carrierLoss (h : n.StoreExact) (c : Settled) (p : Fin 4) : (n.carrierLoss c p).StoreExact := by
  have hsee : (n.seeCarrier p false).StoreExact := h.of_control (.of_pins n _)
  unfold Node.carrierLoss
  dsimp only
  split
  · exact hsee
  · exact (hsee.abandon p).onLane p _ (.inr rfl)
  · exact hsee.loseLane c p _

theorem Node.StoreExact.badSegment (h : n.StoreExact) (c : Settled) (p : Fin 4) (cause : LaneCount) :
    (n.badSegment c p cause).StoreExact := by
  unfold Node.badSegment
  extract_lets m
  have hm : m.StoreExact := (h.abandon p).countLane p cause
  split
  · exact hm
  · exact hm.onLane p _ (.inl rfl)
  · have hbad := hm.onLane p (fun l => { l with badRun := l.badRun + 1 }) (.inl rfl)
    split
    · exact hbad.loseLane c p _
    · exact hbad

/-- A delivery of a buffer that the lane has filled and no longer claims. -/
theorem Node.StoreExact.handBuffer (h : n.StoreExact) (c : Settled) (p : Fin 4) (hd : SegHeader) {b : Nat}
    (payload : List Byte) (hseg : (n.lane p).seg.buffer = none) (hb : (n.ss.buf b).state = .filling (.lane p)) :
    (n.handBuffer c p hd b payload).StoreSound := by
  have hstate : ∀ a, ((n.ss.write b payload).buf a).state = (n.ss.buf a).state := Ss.state_write n.ss b payload
  -- the claims that stand: none is on `b`, which is FILLING for a lane that has given it up
  have hother : ∀ k a, n.Claims k a → a ≠ b := by
    intro k a hk
    refine h.sound.ne_of_claims hk ?_
    rw [hb]
    rintro hclaim
    cases hclaim
    rw [Node.Claims, hseg] at hk
    cases hk
  unfold Node.handBuffer
  extract_lets m
  have hdel := Node.deliver_delivered c m (Node.delivery p hd b m)
  have hclaims : ∀ k a, k ≠ .named → ∀ t : Node, t.rl = n.rl → t.lu = n.lu → t.Claims k a → n.Claims k a := by
    intro k a hne t hrl hlu hk
    cases k with
    | named => exact absurd rfl hne
    | lane r => simpa only [Node.Claims, Node.lane, hrl] using hk
    | line => simpa only [Node.Claims, hlu] using hk
    | queued => simpa only [Node.Claims, hlu] using hk
  split
  · next t ht =>
    rw [ht] at hdel
    have hss : t.ss = m.ss.mark b (.referenced 1) := hdel.ss
    have hself : (t.ss.buf b).state = .referenced 1 := by
      rw [hss]
      exact Ss.state_mark_self (by rw [hstate, hb]; nofun) _
    refine h.sound.of_change (b := b) (fun a ha => ?_) (fun k a hk => ?_) ?_
    · rw [hss]
      exact (Ss.state_setBuf_of_ne ha _).trans (hstate a)
    · by_cases hk' : k = .named
      · subst hk'
        obtain hold | ⟨-, rfl⟩ := hdel.named a hk
        · exact .inl ⟨hother .named a hold, hold⟩
        · exact .inr (by rw [hself]; rfl)
      · have hold := hclaims k a hk' t hdel.rl hdel.lu hk
        exact .inl ⟨hother k a hold, hold⟩
    · rw [hdel.lu]
      exact h.distinct
  · next t ans hans ht =>
    rw [ht] at hdel
    have hne : ans ≠ .accept := hans
    have hss : t.ss = m.ss := by simpa [hne] using hdel.ss
    refine h.sound.of_change (b := b) (fun a ha => ?_) (fun k a hk => ?_) ?_
    · rw [Node.countLane_ss]
      show ((t.ss.release b).buf a).state = _
      rw [hss]
      exact (Ss.state_setBuf_of_ne ha _).trans (hstate a)
    · have hold : n.Claims k a := by
        by_cases hk' : k = .named
        · subst hk'
          have hnamed : Named t.se t.ou a := by simpa [Node.Claims] using hk
          exact (hdel.named a hnamed).resolve_right fun hacc => hne hacc.1
        · refine hclaims k a hk' t hdel.rl hdel.lu ?_
          cases k with
          | named => exact absurd rfl hk'
          | lane r =>
            simp only [Node.Claims, Node.countLane_seg] at hk
            exact hk
          | line => simpa [Node.Claims] using hk
          | queued => simpa [Node.Claims] using hk
      exact .inl ⟨hother k a hold, hold⟩
    · rw [Node.countLane_lu]
      show (t.lu.queue.map (·.buf)).Nodup
      rw [hdel.lu]
      exact h.distinct

theorem Node.StoreExact.present (h : n.StoreExact) (c : Settled) (p : Fin 4) (frame : BitVec 8) (line : Nat) :
    (n.present c p frame line).1.StoreSound := by
  unfold Node.present
  dsimp only
  split
  · exact h.sound.of_names (n.raiseStray_names c)
  · exact h.sound

theorem Node.StoreSound.countLane (h : n.StoreSound) (p : Fin 4) (k : LaneCount) : (n.countLane p k).StoreSound := by
  refine ⟨fun j b hj => ?_, by rw [Node.countLane_lu]; exact h.distinct⟩
  rw [Node.countLane_ss]
  refine h.met j b ?_
  cases j with
  | named => simpa [Node.Claims] using hj
  | lane r => simpa [Node.Claims] using hj
  | line => simpa [Node.Claims] using hj
  | queued => simpa [Node.Claims] using hj

/-- A segment handed on, its lane no longer claiming the buffer it came in. -/
theorem Node.StoreExact.handOn (h : n.StoreExact) (c : Settled) (p : Fin 4) (hd : SegHeader) (disp : Disposition)
    (payload : List Byte) (hseg : (n.lane p).seg.buffer = none)
    (hb : ∀ b, disp = .filling b → (n.ss.buf b).state = .filling (.lane p)) :
    (n.handOn c p hd disp payload).StoreExact := by
  cases disp with
  | filling b => exact (h.handBuffer c p hd payload hseg (hb b rfl)).settleRefs
  | refused => exact (h.present c p hd.frame hd.line).settleRefs
  | checkOnly => exact ((h.present c p hd.frame hd.line).countLane p _).settleRefs

theorem Node.StoreExact.lockLane (h : n.StoreExact) (p : Fin 4) : (n.lockLane p).StoreExact := by
  have hlane := h.onLane p (fun l => { l with state := .locked, goodRun := 0, badRun := 0 }) (.inl rfl)
  have hlocked : (Node.planeLocked p (n.onLane p fun l => { l with
      state := .locked, goodRun := 0, badRun := 0 })).StoreExact :=
    hlane.of_same rfl rfl rfl rfl (fun _ => .inl rfl) (fun _ => id) rfl
  exact hlocked.raise _

theorem Node.lockLane_seg (p : Fin 4) (n : Node) : ((n.lockLane p).lane p).seg = (n.lane p).seg := by
  show ((n.onLane p fun l => { l with state := .locked, goodRun := 0, badRun := 0 }).lane p).seg = _
  rw [Node.onLane_lane_self]

theorem Node.StoreExact.goodSegment (h : n.StoreExact) (c : Settled) (p : Fin 4) (hd : SegHeader) (disp : Disposition)
    (payload : List Byte) (hb : ∀ b, disp = .filling b → (n.lane p).seg.buffer = some b) :
    (n.goodSegment c p hd disp payload).StoreExact := by
  have hstate : ∀ b, disp = .filling b → (n.ss.buf b).state = .filling (.lane p) := fun b hdisp =>
    h.sound.lane (hb b hdisp)
  unfold Node.goodSegment
  extract_lets m
  have hm : m.StoreExact := (h.countLane p .good).onLane p _ (.inl rfl)
  have hss : m.ss = n.ss := Node.countLane_ss p .good n
  split
  · exact hm.abandon p
  · split
    · exact (hm.abandon p).onLane p _ (.inl rfl)
    · have hnone := hm.onLane p (fun l => { l with seg := .none }) (.inr rfl)
      refine (hnone.lockLane p).handOn c p hd disp payload ?_ fun b hdisp => ?_
      · rw [Node.lockLane_seg, Node.onLane_lane_self]
        rfl
      · show (m.ss.buf b).state = _
        rw [hss]
        exact hstate b hdisp
  · have hnone := hm.onLane p (fun l => { l with seg := .none, badRun := 0 }) (.inr rfl)
    refine hnone.handOn c p hd disp payload ?_ fun b hdisp => ?_
    · rw [Node.onLane_lane_self]
      rfl
    · rw [Node.onLane_ss, hss]
      exact hstate b hdisp

theorem Node.StoreExact.segmentEnd (h : n.StoreExact) (c : Settled) (p : Fin 4) (how : SegEnd) (violation : Bool)
    (rest : List Byte) : (n.segmentEnd c p how violation rest).StoreExact := by
  unfold Node.segmentEnd
  split
  · exact h
  · exact h.badSegment c p _
  · next bytes hd disp hseg =>
    split
    · refine h.goodSegment c p hd disp _ fun b hdisp => ?_
      rw [hseg, hdisp]
      rfl
    · split <;> exact h.badSegment c p _

theorem Node.StoreExact.startDelimiter (h : n.StoreExact) (c : Settled) (p : Fin 4) (cp : Bool) :
    (n.startDelimiter c p cp).StoreExact := by
  unfold Node.startDelimiter
  split
  · have hsee : (n.seeCarrier p true).StoreExact := h.of_control (.of_pins n _)
    refine (hsee.segmentEnd c p .truncation false []).onLane p _ (.inr ?_)
    unfold Lane.start
    split <;> rfl
  · exact h.carrierLoss c p

/-- A lane that claims no buffer asks for one (R75, R100). -/
theorem Node.StoreExact.askGrant (h : n.StoreExact) (p : Fin 4) (bytes : List Byte) (hd : SegHeader)
    (hseg : (n.lane p).seg.buffer = none) : (n.askGrant p bytes hd).StoreExact := by
  unfold Node.askGrant
  obtain ⟨b, hgrant, hfree, hfilling, hothers⟩ | ⟨hnone, hbufs⟩ :=
    n.ss.grant_cases n.se.state (.lane p hd.frame hd.line)
  · split
    · next ss b' heq =>
      rw [heq] at hgrant hfilling hothers
      cases hgrant
      refine h.of_change (b := b) rfl rfl (fun a ha => congrArg Buf.state (hothers a ha)) (by simp [hfree])
        (fun k => ?_) (fun k a hne hk => ?_) h.distinct
      · show (ss.buf b).state ≠ _
        rw [hfilling]
        nofun
      · cases k with
        | named => exact absurd rfl hne
        | lane r =>
          by_cases hr : r = p
          · subst hr
            simp only [Node.Claims, Node.onLane_lane_self] at hk
            cases hk
            exact .inr (congrArg BufState.claim hfilling)
          · have hold : n.Claims (.lane r) a := by
              simp only [Node.Claims, Node.onLane_lane_of_ne _ _ hr] at hk
              exact hk
            exact .inl ⟨h.sound.ne_of_claims hold (by simp [hfree, BufState.claim]), hold⟩
        | line => exact .inl ⟨h.sound.ne_of_claims (k := .line) hk (by simp [hfree, BufState.claim]), hk⟩
        | queued => exact .inl ⟨h.sound.ne_of_claims (k := .queued) hk (by simp [hfree, BufState.claim]), hk⟩
    · next heq =>
      rw [heq] at hgrant
      cases hgrant
  · split
    · next heq =>
      rw [heq] at hnone
      cases hnone
    · next ss heq =>
      rw [heq] at hbufs
      have hsame : ({ n with ss := ss } : Node).StoreExact :=
        h.of_same hbufs rfl rfl rfl (fun _ => .inl rfl) (fun _ => id) rfl
      exact (hsame.onLane p _ (.inr rfl)).countLane p _

theorem Node.StoreExact.segmentHeader (h : n.StoreExact) (c : Settled) (p : Fin 4) (bytes : List Byte) :
    (n.segmentHeader c p bytes).StoreExact := by
  unfold Node.segmentHeader
  extract_lets hd
  split
  · next hseg =>
    simp only [Bool.and_eq_true, decide_eq_true_eq] at hseg
    split
    · exact h.askGrant p bytes _ (by rw [hseg.1]; rfl)
    · exact h.onLane p _ (.inr rfl)
  · exact h

theorem Node.StoreExact.silenceTimeout (h : n.StoreExact) (c : Settled) (p : Fin 4) :
    (n.silenceTimeout c p).StoreExact := by
  unfold Node.silenceTimeout
  split
  · split
    · exact h
    · exact h.onLane p _ (.inl rfl)
    · exact h.loseLane c p _
  · exact h

/-! ## Deadlines and the output port -/

theorem Node.StoreExact.recordDeadline (h : n.StoreExact) (c : Settled) (frame : BitVec 8) (line : Nat) :
    (n.recordDeadline c frame line).StoreExact := by
  unfold Node.recordDeadline
  split
  · have hexpire : NamesKept n { n with se := { n.se with table := n.se.table.map (expireAt frame line n.tb.e) } } :=
      .of_map n _ fun r => by unfold expireAt; split <;> rfl
    exact (h.sound.of_names (hexpire.trans (Node.runEngine_names c _))).settleRefs
  · exact h

theorem Ou.endRecord_mem {ou : Ou} {d : Descriptor} (h : d ∈ ou.endRecord.queue) : d ∈ ou.queue := by
  unfold Ou.endRecord at h
  split at h
  · exact h
  · next hq => rw [hq]; exact List.mem_cons_of_mem _ h
  · next hq => rw [hq]; exact List.mem_cons_of_mem _ h

theorem Node.StoreExact.recordEnd (h : n.StoreExact) (c : Settled) : (n.recordEnd c).StoreExact := by
  unfold Node.recordEnd
  split
  · have hend : ({ n with ou := n.ou.endRecord } : Node).StoreSound :=
      h.sound.of_named (fun b hb => hb.of_parts (fun r hr => ⟨r, hr, fun _ _ => id⟩)
        (fun _ hd => .inl (Ou.endRecord_mem hd)) fun _ _ => id) rfl rfl rfl
    exact (hend.of_names (Node.runEngine_names c _)).settleRefs
  · exact h

/-- The output port moved, its queue kept. -/
theorem Node.StoreExact.withOu (h : n.StoreExact) {ou : Ou} (hq : ou.queue = n.ou.queue) (v : Bool) :
    (Node.seeReady v { n with ou := ou }).StoreExact :=
  h.of_same rfl rfl rfl hq (fun _ => .inl rfl) (fun _ => id) rfl

/-! ## The plane port and the uplink -/

/-- A filling line dropped: its buffer is FREE again (R78, R92). -/
theorem Node.StoreExact.dropFilling (h : n.StoreExact) (d : LineDrop) {b : Nat} (hb : n.lu.line = .filling b)
    (after : LineState) (hafter : ∀ a, after ≠ .filling a) : (n.dropFilling d b after).StoreExact := by
  have hstate := h.sound.line hb
  have hlu : ∀ lu : Lu, (lu.count d).line = lu.line ∧ (lu.count d).queue = lu.queue := fun lu => by
    cases d <;> exact ⟨rfl, rfl⟩
  unfold Node.dropFilling Node.dropLine
  refine Node.StoreExact.raise ?_ _
  refine h.of_change (b := b) rfl rfl (fun a ha => Ss.state_setBuf_of_ne ha _) (by simp [hstate]) (fun k => ?_)
    (fun k a hne hk => .inl ?_) (by rw [(hlu _).2]; exact h.distinct)
  · show ((n.ss.release b).buf b).state ≠ _
    rw [Ss.state_release_self]
    nofun
  · cases k with
    | named => exact absurd rfl hne
    | lane r => exact ⟨h.sound.ne_of_claims (k := .lane r) hk (by simp [hstate, BufState.claim]), hk⟩
    | line =>
      simp only [Node.Claims, (hlu _).1] at hk
      exact absurd hk (hafter a)
    | queued =>
      have hold : n.Claims .queued a := by simpa only [Node.Claims, (hlu _).2] using hk
      exact ⟨h.sound.ne_of_claims hold (by simp [hstate, BufState.claim]), hold⟩

/-- LU's line state changed to one that fills no buffer, the launch queue kept. -/
theorem Node.StoreExact.withLu (h : n.StoreExact) (lu : Lu) (hline : ∀ b, lu.line = .filling b → n.lu.line = .filling b)
    (hqueue : lu.queue = n.lu.queue := by rfl) : ({ n with lu := lu } : Node).StoreExact :=
  h.of_same rfl rfl rfl rfl (fun _ => .inl rfl) hline hqueue

theorem Node.StoreExact.endLine (h : n.StoreExact) : n.endLine.StoreExact := by
  unfold Node.endLine
  split
  · exact h
  · next b hb => exact h.dropFilling .broken hb .outside nofun
  · exact h.withLu _ nofun

theorem Node.StoreExact.frameBegin (h : n.StoreExact) : n.frameBegin.StoreExact :=
  h.endLine.withLu _ fun _ => id

theorem Node.endLine_line (n : Node) : ∀ b, n.endLine.lu.line ≠ .filling b := by
  intro b
  unfold Node.endLine
  split
  · next hline => rw [hline]; nofun
  · exact nofun
  · exact nofun

/-- A new line with its buffer, LU filling none before it (R75, R84). -/
theorem Node.StoreExact.numberLine (h : n.StoreExact) :
    n.numberLine.StoreExact := by
  unfold Node.numberLine
  dsimp only
  obtain ⟨b, hgrant, hfree, hfilling, hothers⟩ | ⟨hnone, hbufs⟩ := n.ss.grant_cases n.se.state .lu
  · split
    · next ss b' heq =>
      rw [heq] at hgrant hfilling hothers
      cases hgrant
      refine h.of_change (b := b) rfl rfl (fun a ha => congrArg Buf.state (hothers a ha)) (by simp [hfree])
        (fun k => ?_) (fun k a hne hk => ?_) h.distinct
      · show (ss.buf b).state ≠ _
        rw [hfilling]
        nofun
      · cases k with
        | named => exact absurd rfl hne
        | lane r => exact .inl ⟨h.sound.ne_of_claims (k := .lane r) hk (by simp [hfree, BufState.claim]), hk⟩
        | line =>
          cases hk
          exact .inr (congrArg BufState.claim hfilling)
        | queued => exact .inl ⟨h.sound.ne_of_claims (k := .queued) hk (by simp [hfree, BufState.claim]), hk⟩
    · next heq =>
      rw [heq] at hgrant
      cases hgrant
  · split
    · next heq =>
      rw [heq] at hnone
      cases hnone
    · next ss heq =>
      rw [heq] at hbufs
      unfold Node.dropLine
      refine Node.StoreExact.raise ?_ _
      exact h.of_same hbufs rfl rfl rfl (fun _ => .inl rfl) nofun rfl

theorem Node.StoreExact.lineBegin (h : n.StoreExact) : n.lineBegin.StoreExact := by
  unfold Node.lineBegin
  split
  · exact (h.withLu (Lu.count .noFrame { n.lu with line := .discarding }) nofun).raise _
  · exact h.endLine.numberLine

theorem Node.StoreExact.payload (h : n.StoreExact) (bs : List Byte) : (n.payload bs).StoreExact := by
  unfold Node.payload
  split
  · exact h.withLu _ fun _ => id
  · next b hb =>
    split
    · have hstate := Ss.state_write n.ss b bs
      have hfill := h.sound.line hb
      refine h.of_change (b := b) rfl rfl (fun a _ => hstate a) (by simp [hfill]) (fun k => ?_)
        (fun k a _ hk => .inr ?_) h.distinct
      · show ((n.ss.write b bs).buf b).state ≠ _
        rw [hstate, hfill]
        nofun
      · show ((n.ss.write b bs).buf a).state.claim = _
        rw [hstate]
        exact h.sound.met k a hk
    · exact h.dropFilling .overlong hb .discarding nofun
  · exact h

/-- A finished line joins the launch queue, its buffer QUEUED (R78, R87). -/
theorem Node.StoreExact.queueSegment (h : n.StoreExact) {b : Nat} (hb : n.lu.line = .filling b) :
    (n.queueSegment b).StoreExact := by
  have hfill := h.sound.line hb
  have hself : ((n.ss.mark b .queued).buf b).state = .queued := Ss.state_mark_self (by rw [hfill]; nofun) _
  refine h.of_change (b := b) rfl rfl (fun a ha => Ss.state_setBuf_of_ne ha _) (by simp [hfill]) (fun k => ?_)
    (fun k a hne hk => ?_) ?_
  · rw [Node.queueSegment_ss, hself]
    nofun
  · cases k with
    | named => exact absurd rfl hne
    | lane r => exact .inl ⟨h.sound.ne_of_claims (k := .lane r) hk (by simp [hfill, BufState.claim]), hk⟩
    | line => cases hk
    | queued =>
      obtain ⟨g, hg, rfl⟩ := hk
      rw [Node.queueSegment_queue] at hg
      obtain hold | hnew := List.mem_append.1 hg
      · exact .inl ⟨h.sound.ne_of_claims (k := .queued) ⟨g, hold, rfl⟩ (by simp [hfill, BufState.claim]),
          ⟨g, hold, rfl⟩⟩
      · rw [List.mem_singleton.1 hnew]
        exact .inr (congrArg BufState.claim hself)
  · rw [Node.queueSegment_queue, List.map_append]
    refine List.nodup_append.2 ⟨h.distinct, List.nodup_singleton _, fun a ha x hx => ?_⟩
    obtain ⟨g, hg, rfl⟩ := List.mem_map.1 ha
    cases List.mem_singleton.1 hx
    exact h.sound.ne_of_claims (k := .queued) ⟨g, hg, rfl⟩ (by simp [Node.segmentOf, hfill, BufState.claim])

theorem Node.StoreExact.lineEnd (h : n.StoreExact) (c : Settled) : (n.lineEnd c).StoreExact := by
  unfold Node.lineEnd
  split
  · exact h.withLu _ fun _ => id
  · exact h.withLu _ nofun
  · next b hb =>
    split
    · exact h.dropFilling .excess hb .outside nofun
    · split
      · exact h.dropFilling .empty hb .outside nofun
      · split
        · exact h.dropFilling .overflow hb .outside nofun
        · exact h.queueSegment hb

/-- The oldest segment sent: its buffer is FREE again (R78, R89). -/
theorem Node.StoreExact.launched (h : n.StoreExact) : n.launched.StoreExact := by
  unfold Node.launched
  split
  · exact h
  · next g rest hq =>
    have hdistinct : g.buf ∉ rest.map (·.buf) ∧ (rest.map (·.buf)).Nodup := by
      have := h.distinct
      rwa [hq, List.map_cons, List.nodup_cons] at this
    have hstate := h.sound.queued (g := g) (by rw [hq]; exact List.mem_cons_self)
    refine h.of_change (b := g.buf) rfl rfl (fun a ha => Ss.state_setBuf_of_ne ha _) (by simp [hstate]) (fun k => ?_)
      (fun k a hne hk => .inl ?_) hdistinct.2
    · show ((n.ss.release g.buf).buf g.buf).state ≠ _
      rw [Ss.state_release_self]
      nofun
    · cases k with
      | named => exact absurd rfl hne
      | lane r => exact ⟨h.sound.ne_of_claims (k := .lane r) hk (by simp [hstate, BufState.claim]), hk⟩
      | line => exact ⟨h.sound.ne_of_claims (k := .line) hk (by simp [hstate, BufState.claim]), hk⟩
      | queued =>
        obtain ⟨x, hx, rfl⟩ := hk
        have hx : x ∈ rest := hx
        refine ⟨fun heq => hdistinct.1 (heq ▸ List.mem_map_of_mem hx), x, ?_, rfl⟩
        rw [hq]
        exact List.mem_cons_of_mem _ hx

/-! ## Resets -/

/-- A block whose buffers are all FREE and that names and claims none. -/
theorem Node.StoreExact.of_fresh (hss : n.ss = Ss.powerOn) (hse : n.se = Se.powerOn) (hqueue : n.ou.queue = [])
    (hrl : n.rl = Four.const Lane.powerOn) (hline : n.lu.line = .outside) (hlaunch : n.lu.queue = []) :
    n.StoreExact := by
  have hbuf : ∀ b, n.ss.buf b = Buf.free := fun b => by
    rw [hss]
    unfold Ss.buf Ss.powerOn
    rw [List.getD_eq_getElem?_getD, List.getElem?_replicate]
    split <;> rfl
  have hcount : ∀ b, refCount n.se n.ou b = 0 := fun b => by
    refine Nat.eq_zero_of_not_pos fun hpos => ?_
    rw [hse] at hpos
    cases refCount_pos.1 hpos with
    | record r hr => cases hr
    | descriptor d hd => rw [hqueue] at hd; cases hd
    | hold p x hx => simp [Se.powerOn] at hx
  refine ⟨fun b => by rw [hcount, hbuf]; rfl, fun b k hk => ?_, fun p b hb => ?_, fun b hb => ?_, fun g hg => ?_, ?_⟩
  · rw [hbuf] at hk
    cases hk
  · simp [Node.lane, hrl, Lane.powerOn, InProgress.buffer] at hb
  · rw [hline] at hb
    cases hb
  · rw [hlaunch] at hg
    cases hg
  · rw [hlaunch]
    exact List.nodup_nil

theorem Node.StoreExact.powerOn (straps : Straps) (pins : Pins) (k : Nat) :
    (Node.powerOn straps pins k).StoreExact := .of_fresh rfl rfl rfl rfl rfl rfl

theorem Node.StoreExact.softReset {c : Settled} : (n.softReset c).StoreExact := .of_fresh rfl rfl rfl rfl rfl rfl

theorem Node.StoreExact.settle (h : n.StoreExact) (body : List Byte) : (n.settle body).1.StoreExact := by
  unfold Node.settle
  split
  · exact h
  · split
    · exact h
    · split
      · exact h
      · have hlu : (n.lu.settle n.rh.straps.role).line = n.lu.line ∧ (n.lu.settle n.rh.straps.role).queue = n.lu.queue := by
          unfold Lu.settle
          split <;> exact ⟨rfl, rfl⟩
        exact h.of_same rfl rfl rfl rfl (fun _ => .inl rfl) (fun b hb => hlu.1 ▸ hb) hlu.2

theorem Node.StoreExact.assertReset (h : n.StoreExact) : n.assertReset.StoreExact := by
  unfold Node.assertReset
  split
  · exact h.of_same rfl rfl rfl rfl (fun _ => .inl rfl) (fun _ => id) rfl
  · have hcut : ({ n with rstLow := true, se := n.se.enterIdle, ou := n.ou.cutByReset } : Node).StoreSound := by
      refine h.sound.of_named (fun b hb => ?_) rfl rfl rfl
      cases hb with
      | record r hr => cases hr
      | descriptor d hd => cases hd
      | hold p x hx => simp [Se.enterIdle] at hx
    exact hcut.settleRefs

/-! ## Every command -/

theorem storeExact_keptByControl : KeptByControl Node.StoreExact :=
  ⟨Node.StoreExact.of_control, Node.StoreExact.of_cleared, fun _ _ => Node.StoreExact.softReset⟩

theorem Node.StoreExact.asHead (h : n.StoreExact) {f : Settled → Node → Node} (hf : ∀ c, (f c n).StoreExact) :
    (n.awake fun n => n.asHead f).StoreExact := by
  refine KeptByControl.awake h ?_
  obtain heq | ⟨c, -, heq⟩ := n.asHead_cases f <;> rw [heq]
  · exact h
  · exact hf c

theorem Node.StoreExact.asBase (h : n.StoreExact) {f : Settled → Node → Node} (hf : ∀ c, (f c n).StoreExact) :
    (n.asBase f).StoreExact := by
  obtain heq | ⟨c, -, heq⟩ := n.asBase_cases f <;> rw [heq]
  · exact h
  · exact hf c

/-- Every command keeps the store's accounts. -/
theorem Node.StoreExact.after (h : n.StoreExact) (i : Instr) : (n.after i).StoreExact := by
  have hk := storeExact_keptByControl
  cases i with
  | powerOnReset role plane node adr => exact .powerOn _ _ _
  | rstNAsserted =>
    rw [Node.after_rstNAsserted]
    exact KeptByControl.awake h h.assertReset
  | settle addr body =>
    rw [Node.after_settle]
    exact KeptByControl.awake h (hk.request h fun m hm => hm.settle body)
  | status addr req =>
    rw [Node.after_status]
    exact KeptByControl.awake h (hk.request h fun m hm => hk.status hm _ _ _)
  | softReset addr body =>
    rw [Node.after_softReset]
    exact KeptByControl.awake h (hk.request h fun m hm => hk.softResetRequest hm body)
  | controlReceived key payload arrival =>
    rw [Node.after_controlReceived]
    exact KeptByControl.awake h (hk.controlReceived h _ _ _ _ _)
  | frameBegin =>
    rw [Node.after_frameBegin]
    exact h.asHead fun c => h.frameBegin
  | lineBegin =>
    rw [Node.after_lineBegin]
    exact h.asHead fun c => h.lineBegin
  | payloadWord pctl pd =>
    rw [Node.after_payloadWord]
    refine h.asHead fun c => ?_
    split
    · exact h
    · exact h.payload _
  | lineEnd =>
    rw [Node.after_lineEnd]
    exact h.asHead fun c => h.lineEnd c
  | segmentLaunched =>
    rw [Node.after_segmentLaunched]
    refine h.asHead fun c => ?_
    split
    · exact h.launched
    · exact h
  | carrierLoss p =>
    rw [Node.after_carrierLoss]
    exact KeptByControl.awake h (h.asBase fun c => h.carrierLoss c p)
  | startDelimiter p cp =>
    rw [Node.after_startDelimiter]
    exact KeptByControl.awake h (h.asBase fun c => h.startDelimiter c p cp)
  | segmentHeader p bytes =>
    rw [Node.after_segmentHeader]
    exact KeptByControl.awake h (h.asBase fun c => h.segmentHeader c p bytes)
  | segmentEnd p how v rest =>
    rw [Node.after_segmentEnd]
    exact KeptByControl.awake h (h.asBase fun c => h.segmentEnd c p how v rest)
  | silenceTimeout p =>
    rw [Node.after_silenceTimeout]
    exact KeptByControl.awake h (h.asBase fun c => h.silenceTimeout c p)
  | recordDeadline frame line =>
    rw [Node.after_recordDeadline]
    exact KeptByControl.awake h (h.asBase fun c => h.recordDeadline c frame line)
  | recordEnd =>
    rw [Node.after_recordEnd]
    exact KeptByControl.awake h (h.asBase fun c => (h.recordEnd c).of_control (.of_pins _ _))
  | abortTaken =>
    rw [Node.after_abortTaken]
    exact h.asBase fun c => h.withOu (Ou.takeAbort_queue _) true
  | wordTaken =>
    rw [Node.after_wordTaken]
    exact KeptByControl.awake h (h.asBase fun c => h.withOu (Ou.takeWord_queue _) true)
  | stall =>
    rw [Node.after_stall]
    exact KeptByControl.awake h (h.asBase fun c => h.withOu (Ou.stall_queue _) false)
  | _ => exact h.of_control (n.after_control rfl)

/-- A claimed buffer is one of the store's. -/
theorem Node.StoreExact.lt_of_claims (h : n.StoreExact) {k : Claim} {b : Nat} (hk : n.Claims k b) :
    b < n.ss.bufs.length := by
  refine Ss.lt_of_not_free fun hfree => ?_
  have hmet := h.sound.met k b hk
  rw [hfree] at hmet
  cases hmet

end

/-- Settles O59: every command and one tick keep the accounts, and every claim in them is on a buffer of the store. -/
theorem stepKeepsStore : Obligations.StepKeepsStore :=
  ⟨step_keeps (fun i _ h => h.after i) fun n h => h.of_control n.tick_control, fun _ h =>
    ⟨fun _ hb => h.lt_of_claims (k := .line) hb, fun g hg => h.lt_of_claims (k := .queued) ⟨g, hg, rfl⟩,
      fun p _ hb => h.lt_of_claims (k := .lane p) hb, fun _ hb => h.lt_of_claims (k := .named) (refCount_pos.1 hb)⟩⟩

/-- Settles O60: the bounds, the blocks at rest and the accounts of a block just out of a power-on reset. -/
theorem invariantsAtReset : Obligations.InvariantsAtReset := by
  have hfresh : ∀ straps pins k, (Node.powerOn straps pins k).Bounded ∧ (Node.powerOn straps pins k).RoleFit
      ∧ (Node.powerOn straps pins k).StoreExact := fun straps pins k =>
    ⟨Node.powerOn_bounded straps pins k, .powerOn straps pins k, .powerOn straps pins k⟩
  exact ⟨hfresh _ _ _, hfresh⟩

end Sys2Proof.Machine
end

section
/-! SUPPORT. One tick of the clock, and which event is due (R16, R18, R21, R65, R106, R118; log entry 30). -/

namespace Sys2Proof.Machine

/-! ## What is due -/

/-- The first of the four planes for which a test holds. -/
theorem find_plane_of_lowest {f : Fin 4 → Bool} {p : Fin 4} (hp : f p = true) (hlow : ∀ q, q < p → f q = false) :
    [(0 : Fin 4), 1, 2, 3].find? f = some p := by
  match p with
  | 0 => simp [hp]
  | 1 => simp [hp, hlow 0]
  | 2 => simp [hp, hlow 0, hlow 1]
  | 3 => simp [hp, hlow 0, hlow 1, hlow 2]

theorem Node.silentLane_of_lowest {n : Node} {p : Fin 4} (hp : n.laneSilent p = true)
    (hlow : ∀ q, q < p → n.laneSilent q = false) : n.silentLane = some p :=
  find_plane_of_lowest hp hlow

theorem Node.silentLane_eq_none {n : Node} (h : ∀ p, n.laneSilent p = false) : n.silentLane = none := by
  simp [Node.silentLane, h]

theorem Node.dueBase_of_not_base {n : Node} (h : n.baseCfg = none) : n.dueBase = none := by
  simp [Node.dueBase, h]

section base
variable {n : Node} {c : Settled} (hbase : n.baseCfg = some c)
include hbase

theorem Node.dueBase_of_silent {p : Fin 4} (hp : n.silentLane = some p) :
    n.dueBase = some (.silenceTimeout p) := by
  simp [Node.dueBase, hbase, hp]

theorem Node.dueBase_of_expired (hsilent : n.silentLane = none) {r : Record} {before after : List Record}
    (htable : n.se.table = before ++ r :: after) (hr : r.expires n.tb.e = true)
    (hbefore : ∀ x ∈ before, x.expires n.tb.e = false) : n.dueBase = some (.recordDeadline r.frame r.line) := by
  have hfind : n.se.table.find? (Record.expires n.tb.e) = some r :=
    List.find?_eq_some_iff_append.2 ⟨hr, before, after, htable, by simpa using hbefore⟩
  simp [Node.dueBase, hbase, hsilent, hfind]

theorem Node.dueBase_of_quiet (hsilent : n.silentLane = none) (htable : ∀ r ∈ n.se.table, r.expires n.tb.e = false) :
    n.dueBase = none := by
  simpa [Node.dueBase, hbase, hsilent] using htable

end base

theorem Node.due_of_low {n : Node} (h : n.rstLow = true) : n.due = none := by
  simp [Node.due, h]

theorem Node.due_of_unsettled {n : Node} (h : n.rh.settled = none) : n.due = none := by
  simp [Node.due, h]

section works
variable {n : Node} {c : Settled} (hw : n.Works c)
include hw

theorem Node.due_frameStart (h : n.tb.frameDue = true) : n.due = some .frameStart := by
  simp [Node.due, hw.1, hw.2, h]

theorem Node.due_strobeFire (hframe : n.tb.frameDue = false) (h : n.strobeDue c = true) :
    n.due = some .strobeFire := by
  simp [Node.due, hw.1, hw.2, hframe, h]

theorem Node.due_referenceSilence (hframe : n.tb.frameDue = false) (hstrobe : n.strobeDue c = false)
    (h : n.silenceDue c = true) : n.due = some .referenceSilence := by
  simp [Node.due, hw.1, hw.2, hframe, hstrobe, h]

section later
variable (hframe : n.tb.frameDue = false) (hstrobe : n.strobeDue c = false) (href : n.silenceDue c = false)
include hframe hstrobe href

theorem Node.due_base {i : Instr} (h : n.dueBase = some i) : n.due = some i := by
  simp [Node.due, hw.1, hw.2, hframe, hstrobe, href, h]

theorem Node.due_service (hbase : n.dueBase = none) {i : Instr} (h : n.dueService = some i) : n.due = some i := by
  simp [Node.due, hw.1, hw.2, hframe, hstrobe, href, hbase, h]

theorem Node.due_messageStart (hbase : n.dueBase = none) (hservice : n.dueService = none)
    (h : n.startDue c = true) : n.due = some .messageStart := by
  simp [Node.due, hw.1, hw.2, hframe, hstrobe, href, hbase, hservice, h]

theorem Node.due_segmentLaunched (hbase : n.dueBase = none) (hservice : n.dueService = none)
    (h : n.startDue c = false) :
    n.due = if n.headCfg.isSome = true ∧ n.launchDue = true then some .segmentLaunched else none := by
  simp [Node.due, hw.1, hw.2, hframe, hstrobe, href, hbase, hservice, h, Node.sentDue]

end later
end works

/-! ## One tick -/

theorem Node.tick_of_high {n : Node} (h : n.rstLow = false) :
    n.tick = { n with
      tb := n.tb.onTick n.rh.settled
      sg := { n.sg with prior := none }
      si := n.si.tickWith n.rh.settled (n.tb.e + 1) (n.pins.svc.headD true)
      pins := { n.pins with svc := n.pins.svc.tail } } := by
  rw [Node.tick, Node.awake_of_high h]

theorem Tb.onTick_of_stopped (settled : Option Settled) {tb : Tb} (h : tb.gen = none) :
    tb.onTick settled = { tb with e := tb.e + 1 } := by
  simp [Tb.onTick, h]

theorem Tb.onTick_of_running {c : Settled} {tb : Tb} {g : Gen} (h : tb.gen = some g) :
    tb.onTick (some c) = Tb.advance c { tb with e := tb.e + 1 } := by
  simp [Tb.onTick, h]

theorem Tb.advance_line {c : Settled} {tb : Tb} (hline : tb.line + 1 < c.lTot)
    (hlong : c.lineLength tb.line tb.trim ≤ tb.tick + 1) :
    tb.advance c = { tb with line := tb.line + 1, tick := 0 } := by
  simp [Tb.advance, hline, hlong]

theorem Tb.advance_tick {c : Settled} {tb : Tb}
    (h : c.lTot ≤ tb.line + 1 ∨ tb.tick + 1 < c.lineLength tb.line tb.trim) :
    tb.advance c = { tb with tick := tb.tick + 1 } := by
  simp only [Tb.advance, Bool.and_eq_true, decide_eq_true_eq]
  rw [if_neg (by omega)]

theorem Tb.advance_e (c : Settled) (tb : Tb) : (tb.advance c).e = tb.e := by
  unfold Tb.advance
  split <;> rfl

theorem Tb.onTick_e (settled : Option Settled) (tb : Tb) : (tb.onTick settled).e = tb.e + 1 := by
  unfold Tb.onTick
  split
  · exact Tb.advance_e _ _
  · rfl

theorem step_of_due {s : State} (hq : s.pending = []) {i : Instr} (h : s.node.due = some i) :
    step s = exec i s := by
  simp [step, hq, h]

theorem step_of_nothing_due {s : State} (hq : s.pending = []) (h : s.node.due = none) :
    step s = .next { s with node := s.node.tick } := by
  simp [step, hq, h, State.next]

/-- Settles O2: a step is read off the queue and `due`; `due` is decided in its order, one rule for each place. -/
theorem emptyQueueAndTick : Obligations.EmptyQueueAndTick := by
  refine ⟨fun s hq => ⟨fun i => step_of_due hq, step_of_nothing_due hq⟩, fun n hhigh => ?_, fun n => ⟨?_, ?_⟩⟩
  · rw [Node.tick_of_high hhigh]
    refine ⟨Tb.onTick_e _ _, Tb.onTick_of_stopped _, fun c g hc hg => ?_, rfl⟩
    rw [hc]
    dsimp only
    rw [Tb.onTick_of_running hg]
    exact ⟨Tb.advance_line (tb := { n.tb with e := n.tb.e + 1 }),
      Tb.advance_tick (tb := { n.tb with e := n.tb.e + 1 })⟩
  · rintro (hlow | hunsettled)
    · exact Node.due_of_low hlow
    · exact Node.due_of_unsettled hunsettled
  · intro c hw
    refine ⟨Node.due_frameStart hw, Node.due_strobeFire hw, fun hframe hstrobe =>
      ⟨Node.due_referenceSilence hw hframe hstrobe, fun href => ⟨?_, ?_, ?_⟩⟩⟩
    · intro p hbase hp hlow
      exact Node.due_base hw hframe hstrobe href
        (Node.dueBase_of_silent hbase (Node.silentLane_of_lowest hp hlow))
    · intro r before after hbase hsilent htable hr hbefore
      exact Node.due_base hw hframe hstrobe href
        (Node.dueBase_of_expired hbase (Node.silentLane_eq_none hsilent) htable hr hbefore)
    · intro hquiet
      have hnone : n.dueBase = none := by
        rcases hb : n.baseCfg with _ | b
        · exact Node.dueBase_of_not_base hb
        · obtain h | ⟨hsilent, htable⟩ := hquiet
          · cases hb.symm.trans h
          · exact Node.dueBase_of_quiet hb (Node.silentLane_eq_none hsilent) htable
      exact ⟨fun i => Node.due_service hw hframe hstrobe href hnone,
        Node.due_messageStart hw hframe hstrobe href hnone, Node.due_segmentLaunched hw hframe hstrobe href hnone⟩

end Sys2Proof.Machine
end

section
/-! SUPPORT. SI's sample of a bit, and which of SI's events is due (R150, R151, R155 to R165; log entries 15, 30 and
36). -/

namespace Sys2Proof.Machine

/-! ## The recovery count at a sample -/

theorem Si.recoveryBit_eq (level : Bool) (si : Si) :
    si.recoveryBit level =
      { si with recoveryRun := (si.recoveryBit level).recoveryRun, recovery := (si.recoveryBit level).recovery } := by
  unfold Si.recoveryBit
  repeat' split
  all_goals rfl

theorem Si.recoveryBit_recoveryRun (level : Bool) (si : Si) :
    (si.recoveryBit level).recoveryRun = (if si.state = .silenced then
        if level = false ∨ 10 ≤ si.recoveryRun + 1 then 0 else si.recoveryRun + 1
      else si.recoveryRun) := by
  rcases hs : si.state with _ | _ | _ | _ | _ <;> simp only [Si.recoveryBit, hs, reduceCtorEq, if_true, if_false]
  by_cases hr : 10 ≤ si.recoveryRun + 1 <;> cases level <;> simp [hr]

theorem Si.recoveryBit_recovery (level : Bool) (si : Si) :
    (si.recoveryBit level).recovery =
      (if si.state = .silenced ∧ level = true ∧ 10 ≤ si.recoveryRun + 1 then si.recovery + 1 else si.recovery) := by
  rcases hs : si.state with _ | _ | _ | _ | _ <;> simp only [Si.recoveryBit, hs, reduceCtorEq, false_and, if_false]
  by_cases hr : 10 ≤ si.recoveryRun + 1 <;> cases level <;> simp [hr]

section fields
variable (level : Bool) (si : Si)

@[simp] theorem Si.recoveryBit_state : (si.recoveryBit level).state = si.state := by rw [Si.recoveryBit_eq]
@[simp] theorem Si.recoveryBit_level : (si.recoveryBit level).level = si.level := by rw [Si.recoveryBit_eq]
@[simp] theorem Si.recoveryBit_phase : (si.recoveryBit level).phase = si.phase := by rw [Si.recoveryBit_eq]
@[simp] theorem Si.recoveryBit_spaces : (si.recoveryBit level).spaces = si.spaces := by rw [Si.recoveryBit_eq]
@[simp] theorem Si.recoveryBit_found : (si.recoveryBit level).found = si.found := by rw [Si.recoveryBit_eq]
@[simp] theorem Si.recoveryBit_bitPos : (si.recoveryBit level).bitPos = si.bitPos := by rw [Si.recoveryBit_eq]
@[simp] theorem Si.recoveryBit_bitNo : (si.recoveryBit level).bitNo = si.bitNo := by rw [Si.recoveryBit_eq]
@[simp] theorem Si.recoveryBit_reading : (si.recoveryBit level).reading = si.reading := by rw [Si.recoveryBit_eq]
@[simp] theorem Si.recoveryBit_guardWait : (si.recoveryBit level).guardWait = si.guardWait := by
  rw [Si.recoveryBit_eq]
@[simp] theorem Si.recoveryBit_onCarrier : (si.recoveryBit level).onCarrier = si.onCarrier := by
  rw [Si.recoveryBit_eq]

end fields

/-! ## What a sample may change -/

/-- The fields a sampled bit leaves as they are. -/
structure BitFrame (si t : Si) : Prop where
  frame : t = { si with
    spaces := t.spaces, rxStamp := t.rxStamp, phase := t.phase, guardWait := t.guardWait, bitNo := t.bitNo
    reading := t.reading, found := t.found, acked := t.acked }

theorem Si.interspaceBit_bitFrame (e : Word32) (si : Si) : BitFrame si (si.interspaceBit e) := by
  unfold Si.interspaceBit
  repeat' split
  all_goals exact ⟨rfl⟩

theorem Si.ownBit_bitFrame (o : OnCarrier) (si : Si) : BitFrame si (si.ownBit o) := by
  unfold Si.ownBit
  split <;> exact ⟨rfl⟩

theorem Si.foreignBit_bitFrame (si : Si) : BitFrame si si.foreignBit := by
  unfold Si.foreignBit
  split <;> exact ⟨rfl⟩

theorem Si.recoveringBit_bitFrame (si : Si) : BitFrame si si.recoveringBit := by
  unfold Si.recoveringBit
  repeat' split
  all_goals exact ⟨rfl⟩

theorem Si.sample_bitFrame (e : Word32) (si : Si) : BitFrame (si.recoveryBit si.level) (si.sample e) := by
  unfold Si.sample
  dsimp only
  split
  · split <;> exact ⟨rfl⟩
  · exact Si.interspaceBit_bitFrame _ _
  · split
    · exact Si.ownBit_bitFrame _ _
    · exact Si.foreignBit_bitFrame _
  · exact Si.recoveringBit_bitFrame _

theorem Si.sample_recoveryRun (e : Word32) (si : Si) :
    (si.sample e).recoveryRun = (si.recoveryBit si.level).recoveryRun := by
  rw [(si.sample_bitFrame e).frame]

theorem Si.sample_recovery (e : Word32) (si : Si) :
    (si.sample e).recovery = (si.recoveryBit si.level).recovery := by
  rw [(si.sample_bitFrame e).frame]

theorem Si.sample_keeps (e : Word32) (si : Si) :
    si.sample e = { si with
      recoveryRun := (si.sample e).recoveryRun, recovery := (si.sample e).recovery, spaces := (si.sample e).spaces
      rxStamp := (si.sample e).rxStamp, phase := (si.sample e).phase, guardWait := (si.sample e).guardWait
      bitNo := (si.sample e).bitNo, reading := (si.sample e).reading, found := (si.sample e).found
      acked := (si.sample e).acked } := by
  rw [Si.sample_recoveryRun, Si.sample_recovery]
  conv_lhs => rw [(si.sample_bitFrame e).frame, Si.recoveryBit_eq]

theorem Si.sample_bitPos (e : Word32) (si : Si) : (si.sample e).bitPos = si.bitPos := by rw [Si.sample_keeps]

/-! ## A sample in each phase -/

theorem Si.sample_of_idle (e : Word32) {si : Si} (h : si.phase = .idle) :
    si.sample e = if si.level then { si.recoveryBit si.level with guardWait := si.guardWait.map (· - 1) }
      else (si.recoveryBit si.level).beginReceiving e := by
  simp [Si.sample, h]

theorem Si.sample_of_interspace (e : Word32) {si : Si} (h : si.phase = .interspace) :
    si.sample e = (si.recoveryBit si.level).interspaceBit e := by
  simp [Si.sample, h]

theorem Si.sample_of_recovering (e : Word32) {si : Si} (h : si.phase = .recovering) :
    si.sample e = (si.recoveryBit si.level).recoveringBit := by
  simp [Si.sample, h]

theorem Si.sample_of_foreign (e : Word32) {si : Si} (h : si.phase = .receiving) (hown : si.onCarrier = none) :
    si.sample e = (si.recoveryBit si.level).foreignBit := by
  simp [Si.sample, h, hown]

theorem Si.sample_of_own (e : Word32) {si : Si} {o : OnCarrier} (h : si.phase = .receiving)
    (hown : si.onCarrier = some o) : si.sample e = (si.recoveryBit si.level).ownBit o := by
  simp [Si.sample, h, hown]

/-! ## A start mark, the interspace, the wait for ten spaces -/

theorem Si.sample_of_startMark (e : Word32) {si : Si}
    (h : si.phase = .idle ∨ si.phase = .interspace ∧ si.spaces = 2) (hmark : si.level = false) :
    si.sample e = (si.recoveryBit si.level).beginReceiving e := by
  obtain hidle | ⟨hinter, htwo⟩ := h
  · rw [Si.sample_of_idle e hidle, if_neg (by simp [hmark])]
  · rw [Si.sample_of_interspace e hinter]
    simp [Si.interspaceBit, hmark, htwo]

theorem Si.sample_interspace_space (e : Word32) {si : Si} (h : si.phase = .interspace) (hspace : si.level = true) :
    (2 ≤ si.spaces → (si.sample e).phase = .idle ∧ (si.sample e).spaces = 0)
    ∧ (si.spaces < 2 → (si.sample e).phase = .interspace ∧ (si.sample e).spaces = si.spaces + 1) := by
  rw [Si.sample_of_interspace e h]
  constructor <;> intro hn
  · simp [Si.interspaceBit, hspace, show 3 ≤ si.spaces + 1 by omega]
  · simp [Si.interspaceBit, hspace, show ¬3 ≤ si.spaces + 1 by omega, h]

theorem Si.sample_interspace_mark (e : Word32) {si : Si} (h : si.phase = .interspace) (hmark : si.level = false)
    (hn : si.spaces ≠ 2) : (si.sample e).phase = .interspace ∧ (si.sample e).found = some (.error .symbol) := by
  rw [Si.sample_of_interspace e h]
  simp [Si.interspaceBit, hmark, hn, h]

theorem Si.sample_recovering_mark (e : Word32) {si : Si} (h : si.phase = .recovering) (hmark : si.level = false) :
    (si.sample e).phase = .recovering ∧ (si.sample e).spaces = 0 := by
  rw [Si.sample_of_recovering e h]
  simp [Si.recoveringBit, hmark, h]

theorem Si.sample_recovering_space (e : Word32) {si : Si} (h : si.phase = .recovering) (hspace : si.level = true) :
    (si.state = .integrating → (si.sample e).phase = .recovering ∧ (si.sample e).spaces = min 10 (si.spaces + 1))
    ∧ (si.state ≠ .integrating → 9 ≤ si.spaces → (si.sample e).phase = .idle ∧ (si.sample e).spaces = 0)
    ∧ (si.state ≠ .integrating → si.spaces < 9 →
      (si.sample e).phase = .recovering ∧ (si.sample e).spaces = si.spaces + 1) := by
  rw [Si.sample_of_recovering e h]
  refine ⟨fun hint => ?_, fun hother hnine => ?_, fun hother hfew => ?_⟩
  · simp [Si.recoveringBit, hspace, hint, h]
  · simp [Si.recoveringBit, hspace, hother, show 10 ≤ si.spaces + 1 by omega]
  · simp [Si.recoveringBit, hspace, hother, show ¬10 ≤ si.spaces + 1 by omega, h]

/-! ## A bit of a message -/

theorem Si.sample_foreign_error (e : Word32) {si : Si} (h : si.phase = .receiving) (hown : si.onCarrier = none)
    {k : CarrierError} (htake : si.reading.take si.level = .error k) :
    (si.sample e).found = some (.error k) ∧ (si.sample e).reading = si.reading := by
  rw [Si.sample_of_foreign e h hown]
  simp [Si.foreignBit, htake]

theorem Si.sample_foreign_ok (e : Word32) {si : Si} (h : si.phase = .receiving) (hown : si.onCarrier = none)
    {r : Reading} (htake : si.reading.take si.level = .ok r) :
    (si.sample e).reading = r
    ∧ (r.tail ≠ 9 → (si.sample e).found = none)
    ∧ (∀ m, r.tail = 9 → r.content = .ok m → (si.sample e).found = some (.received m.1 m.2 r.marked)) := by
  rw [Si.sample_of_foreign e h hown]
  refine ⟨by simp [Si.foreignBit, htake], fun htail => ?_, fun m htail hm => ?_⟩
  · simp [Si.foreignBit, htake, htail]
  · simp [Si.foreignBit, htake, htail, hm]

/-- The acknowledge slot comes after the whole stuffed part, the key bits are the first of it. -/
theorem Reading.not_atKeyBit_of_atSlot {r : Reading} (h : r.atSlot = true) : r.atKeyBit = false := by
  simp only [Reading.atSlot, Reading.isWhole, Reading.atKeyBit, Bool.and_eq_true, Bool.and_eq_false_iff, beq_iff_eq,
    decide_eq_false_iff_not] at h ⊢
  exact .inr (by omega)

section own
variable (e : Word32) {si : Si} {o : OnCarrier} (h : si.phase = .receiving) (hown : si.onCarrier = some o)
  (hclean : o.failed = false)
include h hown hclean

theorem Si.sample_own_found :
    (si.sample e).found = Reading.senderFinds (o.bits.getD si.bitNo true) si.level si.reading
      (si.sample e).reading := by
  rw [Si.sample_of_own e h hown]
  simp [Si.ownBit, hclean]

theorem Si.sample_own_reading {r : Reading} (htake : si.reading.take si.level = .ok r) :
    (si.sample e).reading = r := by
  rw [Si.sample_of_own e h hown]
  simp [Si.ownBit, hclean, htake]

end own

theorem Reading.senderFinds_lost {before after : Reading} (h : before.atKeyBit = true) :
    Reading.senderFinds true false before after = some .lost := by
  simp [Reading.senderFinds, h]

theorem Reading.senderFinds_marked {before after : Reading} (h : before.atSlot = true) :
    Reading.senderFinds true false before after = none := by
  simp [Reading.senderFinds, h, Reading.not_atKeyBit_of_atSlot h]

theorem Reading.senderFinds_echo {sent level : Bool} {before after : Reading} (hne : sent ≠ level)
    (h : sent = false ∨ before.atKeyBit = false ∧ before.atSlot = false) :
    Reading.senderFinds sent level before after = some (.error .echo) := by
  unfold Reading.senderFinds
  rw [if_neg hne]
  obtain hmark | ⟨hkey, hslot⟩ := h
  · simp [hmark]
  · simp [hkey, hslot]

theorem Reading.senderFinds_noAck (level : Bool) {before after : Reading} (h : before.atSlot = true) :
    Reading.senderFinds level level before after = some (.error .noAck) := by
  simp [Reading.senderFinds, h]

theorem Reading.senderFinds_agreed (level : Bool) {before after : Reading} (h : before.atSlot = false) :
    Reading.senderFinds level level before after = if after.tail = 9 then some .sent else none := by
  simp [Reading.senderFinds, h]

/-! ## SI's own events -/

theorem Node.dueService_of_found {n : Node} {i : Instr} (h : n.foundDue = some i) : n.dueService = some i := by
  simp [Node.dueService, h]

theorem Node.foundDue_of_none {n : Node} (h : n.si.found = none) : n.foundDue = none := by
  simp [Node.foundDue, h]

section nothingFound
variable {n : Node} (hfound : n.si.found = none)
include hfound

theorem Node.dueService_messageFailed {o : OnCarrier} (hown : n.si.onCarrier = some o) (h : o.failed = true) :
    n.dueService = some .messageFailed := by
  simp [Node.dueService, Node.foundDue_of_none hfound, hown, h]

variable (hown : n.si.onCarrier = none)
include hown

theorem Node.dueService_integrationEnd (hint : n.si.state = .integrating) (h : 10 ≤ n.si.spaces) :
    n.dueService = some .integrationEnd := by
  simp [Node.dueService, Node.foundDue_of_none hfound, hown, hint, h]

theorem Node.dueService_silencedRecovery (hsil : n.si.state = .silenced) (h : 48 ≤ n.si.recovery) :
    n.dueService = some .silencedRecovery := by
  simp [Node.dueService, Node.foundDue_of_none hfound, hown, hsil, h]

theorem Node.dueService_guardedWaitEnd (hon : n.si.state = .active ∨ n.si.state = .guarded)
    (h : n.si.guardWait = some 0) : n.dueService = some .guardedWaitEnd := by
  obtain hs | hs := hon <;> simp [Node.dueService, Node.foundDue_of_none hfound, hown, hs, h]

theorem Node.dueService_listenOnlyEffect (hon : n.si.state = .active ∨ n.si.state = .guarded)
    (h : n.si.guardWait ≠ some 0) :
    n.dueService =
      (if n.si.phase = .idle ∧ n.rh.pending.listenOnly ≠ none then some .listenOnlyEffect else none) := by
  obtain hs | hs := hon <;>
    simp [Node.dueService, Node.foundDue_of_none hfound, hown, hs, h, Node.isIdle, SiState.isOn,
      Option.isSome_iff_ne_none]

end nothingFound

/-- Settles O4: the sample phase by phase, a sender's by `senderFinds`, and `dueService` in its order. -/
theorem sampleFinds : Obligations.SampleFinds := by
  refine ⟨fun si e => ⟨?_, ?_, si.sample_keeps e, ?_, ?_, Si.sample_interspace_space e, Si.sample_interspace_mark e,
    Si.sample_recovering_mark e, Si.sample_recovering_space e, ?_, ?_⟩, fun n => ⟨?_, ?_, ?_, ?_, ?_⟩⟩
  · rw [Si.sample_recoveryRun, Si.recoveryBit_recoveryRun]
  · rw [Si.sample_recovery, Si.recoveryBit_recovery]
  · intro hidle hspace
    rw [Si.sample_of_idle e hidle, if_pos hspace]
    exact ⟨rfl, (Si.recoveryBit_phase _ _).trans hidle⟩
  · intro hstart hmark
    rw [Si.sample_of_startMark e hstart hmark]
    simp [Si.beginReceiving]
  · exact fun h hown => ⟨fun k => Si.sample_foreign_error e h hown, fun r => Si.sample_foreign_ok e h hown⟩
  · rintro o sent h hown hclean rfl
    rw [Si.sample_own_found e h hown hclean]
    refine ⟨fun hsent hmark hkey => ?_, fun hsent hmark hslot => ?_, Reading.senderFinds_echo,
      fun hagree hslot => ?_, fun hagree hslot r htake => ?_⟩
    · rw [hsent, hmark]
      exact Reading.senderFinds_lost hkey
    · rw [hsent, hmark]
      exact Reading.senderFinds_marked hslot
    · rw [hagree]
      exact Reading.senderFinds_noAck _ hslot
    · have hreading := Si.sample_own_reading e h hown hclean htake
      rw [hagree, Reading.senderFinds_agreed _ hslot, hreading]
      exact ⟨rfl, rfl⟩
  · exact fun hfound hclean => Node.dueService_of_found (by simp [Node.foundDue, hfound, hclean])
  · exact fun hfound hclean => Node.dueService_of_found (by simp [Node.foundDue, hfound, hclean])
  · exact fun k hfound hcan => Node.dueService_of_found (by simp [Node.foundDue, hfound, hcan])
  · exact fun key payload marked hfound hcan => Node.dueService_of_found (by simp [Node.foundDue, hfound, hcan])
  · exact fun hfound => ⟨fun o => Node.dueService_messageFailed hfound, fun hown =>
      ⟨Node.dueService_integrationEnd hfound hown, Node.dueService_silencedRecovery hfound hown,
        Node.dueService_guardedWaitEnd hfound hown, Node.dueService_listenOnlyEffect hfound hown⟩⟩

end Sys2Proof.Machine
end

section
/-! SUPPORT. One tick of SI's bit clock (R150, R151, R158, R160; log entries 15 and 34). -/

namespace Sys2Proof.Machine

/-! ## The bit clock's parts -/

theorem Si.tick_of_off (c : Settled) (e : Word32) (rx : Bool) {si : Si} (h : si.state = .off) :
    si.tick c e rx = si := by
  simp [Si.tick, h]

theorem Si.tick_of_on (c : Settled) (e : Word32) (rx : Bool) {si : Si} (h : si.state ≠ .off) :
    si.tick c e rx = Si.observe c e rx (Si.advance c { si with found := none }) := by
  unfold Si.tick
  split
  · next hoff => exact absurd hoff h
  · rfl

theorem Si.advance_within {c : Settled} {si : Si} (h : si.bitPos + 1 < c.bitTicks) :
    si.advance c = { si with bitPos := si.bitPos + 1 } :=
  if_neg (by omega)

theorem Si.advance_end {c : Settled} {si : Si} (h : c.bitTicks ≤ si.bitPos + 1) :
    si.advance c = { si.newBit with bitPos := 0 } :=
  if_pos h

theorem Si.observe_of_edge (c : Settled) (e : Word32) {rx : Bool} {si : Si} (hlevel : si.level = true)
    (hmark : (si.tx && rx) = false) : si.observe c e rx = Si.edge c e { si with level := false } := by
  simp [Si.observe, hlevel, hmark]

theorem Si.observe_of_no_edge (c : Settled) (e : Word32) {rx : Bool} {si : Si}
    (h : si.level = false ∨ (si.tx && rx) = true) :
    si.observe c e rx = Si.sampleDue c e { si with level := si.tx && rx } := by
  obtain h | h := h <;> simp [Si.observe, h]

theorem Si.edge_of_start {c : Settled} (e : Word32) {si : Si} (h : si.awaitsStart = true) :
    si.edge c e = { si with bitPos := 0, resynced := false } :=
  if_pos h

theorem Si.edge_of_resync {c : Settled} (e : Word32) {si : Si} (hstart : si.awaitsStart = false)
    (h : si.mayResync = true) : si.edge c e = (si.sampleDue c e).resync c := by
  simp [Si.edge, hstart, h]

theorem Si.edge_of_no_resync {c : Settled} (e : Word32) {si : Si} (hstart : si.awaitsStart = false)
    (h : si.mayResync = false) : si.edge c e = si.sampleDue c e := by
  simp [Si.edge, hstart, h]

/-- Within a message, or in the wait after one, no start mark is awaited. -/
theorem Si.awaitsStart_of_within {si : Si} (h : si.phase = .receiving ∨ si.phase = .recovering) :
    si.awaitsStart = false := by
  obtain h | h := h <;> simp [Si.awaitsStart, Si.isJoining, h]

theorem Si.mayResync_of_within {si : Si} (h : si.phase = .receiving ∨ si.phase = .recovering) (htx : si.tx = true)
    (honce : si.resynced = false) : si.mayResync = true := by
  obtain h | h := h <;> simp [Si.mayResync, Si.isWithin, h, htx, honce]

theorem Si.mayResync_eq_false {si : Si}
    (h : si.phase = .idle ∨ si.phase = .interspace ∨ si.tx = false ∨ si.resynced = true) :
    si.mayResync = false := by
  obtain h | h | h | h := h <;> simp [Si.mayResync, Si.isWithin, h]

theorem Si.sampleDue_of_eq {c : Settled} (e : Word32) {si : Si} (h : si.bitPos = c.sampleTicks) :
    si.sampleDue c e = si.sample e :=
  if_pos h

theorem Si.sampleDue_of_ne {c : Settled} (e : Word32) {si : Si} (h : si.bitPos ≠ c.sampleTicks) :
    si.sampleDue c e = si :=
  if_neg h

/-! ## Bit timing in ticks -/

theorem Settled.tq_pos (c : Settled) : 0 < c.tq := Nat.succ_pos _

theorem Settled.sampleTicks_pos (c : Settled) : 0 < c.sampleTicks :=
  Nat.mul_pos (by omega) c.tq_pos

theorem Settled.bitTicks_eq (c : Settled) : c.bitTicks = c.sampleTicks + c.pb * c.tq := Nat.add_mul _ _ _

/-! ## A resynchronization -/

theorem Si.resync_of_sync_segment {c : Settled} {si : Si} (h : si.bitPos / c.tq = 0) : si.resync c = si :=
  if_pos h

theorem Si.resync_lengthens {c : Settled} {si : Si} {q : Nat} (hq : q = si.bitPos / c.tq) (hlow : 1 ≤ q)
    (hhigh : q < 1 + c.prop + c.pa) (hwithin : si.bitPos < c.bitTicks) :
    si.resync c = { si with bitPos := si.bitPos - min (q - 1) c.sjw * c.tq, resynced := true } := by
  have hpos : si.bitPos + c.bitTicks - c.resyncTq q * c.tq = si.bitPos - min (q - 1) c.sjw * c.tq := by
    have hlen : c.resyncTq q * c.tq = c.bitTicks + min (q - 1) c.sjw * c.tq := by
      simp only [Settled.resyncTq, if_neg (show ¬q < 1 by omega), if_pos hhigh]
      exact Nat.add_mul _ _ _
    omega
  simp only [Si.resync, ← hq, hpos]
  rw [if_neg (by omega), if_neg (by omega)]

/-- Where an edge in PB moves the bit's end. -/
theorem Settled.resyncPos_late {c : Settled} {q pos : Nat} (hq : 1 + c.prop + c.pa ≤ q) :
    pos + c.bitTicks - c.resyncTq q * c.tq = pos + min (1 + c.prop + c.pa + c.pb - q) c.sjw * c.tq := by
  have hlen : c.resyncTq q = 1 + c.prop + c.pa + c.pb - min (1 + c.prop + c.pa + c.pb - q) c.sjw := by
    simp only [Settled.resyncTq]
    rw [if_neg (by omega), if_neg (by omega)]
  have hmul : c.resyncTq q * c.tq + min (1 + c.prop + c.pa + c.pb - q) c.sjw * c.tq = c.bitTicks := by
    rw [hlen, ← Nat.add_mul, Nat.sub_add_cancel (by omega), Settled.bitTicks]
  omega

section late
variable {c : Settled} {si : Si} {q : Nat} (hq : q = si.bitPos / c.tq) (hlow : 1 + c.prop + c.pa ≤ q)
include hq hlow

theorem Si.resync_shortens
    (hpos : si.bitPos + min (1 + c.prop + c.pa + c.pb - q) c.sjw * c.tq < c.bitTicks) :
    si.resync c = { si with
      bitPos := si.bitPos + min (1 + c.prop + c.pa + c.pb - q) c.sjw * c.tq, resynced := true } := by
  simp only [Si.resync, ← hq, Settled.resyncPos_late hlow]
  rw [if_neg (by omega), if_neg (by omega)]

theorem Si.resync_ends
    (hpos : si.bitPos + min (1 + c.prop + c.pa + c.pb - q) c.sjw * c.tq = c.bitTicks) :
    si.resync c = { si.newBit with bitPos := 0 } := by
  simp only [Si.resync, ← hq, Settled.resyncPos_late hlow, hpos]
  rw [if_neg (by omega), if_pos (Nat.le_refl _), Nat.sub_self]

end late

/-- At the sample point an edge falls in the first quantum of PB. -/
theorem Settled.quantum_of_sampleTicks (c : Settled) : c.sampleTicks / c.tq = 1 + c.prop + c.pa :=
  Nat.mul_div_cancel _ c.tq_pos

theorem Si.resync_sampled {c : Settled} {x : Si} (h : x.bitPos = c.sampleTicks) :
    (min c.pb c.sjw < c.pb → x.resync c =
      { x with resynced := true, bitPos := c.sampleTicks + min c.pb c.sjw * c.tq })
    ∧ (c.pb ≤ c.sjw → x.resync c = { x.newBit with bitPos := 0 }) := by
  have hq : 1 + c.prop + c.pa = x.bitPos / c.tq := by rw [h, c.quantum_of_sampleTicks]
  have hpb : 1 + c.prop + c.pa + c.pb - (1 + c.prop + c.pa) = c.pb := by omega
  constructor
  · intro hmin
    have hless := Nat.mul_lt_mul_of_pos_right hmin c.tq_pos
    rw [Si.resync_shortens hq (Nat.le_refl _) (by rw [hpb, h, c.bitTicks_eq]; omega), hpb, h]
  · intro hsjw
    exact Si.resync_ends hq (Nat.le_refl _) (by rw [hpb, h, c.bitTicks_eq, Nat.min_eq_left hsjw])

/-! ## The tick at the end of a bit -/

/-- SI at the beginning of a new bit, before it sees the carrier's level. -/
def Si.bitBegun (si : Si) : Si := { Si.newBit { si with found := none } with bitPos := 0 }

theorem Si.bitBegun_eq (si : Si) :
    si.bitBegun = { si with
      found := none, bitPos := 0, resynced := false
      bitNo := if si.phase = Phase.receiving then si.bitNo + 1 else 0
      burst := if si.burstWait = 0 then si.burst - 1 else si.burst, burstWait := si.burstWait - 1
      tx := si.bitBegun.tx, acked := si.acked || si.marksSlot } := rfl

/-- No sample and no resynchronization falls on a bit's first tick. -/
theorem Si.observe_bitBegun (c : Settled) (e : Word32) (rx : Bool) (si : Si) :
    si.bitBegun.observe c e rx = { si.bitBegun with level := si.bitBegun.tx && rx } := by
  have hsample : ∀ t : Si, t.bitPos = 0 → t.sampleDue c e = t := fun t ht =>
    Si.sampleDue_of_ne e (by rw [ht]; exact c.sampleTicks_pos.ne)
  by_cases hedge : si.bitBegun.level = true ∧ (si.bitBegun.tx && rx) = false
  · obtain ⟨hlevel, hmark⟩ := hedge
    rw [Si.observe_of_edge c e hlevel hmark, hmark]
    unfold Si.edge
    split
    · rfl
    · split
      · rw [hsample { si.bitBegun with level := false } rfl]
        exact Si.resync_of_sync_segment (Nat.zero_div _)
      · exact hsample { si.bitBegun with level := false } rfl
  · rw [Si.observe_of_no_edge c e (by
      rcases hl : si.bitBegun.level <;> simp_all)]
    exact hsample { si.bitBegun with level := si.bitBegun.tx && rx } rfl

theorem Si.tick_end (c : Settled) (e : Word32) (rx : Bool) {si : Si} (hon : si.state ≠ .off)
    (hend : c.bitTicks ≤ si.bitPos + 1) :
    si.tick c e rx = { si.bitBegun with level := si.bitBegun.tx && rx } := by
  rw [Si.tick_of_on c e rx hon, Si.advance_end (si := { si with found := none }) hend]
  exact Si.observe_bitBegun c e rx si

theorem Si.bitBegun_tx_burst {si : Si} (h : 2 ≤ si.burst ∧ si.burstWait = 0 ∨ 1 ≤ si.burst ∧ si.burstWait = 1) :
    si.bitBegun.tx = false := by
  refine if_pos ?_
  obtain ⟨hburst, hwait⟩ | ⟨hburst, hwait⟩ := h
  · simp [hwait]
    omega
  · simp [hwait]
    omega

section noBurst
variable {si : Si} (hburst : si.burst = 0)
include hburst

theorem Si.bitBegun_tx_own {o : OnCarrier} (hown : si.onCarrier = some o) :
    si.bitBegun.tx = (o.failed || o.bits.getD (if si.phase = Phase.receiving then si.bitNo + 1 else 0) true) := by
  simp [Si.bitBegun, Si.newBit, Si.nextLevel, hburst, hown]

theorem Si.bitBegun_tx_foreign (hown : si.onCarrier = none) : si.bitBegun.tx = !si.marksSlot := by
  simp [Si.bitBegun, Si.newBit, Si.nextLevel, Si.marksSlot, Si.acknowledges, hburst, hown]

end noBurst

theorem Si.marksSlot_iff {si : Si} (hown : si.onCarrier = none) :
    si.marksSlot = true ↔ si.phase = .receiving ∧ si.reading.atSlot = true ∧ si.listenOnly = false
      ∧ (si.state = .active ∨ si.state = .guarded) := by
  simp [Si.marksSlot, Si.acknowledges, hown, and_assoc]

/-! ## The tick within a bit -/

/-- SI one tick further within its bit, before it sees the carrier's level. -/
def Si.moved (level : Bool) (si : Si) : Si := { si with found := none, bitPos := si.bitPos + 1, level := level }

section within
variable {c : Settled} {e : Word32} {rx : Bool} {si : Si} (hon : si.state ≠ .off)
  (hwithin : si.bitPos + 1 < c.bitTicks)
include hon hwithin

theorem Si.tick_within : si.tick c e rx = Si.observe c e rx (si.moved si.level) := by
  rw [Si.tick_of_on c e rx hon, Si.advance_within (si := { si with found := none }) hwithin]
  rfl

theorem Si.tick_steady (h : si.level = false ∨ (si.tx && rx) = true) :
    si.tick c e rx = (si.moved (si.tx && rx)).sampleDue c e := by
  rw [Si.tick_within hon hwithin]
  exact Si.observe_of_no_edge c e (si := si.moved si.level) h

variable (hlevel : si.level = true) (hmark : (si.tx && rx) = false)
include hlevel hmark

theorem Si.tick_edge : si.tick c e rx = (si.moved false).edge c e := by
  rw [Si.tick_within hon hwithin]
  exact Si.observe_of_edge c e (si := si.moved si.level) hlevel hmark

theorem Si.tick_start (h : si.awaitsStart = true) :
    si.tick c e rx = { si with found := none, level := false, bitPos := 0, resynced := false } := by
  rw [Si.tick_edge hon hwithin hlevel hmark]
  exact Si.edge_of_start e (si := si.moved false) h

theorem Si.tick_no_resync (hstart : si.awaitsStart = false)
    (h : si.phase = .idle ∨ si.phase = .interspace ∨ si.tx = false ∨ si.resynced = true) :
    si.tick c e rx = (si.moved false).sampleDue c e := by
  rw [Si.tick_edge hon hwithin hlevel hmark]
  exact Si.edge_of_no_resync e (si := si.moved false) hstart (Si.mayResync_eq_false (si := si.moved false) h)

theorem Si.tick_resync (hphase : si.phase = .receiving ∨ si.phase = .recovering) (htx : si.tx = true)
    (honce : si.resynced = false) : si.tick c e rx = ((si.moved false).sampleDue c e).resync c := by
  rw [Si.tick_edge hon hwithin hlevel hmark]
  exact Si.edge_of_resync e (Si.awaitsStart_of_within (si := si.moved false) hphase)
    (Si.mayResync_of_within (si := si.moved false) hphase htx honce)

end within

/-- Settles O3: the tick ends a bit or falls within it; there, an edge begins a bit, moves it or does nothing. -/
theorem serviceTick : Obligations.ServiceTick := by
  refine ⟨fun n hhigh c hc => ?_, fun si c e rx => ⟨Si.tick_of_off c e rx, fun hon => ⟨?_, ?_, ?_⟩⟩⟩
  · rw [Node.tick_of_high hhigh, hc]
    rfl
  · exact fun hwithin h => Si.tick_steady hon hwithin h
  · intro hend
    rw [Si.tick_end c e rx hon hend]
    refine ⟨rfl, Si.bitBegun_tx_burst, fun hburst => ⟨fun o => Si.bitBegun_tx_own hburst, fun hown => ?_⟩⟩
    dsimp only
    rw [Si.bitBegun_tx_foreign hburst hown, Bool.not_eq_false', Si.marksSlot_iff hown]
  · intro hwithin hlevel hmark
    refine ⟨Si.tick_start hon hwithin hlevel hmark, Si.tick_no_resync hon hwithin hlevel hmark, ?_, ?_⟩
    · rintro q hq hphase htx honce hnosample
      rw [Si.tick_resync hon hwithin hlevel hmark hphase htx honce,
        Si.sampleDue_of_ne e (si := si.moved false) hnosample]
      refine ⟨fun hsync => ?_, fun hlow hhigh => Si.resync_lengthens (si := si.moved false) hq hlow hhigh hwithin,
        Si.resync_shortens (si := si.moved false) hq⟩
      exact Si.resync_of_sync_segment (si := si.moved false) (hq.symm.trans hsync)
    · rintro x hphase htx honce hsample rfl
      rw [Si.tick_resync hon hwithin hlevel hmark hphase htx honce,
        Si.sampleDue_of_eq e (si := si.moved false) hsample]
      have hresync := Si.resync_sampled ((Si.sample_bitPos e (si.moved false)).trans hsample)
      rw [← hsample] at hresync
      exact hresync

end Sys2Proof.Machine
end

section
/-! SUPPORT. Commands without their occasion (log entries 2 and 28). -/

namespace Sys2Proof.Machine

/-! ## What leaves a block as it is -/

section same
variable {n : Node}

theorem Node.awake_of_same {f : Node → Node} (h : f n = n) : n.awake f = n := by
  obtain heq | heq := n.awake_cases f
  · exact heq
  · exact heq.trans h

theorem Node.withCfg_of_same {f : Settled → Node → Node} (h : ∀ c, n.rh.settled = some c → f c n = n) :
    n.withCfg f = n := by
  obtain heq | ⟨c, hc, heq⟩ := n.withCfg_cases f
  · exact heq
  · exact heq.trans (h c hc)

theorem Node.asHead_of_same {f : Settled → Node → Node} (h : ∀ c, n.headCfg = some c → f c n = n) :
    n.asHead f = n := by
  obtain heq | ⟨c, hc, heq⟩ := n.asHead_cases f
  · exact heq
  · exact heq.trans (h c hc)

theorem Node.asBase_of_same {f : Settled → Node → Node} (h : ∀ c, n.baseCfg = some c → f c n = n) :
    n.asBase f = n := by
  obtain heq | ⟨c, hc, heq⟩ := n.asBase_cases f
  · exact heq
  · exact heq.trans (h c hc)

theorem Node.withCfg_of_none (h : n.rh.settled = none) (f : Settled → Node → Node) : n.withCfg f = n :=
  Node.withCfg_of_same fun c hc => by cases h.symm.trans hc

theorem Node.asHead_of_none (h : n.headCfg = none) (f : Settled → Node → Node) : n.asHead f = n :=
  Node.asHead_of_same fun c hc => by cases h.symm.trans hc

theorem Node.asBase_of_none (h : n.baseCfg = none) (f : Settled → Node → Node) : n.asBase f = n :=
  Node.asBase_of_same fun c hc => by cases h.symm.trans hc

theorem Node.request_of_elsewhere {addr : BitVec 7} (h : n.isAddressed addr = false) (body : List Byte)
    (f : Node → Node × Response) : n.request addr body f = n := by
  simp [Node.request, h]

theorem Node.receive_of_deaf (h : n.si.canReceive = false) (ok : Bool) (key : Key) (payload : List Byte)
    (stamp : Word32) (marked : Bool) (f : Settled → Word32 → Node → Node) :
    n.receive ok key payload stamp marked f = n :=
  Node.withCfg_of_same fun c _ => by simp [h]

end same

/-! ## RST_N -/

theorem Node.after_of_low {i : Instr} {n : Node} (h : n.rstLow = true) (habort : i ≠ .abortTaken)
    (hpower : ∀ role plane node adr, i ≠ .powerOnReset role plane node adr) : n.after i = n := by
  cases i
  case abortTaken => exact absurd rfl habort
  case powerOnReset role plane node adr => exact absurd rfl (hpower role plane node adr)
  all_goals simp [Node.awake_of_low h]

/-! ## Events that are not due -/

theorem Node.removeAged_of_young {n : Node} {c : Settled} (h : ∀ k ∈ n.du.cands, k.age < 3 * c.m) :
    n.removeAged c = n := by
  have hyoung : youngCands c.m n.du.cands = n.du.cands :=
    List.filter_eq_self.2 fun k hk => decide_eq_true (h k hk)
  simp [Node.removeAged, hyoung]

theorem Node.enterRunning_of_not_due {n : Node} {c : Settled}
    (h : n.rh.lifecycle ≠ .joining ∨ n.rh.joining ≠ 0) : n.enterRunning c = n :=
  if_neg (by simpa using fun hl => h.resolve_left (not_not_intro hl))

theorem Node.recordDeadline_of_not_due {n : Node} {c : Settled} {f : BitVec 8} {l : Nat}
    (h : ∀ r ∈ n.se.table, r.isAt f l = true → r.expires n.tb.e = false) : n.recordDeadline c f l = n :=
  if_neg (by simpa using h)

theorem Node.silenceTimeout_of_not_due {n : Node} {c : Settled} {p : Fin 4}
    (h : (n.lane p).isSilent n.tb.e = false) : n.silenceTimeout c p = n := by
  simp [Node.silenceTimeout, h]

theorem Node.takeAbort_of_none {n : Node} (habort : n.ou.abort = none) (hready : n.pins.pready = true) :
    Node.seeReady true { n with ou := n.ou.takeAbort } = n := by
  have hou : n.ou.takeAbort = n.ou := by simp [Ou.takeAbort, habort]
  have hpins : { n.pins with pready := true } = n.pins := by rw [← hready]
  rw [hou, Node.seeReady, hpins]

theorem Node.segmentHeader_of_not_due {n : Node} {c : Settled} {p : Fin 4} {bytes : List Byte}
    (h : (n.lane p).seg ≠ .started ∨ bytes.length ≠ 16) : n.segmentHeader c p bytes = n :=
  if_neg (by simpa using fun hs => h.resolve_left (not_not_intro hs))

theorem Node.segmentEnd_of_none {n : Node} {c : Settled} {p : Fin 4} {how : SegEnd} {v : Bool} {rest : List Byte}
    (h : (n.lane p).seg = .none) : n.segmentEnd c p how v rest = n := by
  simp [Node.segmentEnd, h]

theorem payloadBytes_of_no_code {pctl : BitVec 4} (pd : Word32) (h : pctl.toNat < 4 ∨ 7 < pctl.toNat) :
    payloadBytes pctl pd = [] :=
  if_neg (by simpa using fun h4 => h.resolve_left (by omega))

/-- What is not due changes nothing. -/
theorem after_of_not_due (n : Node) :
    (n.tb.frameDue = false → n.after .frameStart = n)
    ∧ (∀ c, n.rh.settled = some c →
      ((n.rh.lifecycle ≠ .joining ∨ n.rh.joining ≠ 0) → n.after .runningEntry = n)
      ∧ ((∀ k ∈ n.du.cands, k.age < 3 * c.m) → n.after .candidateRemoved = n)
      ∧ ((n.du.state ≠ .selfHold ∨ n.du.credit ≠ 0) → n.after .holdoverExpired = n)
      ∧ (n.silenceDue c = false → n.after .referenceSilence = n)
      ∧ (n.strobeReady c = false → n.after .strobeFire = n))
    ∧ (n.du.probeExpired = false → n.after .probeTimeout = n)
    ∧ (∀ p, (n.lane p).isSilent n.tb.e = false → n.after (.silenceTimeout p) = n)
    ∧ (∀ f l, (∀ r ∈ n.se.table, r.isAt f l = true → r.expires n.tb.e = false) →
        n.after (.recordDeadline f l) = n)
    ∧ (n.launchDue = false → n.after .segmentLaunched = n)
    ∧ (n.ou.abort = none → n.pins.pready = true → n.after .abortTaken = n) := by
  refine ⟨fun h => ?_, fun c hc => ⟨fun h => ?_, fun h => ?_, fun h => ?_, fun h => ?_, fun h => ?_⟩, fun h => ?_,
    fun p h => ?_, fun f l h => ?_, fun h => ?_, fun habort hready => ?_⟩
  · rw [Node.after_frameStart]
    exact Node.awake_of_same (Node.withCfg_of_same fun c _ => by simp [h])
  · rw [Node.after_runningEntry]
    exact Node.awake_of_same ((Node.withCfg_of hc _).trans (Node.enterRunning_of_not_due h))
  · rw [Node.after_candidateRemoved]
    exact Node.awake_of_same ((Node.withCfg_of hc _).trans (Node.removeAged_of_young h))
  · rw [Node.after_holdoverExpired]
    exact Node.awake_of_same ((Node.withCfg_of hc _).trans
      (if_neg (by simpa using fun hs => h.resolve_left (not_not_intro hs))))
  · rw [Node.after_referenceSilence]
    exact Node.awake_of_same ((Node.withCfg_of hc _).trans (by simp [h]))
  · rw [Node.after_strobeFire]
    exact Node.awake_of_same ((Node.withCfg_of hc _).trans (by simp [Node.strobeFire, h]))
  · rw [Node.after_probeTimeout]
    exact Node.awake_of_same (by simp [h])
  · rw [Node.after_silenceTimeout]
    exact Node.awake_of_same (Node.asBase_of_same fun c _ => Node.silenceTimeout_of_not_due h)
  · rw [Node.after_recordDeadline]
    exact Node.awake_of_same (Node.asBase_of_same fun c _ => Node.recordDeadline_of_not_due h)
  · rw [Node.after_segmentLaunched]
    exact Node.awake_of_same (Node.asHead_of_same fun c _ => by simp [h])
  · rw [Node.after_abortTaken]
    exact Node.asBase_of_same fun c _ => Node.takeAbort_of_none habort hready

/-! ## Commands of another role or address -/

theorem after_of_other_role (n : Node) :
    (∀ i ∈ [Instr.runningEntry, .candidateRemoved, .holdoverExpired, .strobeFire, .refinPulse, .referenceSilence,
        .messageStart, .messageSent], n.rh.settled = none → n.after i = n)
    ∧ (∀ i ∈ [Instr.frameBegin, .lineBegin, .lineEnd, .segmentLaunched], n.headCfg = none → n.after i = n)
    ∧ (∀ i ∈ [Instr.recordEnd, .abortTaken, .wordTaken, .stall], n.baseCfg = none → n.after i = n) := by
  refine ⟨fun i hi h => ?_, fun i hi h => ?_, fun i hi h => ?_⟩
  · fin_cases hi
    all_goals simp [Node.awake, Node.withCfg_of_none h]
  · fin_cases hi
    all_goals simp [Node.awake, Node.asHead_of_none h]
  · fin_cases hi
    all_goals simp [Node.awake, Node.asBase_of_none h]

theorem after_of_no_base {n : Node} (h : n.baseCfg = none) (p : Fin 4) (f : BitVec 8) (l : Nat) :
    ∀ i ∈ [Instr.carrierLoss p, .startDelimiter p true, .startDelimiter p false, .silenceTimeout p,
      .recordDeadline f l], n.after i = n := by
  intro i hi
  fin_cases hi
  all_goals simp [Node.awake, Node.asBase_of_none h]

theorem after_of_other_address {n : Node} {addr : BitVec 7} (h : n.isAddressed addr = false) (bytes : List Byte)
    (cp : PlaneSet) (pready : Bool) (count : Nat) :
    ∀ i ∈ [Instr.settle addr bytes, .adjust addr bytes, .send addr bytes, .take addr bytes,
      .status addr ⟨bytes, cp, pready⟩, .notices addr bytes, .softReset addr bytes, .mailboxBadRequest addr bytes,
      .mailboxRead addr count], n.after i = n := by
  intro i hi
  fin_cases hi
  all_goals simp [Node.awake, Node.request_of_elsewhere h, h]

/-! ## Carrier events in a state that does not have them -/

theorem Si.startPoint_eq_false {si : Si}
    (h : si.awaitsStart = false ∨ si.bitPos ≠ 0 ∨ si.phase ≠ .idle ∧ si.level = true) : si.startPoint = false := by
  obtain h | h | ⟨hphase, hlevel⟩ := h
  · simp [Si.startPoint, h]
  · simp [Si.startPoint, h]
  · simp [Si.startPoint, hphase, hlevel]

theorem Node.after_messageStart_of_no_point {n : Node} (h : n.si.startPoint = false) : n.after .messageStart = n := by
  rw [Node.after_messageStart]
  exact Node.awake_of_same (Node.withCfg_of_same fun c _ => by simp [Node.messageStart, h])

theorem Node.loseArbitration_of_not_clean {n : Node} (h : n.si.cleanOwn = false) : n.loseArbitration = n := by
  rcases ho : n.si.onCarrier with _ | o
  · simp [Node.loseArbitration, ho]
  · have hfailed : o.failed = true := by simpa [Si.cleanOwn, ho] using h
    simp [Node.loseArbitration, ho, hfailed]

theorem Node.messageSent_of_not_clean {n : Node} {c : Settled} (h : n.si.cleanOwn = false) : n.messageSent c = n := by
  rcases ho : n.si.onCarrier with _ | o
  · simp [Node.messageSent, ho]
  · have hfailed : o.failed = true := by simpa [Si.cleanOwn, ho] using h
    simp [Node.messageSent, ho, hfailed]

theorem Node.atIdlePoint_of_not_due {n : Node} (h : n.isIdle = false ∨ n.rh.pending.listenOnly = none) :
    n.atIdlePoint = n := by
  obtain h | h := h
  · simp [Node.atIdlePoint, h]
  · simp [Node.atIdlePoint, Node.takeListenOnly, h]

theorem after_of_no_carrier_event (n : Node) :
    ((n.si.awaitsStart = false ∨ n.si.bitPos ≠ 0 ∨ n.si.phase ≠ .idle ∧ n.si.level = true) →
      n.after .messageStart = n)
    ∧ (n.si.cleanOwn = false → n.after .arbitrationLost = n ∧ n.after .messageSent = n)
    ∧ (n.si.onCarrier = none → n.after .messageFailed = n)
    ∧ (∀ k, n.si.canErr k = false → n.after (.serviceError k) = n)
    ∧ (n.si.guardWait ≠ some 0 → n.after .guardedWaitEnd = n)
    ∧ ((n.si.state ≠ .silenced ∨ n.si.recovery < 48) → n.after .silencedRecovery = n)
    ∧ ((n.si.state ≠ .integrating ∨ n.si.spaces < 10) → n.after .integrationEnd = n)
    ∧ ((n.isIdle = false ∨ n.rh.pending.listenOnly = none) → n.after .listenOnlyEffect = n) := by
  refine ⟨fun h => ?_, fun h => ⟨?_, ?_⟩, fun h => ?_, fun k h => ?_, fun h => ?_, fun h => ?_, fun h => ?_,
    fun h => ?_⟩
  · exact Node.after_messageStart_of_no_point (Si.startPoint_eq_false h)
  · rw [Node.after_arbitrationLost]
    exact Node.awake_of_same (Node.loseArbitration_of_not_clean h)
  · rw [Node.after_messageSent]
    exact Node.awake_of_same (Node.withCfg_of_same fun c _ => Node.messageSent_of_not_clean h)
  · rw [Node.after_messageFailed]
    exact Node.awake_of_same (by simp [Node.messageFailed, h])
  · rw [Node.after_serviceError]
    exact Node.awake_of_same (Node.withCfg_of_same fun c _ => by simp [Node.serviceError, h])
  · rw [Node.after_guardedWaitEnd]
    exact Node.awake_of_same (by simp [Si.endGuard, h])
  · rw [Node.after_silencedRecovery]
    refine Node.awake_of_same (if_neg ?_)
    simpa using fun hs => h.resolve_left (not_not_intro hs)
  · have hsi : n.si.endIntegration = n.si :=
      if_neg (by simpa using fun hs => h.resolve_left (not_not_intro hs))
    rw [Node.after_integrationEnd]
    exact Node.awake_of_same (by simp [hsi])
  · rw [Node.after_listenOnlyEffect]
    exact Node.awake_of_same (Node.atIdlePoint_of_not_due h)

/-- A node that cannot receive takes no message, but for a CONTROL that comes with the end of its own reply. -/
theorem after_of_deaf {n : Node} (h : n.si.canReceive = false) (key : Key) (payload : List Byte) (stamp : Word32)
    (marked : Bool) :
    (∀ i ∈ [Instr.announceReceived key payload ⟨stamp, marked⟩, .delayProbeReceived key payload ⟨stamp, marked⟩,
        .delayReplyReceived key payload ⟨stamp, marked⟩, .controlReplyReceived key payload ⟨stamp, marked⟩,
        .unusableKind key payload ⟨stamp, marked⟩, .badForm key payload ⟨stamp, marked⟩,
        .userMailFiled key payload ⟨stamp, marked⟩], n.after i = n)
    ∧ (n.started .controlReply = false → n.after (.controlReceived key payload ⟨stamp, marked⟩) = n) := by
  refine ⟨fun i hi => ?_, fun hstarted => ?_⟩
  · fin_cases hi
    all_goals simp [Node.awake, Node.receive_of_deaf h]
  · rw [Node.after_controlReceived]
    refine Node.awake_of_same ?_
    simp [Node.controlReceived, hstarted, Node.receive_of_deaf h]

/-- Settles O6: each command without its occasion leaves the block as it is, so `exec` answers the same state. -/
theorem whatChangesNothing : Obligations.WhatChangesNothing := by
  refine ⟨fun i s h habort hpower => exec_eq_self (Node.after_of_low h habort hpower), fun s => ?_, fun s => ?_,
    fun s => ?_⟩
  · obtain ⟨hframe, hcfg, hprobe, hsilence, hdeadline, hlaunch, habort⟩ := after_of_not_due s.node
    refine ⟨fun h => exec_eq_self (hframe h), fun c hc => ?_, fun h => exec_eq_self (hprobe h),
      fun p h => exec_eq_self (hsilence p h), fun f l h => exec_eq_self (hdeadline f l h),
      fun h => exec_eq_self (hlaunch h), fun h hr => exec_eq_self (habort h hr)⟩
    obtain ⟨hrun, haged, hhold, href, hstrobe⟩ := hcfg c hc
    exact ⟨fun h => exec_eq_self (hrun h), fun h => exec_eq_self (haged h), fun h => exec_eq_self (hhold h),
      fun h => exec_eq_self (href h), fun h => exec_eq_self (hstrobe h)⟩
  · obtain ⟨hunsettled, hhead, hbase⟩ := after_of_other_role s.node
    refine ⟨fun i hi h => exec_eq_self (hunsettled i hi h), fun i hi h => exec_eq_self (hhead i hi h),
      fun pctl pd h => exec_eq_self
        ((Node.after_payloadWord pctl pd _).trans (Node.awake_of_same (Node.asHead_of_same fun c hc => ?_))),
      fun i hi h => exec_eq_self (hbase i hi h),
      fun p f l h i hi => exec_eq_self (after_of_no_base h p f l i hi),
      fun p bytes h => exec_eq_self
        ((Node.after_segmentHeader p bytes _).trans (Node.awake_of_same (Node.asBase_of_same fun c hc => ?_))),
      fun p how v rest h => exec_eq_self
        ((Node.after_segmentEnd p how v rest _).trans (Node.awake_of_same (Node.asBase_of_same fun c hc => ?_))),
      fun addr bytes cp pready count h i hi =>
        exec_eq_self (after_of_other_address h bytes cp pready count i hi)⟩
    · have hcode := h.resolve_left (by rw [hc]; nofun)
      simp [payloadBytes_of_no_code pd hcode]
    · exact Node.segmentHeader_of_not_due (h.resolve_left (by rw [hc]; nofun))
    · exact Node.segmentEnd_of_none (h.resolve_left (by rw [hc]; nofun))
  · obtain ⟨hstart, hclean, hfail, herr, hguard, hsil, hint, hlisten⟩ := after_of_no_carrier_event s.node
    refine ⟨fun h => exec_eq_self (hstart h),
      fun h => ⟨exec_eq_self (hclean h).1, exec_eq_self (hclean h).2⟩, fun h => exec_eq_self (hfail h),
      fun k h => exec_eq_self (herr k h), fun h => exec_eq_self (hguard h), fun h => exec_eq_self (hsil h),
      fun h => exec_eq_self (hint h), fun h => exec_eq_self (hlisten h), fun key payload stamp marked h => ?_⟩
    obtain ⟨hothers, hcontrol⟩ := after_of_deaf h key payload stamp marked
    exact ⟨fun i hi => exec_eq_self (hothers i hi), fun hs => exec_eq_self (hcontrol hs)⟩

end Sys2Proof.Machine
end

section
/-! SUPPORT. The resets, and the requests SETTLE and TAKE (R148, R180, R186, R188, R189, R197). -/

namespace Sys2Proof.Machine

/-! ## A request of the mailbox -/

section request
variable {i : Instr} {s : State} {addr : BitVec 7} {body : List Byte} {f : Node → Node × Response}
  (hafter : s.node.after i = s.node.awake (Node.request addr body f)) (hears : s.node.Hears addr body)
include hafter hears

/-- What a request the node hears leaves: the block its operation makes, holding the operation's answer. -/
theorem yields_request {n : Node} {r : Response} (hf : f (s.node.setMailbox .taking) = (n, r)) {P : Node → Prop} :
    Yields i s P ↔ P (n.setMailbox (.held r)) := by
  rw [yields_iff_after, hafter, Node.awake_of_high hears.1, Node.request_of_hears hears, hf]

theorem yields_onlyAnswered {r : Response}
    (hf : f (s.node.setMailbox .taking) = (s.node.setMailbox .taking, r)) :
    Yields i s (s.node.OnlyAnswered r) := by
  rw [yields_request hafter hears hf]
  rfl

end request

/-! ## Power-on reset -/

theorem Node.port_of_no_base {n : Node} (h : n.baseCfg = none) : n.port = none := by
  simp [Node.port, h]

theorem Node.baseCfg_of_unsettled {n : Node} (h : n.rh.settled = none) : n.baseCfg = none := by
  unfold Node.baseCfg
  split
  · rfl
  · exact h

theorem Rh.noteLow_of_no_notices {rh : Rh} (h : rh.notices = 0) : rh.noteLow = false := by
  simp [Rh.noteLow, Rh.isPending, h]

/-- Each lane as both resets leave it. -/
theorem Node.lane_of_reset {n : Node} (h : n.rl = Four.const Lane.powerOn) (p : Fin 4) : n.lane p = Lane.powerOn := by
  rw [Node.lane, h, Four.get_const]

/-- Settles O7: every block is its power-on value. -/
theorem powerOnReset : Obligations.PowerOnReset := by
  intro role plane node adr s
  rw [yields_iff_after, Node.after_powerOnReset]
  have hport : (Node.powerOn ⟨role, plane, node, adr⟩ s.node.pins s.node.freeIdx).port = none :=
    Node.port_of_no_base (Node.baseCfg_of_unsettled rfl)
  have hlow := Rh.noteLow_of_no_notices (rh := Rh.powerOn ⟨role, plane, node, adr⟩) rfl
  have hlane (p : Fin 4) := Node.lane_of_reset
    (n := Node.powerOn ⟨role, plane, node, adr⟩ s.node.pins s.node.freeIdx) rfl p
  refine ⟨rfl, rfl, rfl, rfl, rfl, rfl, rfl, rfl, rfl, rfl, rfl, rfl, rfl, rfl, rfl, rfl, rfl, rfl, rfl, rfl, rfl, rfl,
    rfl, rfl, rfl, rfl, rfl, rfl, rfl, rfl, rfl, rfl, rfl, rfl, rfl, rfl, rfl, rfl, fun p => ?_, rfl, rfl, rfl, rfl, rfl,
    rfl, rfl, rfl, rfl, hport, rfl, rfl, rfl, rfl, rfl, rfl, rfl, rfl, rfl, rfl, rfl, rfl, rfl, rfl, rfl, rfl, rfl, rfl,
    rfl, rfl, hlow, rfl⟩
  rw [hlane p]
  exact ⟨rfl, rfl, rfl, rfl, rfl⟩

/-! ## RST_N asserted -/

theorem Ou.presented_of_abort {ou : Ou} {w : AbortWord} (h : ou.abort = some w) : ou.presented = .abort w := by
  simp [Ou.presented, h]

theorem Ou.presented_of_empty {ou : Ou} (habort : ou.abort = none) (hqueue : ou.queue = []) :
    ou.presented = .none := by
  simp [Ou.presented, habort, hqueue]

theorem Ou.abortAfterReset_of_pending {ou : Ou} {w : AbortWord} (h : ou.abort = some w) :
    ou.abortAfterReset = some w := by
  simp [Ou.abortAfterReset, h]

theorem Ou.abortAfterReset_of_emitting {ou : Ou} {d : Descriptor} {rest : List Descriptor} (habort : ou.abort = none)
    (hqueue : ou.queue = d :: rest) (htaken : 0 < ou.taken) : ou.abortAfterReset = some d.abortWord := by
  simp [Ou.abortAfterReset, habort, hqueue, htaken.ne']

theorem Ou.abortAfterReset_of_idle {ou : Ou} (habort : ou.abort = none) (h : ou.queue = [] ∨ ou.taken = 0) :
    ou.abortAfterReset = none := by
  unfold Ou.abortAfterReset
  split
  · next w _ hw => cases habort.symm.trans hw
  · rfl
  · next d rest _ hqueue => exact if_pos (h.resolve_left (by rw [hqueue]; nofun))

theorem Node.port_of_base {n : Node} {c : Settled} (h : n.baseCfg = some c) :
    n.port = some (n.ou.presented.pins n.ss) := by
  simp [Node.port, h]

/-- The port of a node in which RST_N has cut the record short. -/
theorem Node.port_of_cut {n : Node} {c : Settled} (h : n.baseCfg = some c) (hqueue : n.ou.queue = []) :
    (∀ w, n.ou.abort = some w → n.port = some (2, packWord w.bytes))
    ∧ (n.ou.abort = none → n.port = some (0, 0)) := by
  rw [Node.port_of_base h]
  constructor
  · intro w hw
    rw [Ou.presented_of_abort hw]
    rfl
  · intro habort
    rw [Ou.presented_of_empty habort hqueue]
    rfl

/-- Settles O8: the queue is cut, and what the port shows follows from `abortAfterReset`. -/
theorem resetAssertedClosesTheRecord : Obligations.ResetAssertedClosesTheRecord := by
  intro s hhigh
  refine ⟨fun c hc => ?_, fun hc => ?_⟩
  · rw [yields_iff_after, Node.after_rstNAsserted, Node.awake_of_high hhigh, Node.assertReset, hc]
    dsimp only
    obtain ⟨habort, hidle⟩ := Node.port_of_cut (c := c) (n := Node.settleRefs
      { s.node with rstLow := true, se := s.node.se.enterIdle, ou := s.node.ou.cutByReset }) hc rfl
    refine ⟨rfl, rfl, rfl, fun w hw => ?_, fun hnone d rest hqueue htaken => ?_, fun hnone h => ?_, rfl, rfl⟩
    · exact habort w (Ou.abortAfterReset_of_pending hw)
    · exact habort _ (Ou.abortAfterReset_of_emitting hnone hqueue htaken)
    · exact hidle (Ou.abortAfterReset_of_idle hnone h)
  · rw [yields_iff_after, Node.after_rstNAsserted, Node.awake_of_high hhigh, Node.assertReset, hc]
    exact ⟨Node.port_of_no_base hc, rfl⟩

/-! ## Soft reset -/

/-- Settles O10: every block is its soft-reset value; only the ABORT that may close a record needs a case split. -/
theorem softReset : Obligations.SoftReset := by
  intro s addr hears
  refine ⟨fun c hc => ?_, fun hc => ?_⟩
  · rw [yields_request (Node.after_softReset addr [] _) hears
      (Node.softResetRequest_of_settled (n := s.node.setMailbox .taking) hc)]
    have hlane (p : Fin 4) := Node.lane_of_reset (n := (s.node.setMailbox .taking).softReset c) rfl p
    refine ⟨rfl, rfl, hc, rfl, rfl, rfl, rfl, rfl, rfl, rfl, rfl, rfl, rfl, rfl, rfl, rfl, rfl, rfl,
      ⟨_, rfl, rfl, rfl, rfl⟩, rfl, rfl, rfl, rfl, rfl, rfl, rfl, rfl, rfl, rfl, rfl, rfl, rfl, rfl, rfl, rfl, rfl, rfl,
      rfl, rfl, rfl, rfl, rfl, fun h => if_neg h, fun p => ?_, rfl, rfl, rfl, rfl, rfl, rfl, rfl, fun w hw => ?_,
      fun hnone d rest hqueue htaken => ?_, fun hnone h => ?_, rfl, rfl, rfl, rfl, rfl, rfl, rfl, rfl, rfl, rfl, rfl,
      rfl, rfl, rfl, rfl, rfl, rfl⟩
    · rw [show (((s.node.setMailbox .taking).softReset c).setMailbox (.held (.plain .done))).lane p = Lane.powerOn
        from hlane p]
      exact ⟨rfl, rfl, rfl, rfl, rfl⟩
    · exact Ou.abortAfterReset_of_pending hw
    · exact Ou.abortAfterReset_of_emitting hnone hqueue htaken
    · exact Ou.abortAfterReset_of_idle hnone (.inr h)
  · refine yields_onlyAnswered (Node.after_softReset addr [] _) hears ?_
    simp [Node.softResetRequest, Node.setMailbox, hc, Node.refuse, Response.plain]

/-! ## SETTLE -/

section settle
variable {n : Node} {body : List Byte}

theorem Node.settle_badLength (h : body.length ≠ 180) : n.settle body = n.badLength := by
  simp [Node.settle, h]

variable (hlen : body.length = 180)
include hlen

theorem Node.settle_settled (h : n.rh.lifecycle ≠ .unsettled) : n.settle body = n.refuse .refusedState := by
  simp [Node.settle, hlen, h]

variable (hlife : n.rh.lifecycle = .unsettled)
include hlife

theorem Node.settle_illegal {row : Nat} (h : (SettleBlock.ofBytes body).failing = some row) :
    n.settle body = (n, ⟨.refusedRange, u8 row⟩) := by
  simp [Node.settle, hlen, hlife, h]

theorem Node.settle_accepted (h : (SettleBlock.ofBytes body).failing = none) :
    n.settle body = (n.acceptSettle (SettleBlock.ofBytes body).settled, .plain .done) := by
  simp [Node.settle, hlen, hlife, h]

end settle

theorem Lu.settle_head (lu : Lu) : (lu.settle .head).carrier = .idleFill := rfl

/-- Settles O11: SETTLE's tests in their order; the accepted block's fields are those of `acceptSettle`. -/
theorem settle : Obligations.Settle := by
  refine ⟨fun s addr body hears hlen hlife hlegal => ?_, fun s addr body hears => ⟨fun hlen => ?_,
    fun hlen hlife => ?_, fun hlen hlife row hrow => ?_⟩⟩
  · rw [yields_request (Node.after_settle addr body _) hears
      (Node.settle_accepted (n := s.node.setMailbox .taking) hlen hlife hlegal)]
    refine ⟨rfl, ⟨_, rfl, rfl, rfl, rfl, rfl, rfl, rfl, rfl, _, rfl, rfl, rfl⟩, rfl, rfl, rfl, rfl, rfl, rfl, rfl, rfl,
      rfl, rfl, fun hhead => ?_, rfl⟩
    exact (congrArg (fun r => (s.node.lu.settle r).carrier) hhead).trans (Lu.settle_head _)
  · exact yields_onlyAnswered (Node.after_settle addr body _) hears
      (Node.settle_badLength (n := s.node.setMailbox .taking) hlen)
  · exact yields_onlyAnswered (Node.after_settle addr body _) hears
      (Node.settle_settled (n := s.node.setMailbox .taking) hlen hlife)
  · exact yields_onlyAnswered (Node.after_settle addr body _) hears
      (Node.settle_illegal (n := s.node.setMailbox .taking) hlen hlife hrow)

/-! ## TAKE -/

theorem Mh.slot_setSlot_self {mh : Mh} {i : Nat} (h : i < mh.slots.length) (st : SlotState) :
    (mh.setSlot i st).slot i = ⟨(mh.slot i).defn, st⟩ := by
  simp [Mh.slot, Mh.setSlot, List.getD_eq_getElem?_getD, h]

theorem Mh.slot_setSlot_of_ne {mh : Mh} {i j : Nat} (h : j ≠ i) (st : SlotState) :
    (mh.setSlot i st).slot j = mh.slot j := by
  simp [Mh.slot, Mh.setSlot, List.getD_eq_getElem?_getD, List.getElem?_set_ne h.symm]

section take
variable {mh : Mh} {i : Nat}

theorem Mh.take_of_range (h : 12 ≤ i) : mh.take i = (mh, .plain .refusedRange) := by
  simp [Mh.take, h]

variable (hi : i < 12)
include hi

theorem Mh.take_full {m : RxMail} (h : (mh.slot i).state = .full m) :
    mh.take i = (mh.setSlot i .empty, m.response false) := by
  simp [Mh.take, Nat.not_le.2 hi, h]

theorem Mh.take_overrun {m : RxMail} (h : (mh.slot i).state = .overrun m) :
    mh.take i = (mh.setSlot i .empty, m.response true) := by
  simp [Mh.take, Nat.not_le.2 hi, h]

theorem Mh.take_empty (h : (mh.slot i).state = .empty) : mh.take i = (mh, .plain .empty) := by
  simp [Mh.take, Nat.not_le.2 hi, h]

theorem Mh.take_other (h : (mh.slot i).state = .unused ∨ (mh.slot i).state = .idle
      ∨ (∃ m, (mh.slot i).state = .pending m) ∨ (∃ m, (mh.slot i).state = .sending m)
      ∨ (mh.slot i).state = .done ∨ (mh.slot i).state = .failed) : mh.take i = (mh, .plain .refusedState) := by
  obtain h | h | ⟨m, h⟩ | ⟨m, h⟩ | h | h := h <;> simp [Mh.take, Nat.not_le.2 hi, h]

end take

theorem field_single (b : Byte) : field [b] 0 1 = b.toNat := by
  simp [field, beNat]

/-- A TAKE of a whole body is MH's, once the node is settled. -/
theorem Node.take_of_settled {n : Node} (h : n.rh.lifecycle ≠ .unsettled) (b : Byte) :
    n.take [b] = ({ n with mh := (n.mh.take b.toNat).1 }, (n.mh.take b.toNat).2) := by
  simp [Node.take, h, field_single]

theorem Node.take_of_unsettled {n : Node} (h : n.rh.lifecycle = .unsettled) (b : Byte) :
    n.take [b] = n.refuse .refusedState := by
  simp [Node.take, h]

/-- Settles O15: MH's answer in each slot state, carried out by the mailbox. -/
theorem takeAnswers : Obligations.TakeAnswers := by
  intro s addr b hears
  have hafter := Node.after_take addr [b] s.node
  refine ⟨fun hlife => yields_onlyAnswered hafter hears (Node.take_of_unsettled (n := s.node.setMailbox .taking) hlife b),
    fun hlife => ?_⟩
  have htake := Node.take_of_settled (n := s.node.setMailbox .taking) hlife b
  have hgives {m : RxMail} {overrun : Bool}
      (hmh : s.node.mh.take b.toNat = (s.node.mh.setSlot b.toNat .empty, m.response overrun)) {P : Node → Prop} :
      Yields (.take addr [b]) s P ↔
        P (({ s.node with mh := s.node.mh.setSlot b.toNat .empty } : Node).setMailbox
          (.held (m.response overrun))) := by
    rw [yields_request hafter hears htake]
    simp only [Node.setMailbox, hmh]
  have hanswers {r : ResultCode} (hmh : s.node.mh.take b.toNat = (s.node.mh, .plain r)) :
      Yields (.take addr [b]) s (s.node.OnlyAnswered ⟨r, []⟩) := by
    refine yields_onlyAnswered hafter hears (htake.trans ?_)
    simp only [Node.setMailbox, hmh]
    rfl
  refine ⟨fun h => hanswers (Mh.take_of_range h), fun hb hslots => ⟨fun m hm => ?_, fun m hm => ?_,
    fun h => hanswers (Mh.take_empty hb h), fun h => hanswers (Mh.take_other hb h)⟩⟩
  · rw [hgives (Mh.take_full hb hm)]
    exact ⟨rfl, rfl, congrArg Slot.state (Mh.slot_setSlot_self (by omega) _)⟩
  · rw [hgives (Mh.take_overrun hb hm)]
    exact ⟨rfl, rfl, congrArg Slot.state (Mh.slot_setSlot_self (by omega) _)⟩

end Sys2Proof.Machine
end

section
/-! SUPPORT. What a legal SETTLE block is and where its bytes stand (R188, R203). -/

namespace Sys2Proof.Machine

/-! ## Numbers in bytes -/

theorem field_drop (bs : List Byte) (a off len : Nat) : field (bs.drop a) off len = field bs (a + off) len := by
  simp [field]

theorem field_byte (bs : List Byte) (k : Nat) : field bs k 1 = (bs.getD k 0).toNat := by
  rcases h : bs.drop k with _ | ⟨x, rest⟩
  · have hlen := List.drop_eq_nil_iff.1 h
    simp [field, h, beNat, List.getD_eq_getElem?_getD, List.getElem?_eq_none hlen]
  · have hx : bs[k]? = some x := by rw [← Nat.add_zero k, ← List.getElem?_drop, h]; rfl
    simp [field, h, beNat, List.getD_eq_getElem?_getD, hx]

theorem drop_eq_getD_cons {bs : List Byte} {k : Nat} (h : k < bs.length) :
    bs.drop k = bs.getD k 0 :: bs.drop (k + 1) := by
  rw [List.drop_eq_getElem_cons h, List.getD_eq_getElem _ _ h]

theorem field_two {bs : List Byte} {k : Nat} (h : k + 1 < bs.length) :
    field bs k 2 = 256 * (bs.getD k 0).toNat + (bs.getD (k + 1) 0).toNat := by
  rw [field, drop_eq_getD_cons (by omega), drop_eq_getD_cons h]
  simp only [List.take_succ_cons, List.take_zero, beNat, List.foldl_cons, List.foldl_nil]
  omega

theorem field_four {bs : List Byte} {k : Nat} (h : k + 3 < bs.length) :
    field bs k 4 = 16777216 * (bs.getD k 0).toNat + 65536 * (bs.getD (k + 1) 0).toNat
      + 256 * (bs.getD (k + 2) 0).toNat + (bs.getD (k + 3) 0).toNat := by
  rw [field, drop_eq_getD_cons (by omega), drop_eq_getD_cons (by omega), drop_eq_getD_cons (by omega),
    drop_eq_getD_cons h]
  simp only [List.take_succ_cons, List.take_zero, beNat, List.foldl_cons, List.foldl_nil, Nat.add_assoc,
    Nat.reduceAdd]
  omega

/-- A number of four bytes is negative exactly if its most significant byte is 128 or more. -/
theorem signed32_of_lt {k : Nat} (h : k < 4294967296) :
    signed32 k = (if k < 2147483648 then 0 else -4294967296) + (k : Int) := by
  rw [signed32, BitVec.toInt_eq_toNat_cond, BitVec.toNat_ofNat, Nat.mod_eq_of_lt h]
  split <;> split <;> omega

theorem readSlots_getElem? {k i : Nat} (h : i < k) (bs : List Byte) :
    (readSlots k bs)[i]? = some ⟨field bs (5 * i) 1, field bs (5 * i + 1) 2, field bs (5 * i + 3) 2⟩ := by
  induction k generalizing i bs with
  | zero => omega
  | succ k ih =>
    cases i with
    | zero => rfl
    | succ i =>
      rw [readSlots, List.getElem?_cons_succ, ih (by omega), field_drop, field_drop, field_drop]
      simp only [show 5 * (i + 1) = 5 + 5 * i by omega, Nat.add_assoc]

theorem readStrobes_getElem? {k i : Nat} (h : i < k) (bs : List Byte) :
    (readStrobes k bs)[i]? = some (RawStrobe.ofBytes (bs.drop (6 * i))) := by
  induction k generalizing i bs with
  | zero => omega
  | succ k ih =>
    cases i with
    | zero => rfl
    | succ i =>
      rw [readStrobes, List.getElem?_cons_succ, ih (by omega), List.drop_drop]
      simp only [show 6 * (i + 1) = 6 + 6 * i by omega]

/-! ## The rows of the table -/

theorem firstFailing_eq_none {k : Nat} {l : List Bool} : firstFailing k l = none ↔ ∀ b ∈ l, b = true := by
  induction l generalizing k with
  | nil => simp [firstFailing]
  | cons b rest ih => cases b <;> simp [firstFailing, ih]

theorem RawSlot.legal_iff (x : RawSlot) :
    x.legal = true ↔ x.type ≤ 2 ∧ x.key < 4096 ∧ x.mask < 4096 ∧ (x.type = 2 → 6 ≤ x.key / 256) := by
  simp [RawSlot.legal, and_assoc, Classical.or_iff_not_imp_left]

theorem scheduleLegal_iff (lTot : Nat) (l : List RawStrobe) :
    scheduleLegal lTot l = true ↔ l.length ≤ 12
      ∧ ∀ e ∈ l, (e.line = 0xFFFF ∨ e.line < lTot) ∧ e.setMask < 64 ∧ e.clearMask < 64 := by
  simp [scheduleLegal, RawStrobe.legal, and_assoc]

/-- A block is legal if each row of the table holds. -/
theorem SettleBlock.failing_eq_none (b : SettleBlock) :
    b.failing = none ↔
    16 ≤ b.lTot ∧ b.lTot ≤ 4095 ∧ 1 ≤ b.aLines ∧ b.aLines ≤ b.lTot ∧ 128 ≤ b.tpl ∧ b.x < b.lTot
    ∧ b.lTot * b.tpl + b.x ≤ 268435456
    ∧ (b.r = 24 ∨ b.r = 25 ∨ b.r = 30) ∧ (b.d = 1 ∨ b.d = 2)
    ∧ (b.m = 4 ∨ b.m = 8 ∨ b.m = 16 ∨ b.m = 32 ∨ b.m = 64)
    ∧ 1 ≤ b.stepLimit ∧ b.stepLimit ≤ 4095 ∧ 1 ≤ b.lockWindow
    ∧ -(b.lTot * b.tpl + b.x : Int) ≤ 2 * b.rOff ∧ 2 * b.rOff ≤ (b.lTot * b.tpl + b.x : Int)
    ∧ b.lead < b.lTot * b.tpl + b.x ∧ 1 ≤ b.w ∧ b.mode ≤ 1
    ∧ b.pre ≤ 63 ∧ 1 ≤ b.prop ∧ b.prop ≤ 64 ∧ 1 ≤ b.pa ∧ b.pa ≤ 16 ∧ 1 ≤ b.pb ∧ b.pb ≤ 16
    ∧ 1 ≤ b.sjw ∧ b.sjw ≤ 4 ∧ b.sjw ≤ b.pa ∧ b.sjw ≤ b.pb ∧ b.order ≤ 1
    ∧ (∀ x ∈ b.slots, x.type ≤ 2 ∧ x.key < 4096 ∧ x.mask < 4096 ∧ (x.type = 2 → 6 ≤ x.key / 256))
    ∧ (∀ l ∈ b.levels, l ≤ 7) ∧ b.threshold ≤ 7 ∧ b.count ≤ 12 ∧ b.schedule.length ≤ 12
    ∧ ∀ e ∈ b.schedule, (e.line = 0xFFFF ∨ e.line < b.lTot) ∧ e.setMask < 64 ∧ e.clearMask < 64 := by
  rw [SettleBlock.failing, firstFailing_eq_none]
  simp only [SettleBlock.rows, List.forall_mem_cons, List.not_mem_nil, false_implies, implies_true, and_true,
    Bool.and_eq_true, Bool.or_eq_true, decide_eq_true_eq, beq_iff_eq, List.all_eq_true, RawSlot.legal_iff,
    scheduleLegal_iff, and_assoc, or_assoc, true_and]
  simp only [SettleBlock.period, Nat.cast_add, Nat.cast_mul]

/-- The items of a block of 180 bytes, each at its offset. -/
theorem SettleBlock.ofBytes_items {body : List Byte} {at_ : Nat → Nat} (hlen : body.length = 180)
    (hat : at_ = fun k => (body.getD k 0).toNat) {b : SettleBlock} (hb : b = SettleBlock.ofBytes body) :
    b.lTot = 256 * at_ 0 + at_ 1 ∧ b.aLines = 256 * at_ 2 + at_ 3 ∧ b.tpl = 256 * at_ 4 + at_ 5
    ∧ b.x = 256 * at_ 6 + at_ 7 ∧ b.r = at_ 8 ∧ b.d = at_ 9 ∧ b.m = at_ 10 ∧ b.stepLimit = 256 * at_ 11 + at_ 12
    ∧ b.lockWindow = at_ 13 ∧ b.h = 256 * at_ 14 + at_ 15
    ∧ b.rOff = (if at_ 16 < 128 then 0 else -4294967296)
        + ((16777216 * at_ 16 + 65536 * at_ 17 + 256 * at_ 18 + at_ 19 : Nat) : Int)
    ∧ b.lead = 256 * at_ 20 + at_ 21 ∧ b.mask = at_ 22 ∧ b.w = 256 * at_ 23 + at_ 24 ∧ b.mode = at_ 25
    ∧ b.pre = at_ 26 ∧ b.prop = at_ 27 ∧ b.pa = at_ 28 ∧ b.pb = at_ 29 ∧ b.sjw = at_ 30 ∧ b.order = at_ 31
    ∧ b.slots.length = 12
    ∧ (∀ i, i < 12 → b.slots[i]? = some ⟨at_ (32 + 5 * i), 256 * at_ (33 + 5 * i) + at_ (34 + 5 * i),
        256 * at_ (35 + 5 * i) + at_ (36 + 5 * i)⟩)
    ∧ b.levels.length = 14 ∧ (∀ i, i < 14 → b.levels[i]? = some (at_ (92 + i)))
    ∧ b.threshold = at_ 106 ∧ b.count = at_ 107 ∧ b.schedule.length = min 12 b.count
    ∧ ∀ i, i < b.count → i < 12 → b.schedule[i]? = some ⟨256 * at_ (108 + 6 * i) + at_ (109 + 6 * i),
        256 * at_ (110 + 6 * i) + at_ (111 + 6 * i), at_ (112 + 6 * i), at_ (113 + 6 * i)⟩ := by
  have hone (k : Nat) : field body k 1 = at_ k := by rw [hat, field_byte]
  have htwo (k : Nat) (hk : k + 1 < 180) : field body k 2 = 256 * at_ k + at_ (k + 1) := by
    rw [hat, field_two (by omega)]
  have hbyte (k : Nat) : at_ k < 256 := by rw [hat]; exact BitVec.isLt _
  subst hb
  refine ⟨htwo 0 (by omega), htwo 2 (by omega), htwo 4 (by omega), htwo 6 (by omega), hone 8, hone 9, hone 10,
    htwo 11 (by omega), hone 13, htwo 14 (by omega), ?_, htwo 20 (by omega), hone 22, htwo 23 (by omega), hone 25,
    hone 26, hone 27, hone 28, hone 29, hone 30, hone 31, readSlots_length _ _, fun i hi => ?_, ?_, fun i hi => ?_,
    hone 106, hone 107, ?_, fun i hcount hi => ?_⟩
  · have hfour : field body 16 4 = 16777216 * at_ 16 + 65536 * at_ 17 + 256 * at_ 18 + at_ 19 := by
      rw [hat, field_four (by omega)]
    have h16 := hbyte 16
    have h17 := hbyte 17
    have h18 := hbyte 18
    have h19 := hbyte 19
    simp only [SettleBlock.ofBytes]
    rw [hfour, signed32_of_lt (by omega)]
    simp only [show 16777216 * at_ 16 + 65536 * at_ 17 + 256 * at_ 18 + at_ 19 < 2147483648 ↔ at_ 16 < 128 by omega]
  · simp only [SettleBlock.ofBytes]
    rw [readSlots_getElem? hi, field_drop, field_drop, field_drop, hone, htwo _ (by omega), htwo _ (by omega)]
    simp only [show 32 + (5 * i + 1) = 33 + 5 * i by omega, show 33 + 5 * i + 1 = 34 + 5 * i by omega,
      show 32 + (5 * i + 3) = 35 + 5 * i by omega, show 35 + 5 * i + 1 = 36 + 5 * i by omega]
  · simp [SettleBlock.ofBytes, hlen]
  · have hbody : body[92 + i]? = some body[92 + i] := List.getElem?_eq_getElem (by omega)
    simp [SettleBlock.ofBytes, hat, hi, List.getD_eq_getElem?_getD, hlen, hbody]
  · simp only [SettleBlock.ofBytes]
    rw [readStrobes_length, Nat.min_comm]
  · have hmin : i < min (field body 107 1) 12 := Nat.lt_min.2 ⟨hcount, hi⟩
    simp only [SettleBlock.ofBytes]
    rw [readStrobes_getElem? hmin, List.drop_drop]
    simp only [RawStrobe.ofBytes, field_drop, hone]
    rw [htwo _ (by omega), htwo _ (by omega)]
    simp only [show 108 + 6 * i + 0 + 1 = 109 + 6 * i by omega, show 108 + 6 * i + 2 = 110 + 6 * i by omega,
      show 110 + 6 * i + 1 = 111 + 6 * i by omega, show 108 + 6 * i + 4 = 112 + 6 * i by omega,
      show 108 + 6 * i + 5 = 113 + 6 * i by omega, Nat.add_zero]

theorem RawSlot.defn_eq (x : RawSlot) :
    x.defn = if x.type = 1 then .receive (BitVec.ofNat 12 x.key) (BitVec.ofNat 12 x.mask)
      else if x.type = 2 then .transmit (BitVec.ofNat 12 x.key) else .unused := by
  unfold RawSlot.defn
  split
  · next h => rw [if_pos h]
  · next h => rw [if_neg (by omega), if_pos h]
  · next h1 h2 => rw [if_neg h1, if_neg h2]

/-- Settles O12: the rows one by one, the items by their offsets, the configuration by its definition. -/
theorem settleLegality : Obligations.SettleLegality :=
  ⟨SettleBlock.failing_eq_none, fun _ _ _ hlen hat hb => SettleBlock.ofBytes_items hlen hat hb,
    fun _ => ⟨rfl, List.map_congr_left fun x _ => x.defn_eq, rfl⟩⟩

end Sys2Proof.Machine
end

section
/-! SUPPORT. Mailbox transactions, and the requests STATUS and NOTICES (R190, R193, R195, R196, R201). -/

namespace Sys2Proof.Machine

/-! ## Transactions of the mailbox -/

theorem field_length_bytes (kind hi lo : Byte) (rest : List Byte) :
    field (kind :: hi :: lo :: rest) 1 2 = hi.toNat * 256 + lo.toNat := by
  rw [field_two (by simp)]
  simp [Nat.mul_comm]

/-- The fate of a write that has its kind and length bytes. -/
theorem writeFate_cons (kind hi lo : Byte) (rest : List Byte) :
    writeFate (kind :: hi :: lo :: rest) =
      if rest.length < hi.toNat * 256 + lo.toNat then .bad .badLength
      else if !kindKnown kind.toNat then .bad .unknownKind
      else if !lengthAllowed kind.toNat (hi.toNat * 256 + lo.toNat) then .bad .badLength
      else .whole := by
  simp [writeFate, field_head_byte, field_length_bytes]

theorem kindKnown_eq_false {kind : Byte} (h : kind = 0 ∨ 7 < kind.toNat) : kindKnown kind.toNat = false := by
  obtain rfl | h := h
  · rfl
  · simp [kindKnown, h]

theorem kindKnown_of_listed {kind : Byte} (h : kind = 1 ∨ kind = 4 ∨ kind = 5 ∨ kind = 6 ∨ kind = 7) :
    kindKnown kind.toNat = true := by
  obtain rfl | rfl | rfl | rfl | rfl := h <;> rfl

section write
variable {kind hi lo : Byte} {body more : List Byte} (addr : BitVec 7) (cp : PlaneSet) (pready : Bool)
  (hlen : body.length = hi.toNat * 256 + lo.toNat)
include hlen

/-- The body that the length bytes give. -/
theorem take_drop_header :
    ((kind :: hi :: lo :: (body ++ more)).drop 3).take (field (kind :: hi :: lo :: (body ++ more)) 1 2) = body := by
  rw [field_length_bytes, ← hlen]
  exact List.take_left

theorem writeFate_whole (hkind : kindKnown kind.toNat = true)
    (hallowed : lengthAllowed kind.toNat body.length = true) :
    writeFate (kind :: hi :: lo :: (body ++ more)) = .whole := by
  rw [writeFate_cons, ← hlen, if_neg (by simp), hkind, hallowed]
  rfl

/-- A whole request is the one its kind names. -/
theorem mailboxCommand_whole (hkind : kindKnown kind.toNat = true)
    (hallowed : lengthAllowed kind.toNat body.length = true) :
    mailboxCommand addr (kind :: hi :: lo :: (body ++ more)) cp pready =
      match kind.toNat with
      | 1 => .settle addr body
      | 2 => .adjust addr body
      | 3 => .send addr body
      | 4 => .take addr body
      | 5 => .status addr ⟨body, cp, pready⟩
      | 6 => .notices addr body
      | _ => .softReset addr body := by
  simp only [mailboxCommand, writeFate_whole hlen hkind hallowed, take_drop_header hlen, field_head_byte] <;> rfl

theorem mailboxCommand_unknown (hkind : kind = 0 ∨ 7 < kind.toNat) :
    mailboxCommand addr (kind :: hi :: lo :: (body ++ more)) cp pready =
      .mailboxBadRequest addr (kind :: hi :: lo :: (body ++ more)) := by
  have hfate : writeFate (kind :: hi :: lo :: (body ++ more)) = .bad .unknownKind := by
    rw [writeFate_cons, ← hlen, if_neg (by simp), kindKnown_eq_false hkind]
    rfl
  simp only [mailboxCommand, hfate]

end write

section transaction
variable {s : State} {addr : BitVec 7} (hhigh : s.node.rstLow = false) (haddr : s.node.isAddressed addr = true)
include hhigh haddr

theorem after_badRequest (bytes : List Byte) :
    s.node.after (.mailboxBadRequest addr bytes) = s.node.badRequest bytes := by
  rw [Node.after_mailboxBadRequest, Node.awake_of_high hhigh, if_pos haddr]

theorem after_read (count : Nat) : s.node.after (.mailboxRead addr count) = s.node.mailboxRead count := by
  rw [Node.after_mailboxRead, Node.awake_of_high hhigh, if_pos haddr]

theorem yields_badRequest {bytes : List Byte} {r : ResultCode} (hfate : writeFate bytes = .bad r) :
    Yields (.mailboxBadRequest addr bytes) s (s.node.OnlyAnswered ⟨r, []⟩) := by
  rw [yields_iff_after, after_badRequest hhigh haddr, Node.badRequest, hfate]
  rfl

end transaction

theorem Response.length_bytes (r : Response) : r.bytes.length = 3 + r.body.length := by
  simp [Response.bytes, u16]
  omega

theorem lengthAllowed_eq_false {kind : Byte} {k : Nat}
    (h : kind = 1 ∧ k ≠ 180 ∨ kind = 4 ∧ k ≠ 1 ∨ kind = 5 ∧ k ≠ 2 ∨ kind = 6 ∧ k ≠ 2 ∨ kind = 7 ∧ k ≠ 0) :
    lengthAllowed kind.toNat k = false := by
  obtain ⟨rfl, hk⟩ | ⟨rfl, hk⟩ | ⟨rfl, hk⟩ | ⟨rfl, hk⟩ | ⟨rfl, hk⟩ := h <;> simp [lengthAllowed, hk]

/-- Settles O19: the command of a write by `writeFate`, a bad request's answer, and a read of each mailbox state. -/
theorem mailboxTransactions : Obligations.MailboxTransactions := by
  refine ⟨?_, fun s addr bytes hhigh haddr => ⟨fun hshort => ?_, ?_⟩, fun s addr count hhigh haddr _ =>
    ⟨fun r hr => ?_, fun hidle => ?_⟩⟩
  · rintro addr kind hi lo body more _ cp pready rfl hlen
    refine ⟨?_, ?_, ?_, ?_, ?_, ?_, ?_, mailboxCommand_unknown addr cp pready hlen⟩
    · rintro rfl hbody
      exact mailboxCommand_whole addr cp pready hlen rfl (by rw [hbody]; rfl)
    · rintro rfl
      exact mailboxCommand_whole addr cp pready hlen rfl rfl
    · rintro rfl
      exact mailboxCommand_whole addr cp pready hlen rfl rfl
    · rintro rfl hbody
      exact mailboxCommand_whole addr cp pready hlen rfl (by rw [hbody]; rfl)
    · rintro rfl hbody
      exact mailboxCommand_whole addr cp pready hlen rfl (by rw [hbody]; rfl)
    · rintro rfl hbody
      exact mailboxCommand_whole addr cp pready hlen rfl (by rw [hbody]; rfl)
    · rintro rfl rfl
      exact mailboxCommand_whole addr cp pready hlen rfl rfl
  · rw [yields_iff_after, after_badRequest hhigh haddr, Node.badRequest, writeFate, if_pos hshort]
  · rintro kind hi lo body rfl
    refine ⟨fun hcut => ?_, fun hlen hkind => ?_, fun hlen hkind => ?_⟩
    · exact yields_badRequest hhigh haddr (by rw [writeFate_cons, if_pos hcut])
    · refine yields_badRequest hhigh haddr ?_
      rw [writeFate_cons, if_neg (by omega), kindKnown_eq_false hkind]
      rfl
    · refine yields_badRequest hhigh haddr ?_
      rw [writeFate_cons, if_neg (by omega), kindKnown_of_listed (by tauto), lengthAllowed_eq_false hkind]
      rfl
  · rw [yields_iff_after, after_read hhigh haddr, Node.mailboxRead, hr]
    simp only [Response.read, Response.length_bytes]
    exact ⟨rfl, trivial, trivial⟩
  · rw [yields_iff_after, after_read hhigh haddr, Node.mailboxRead, hidle]

/-! ## STATUS -/

theorem Node.snapshot_setMailbox (m : Mailbox) (k : Nat) (n : Node) : (n.setMailbox m).snapshot k = n.snapshot k := rfl

theorem Node.OnlyCleared.setMailbox {n t : Node} (h : n.OnlyCleared t) (m : Mailbox) :
    (n.setMailbox m).OnlyCleared (t.setMailbox m) :=
  { h with rh := congrArg (fun rh : Rh => { rh with mailbox := m }) h.rh }

theorem Node.clearSection_freeIdx (k : Nat) (n : Node) : (n.clearSection k).freeIdx = n.freeIdx := by
  unfold Node.clearSection
  split
  case h_2 => dsimp only; split <;> rfl
  all_goals rfl

theorem Node.statusResult_of_section {n : Node} {k : Byte} (flag : Byte) (hlow : 1 ≤ k.toNat) (hhigh : k.toNat ≤ 6)
    (h : n.rh.lifecycle ≠ .unsettled ∨ k = 1) : n.statusResult [k, flag] = .done := by
  obtain hlife | rfl := h
  · exact Node.statusResult_done flag hlife hlow hhigh
  · simp [Node.statusResult, field_head_byte]

theorem Node.statusResult_of_range {n : Node} {k : Byte} (flag : Byte) (h : k = 0 ∨ 6 < k.toNat) :
    n.statusResult [k, flag] = .refusedRange := by
  obtain rfl | h := h
  · simp [Node.statusResult, field_head_byte]
  · simp [Node.statusResult, field_head_byte, h]

theorem Node.statusResult_of_unsettled {n : Node} {k : Byte} (flag : Byte) (hlow : 2 ≤ k.toNat) (hhigh : k.toNat ≤ 6)
    (h : n.rh.lifecycle = .unsettled) : n.statusResult [k, flag] = .refusedState := by
  have hpos : k.toNat ≠ 0 := by omega
  have hone : k.toNat ≠ 1 := by omega
  simp [Node.statusResult, field_head_byte, hpos, hone, h, hhigh]

theorem Node.statusClear_of_flag_clear (k : Byte) (n : Node) : n.statusClear [k, 0] = n := rfl

theorem Node.statusClear_lowWater (k flag : Byte) (n : Node) :
    (n.statusClear [k, flag]).ss.lowWater = if k = 3 ∧ flag ≠ 0 then n.ss.freeCount else n.ss.lowWater := by
  have hsec : field [k, flag] 0 1 = 3 ↔ k = 3 := by
    rw [field_head_byte, ← BitVec.toNat_inj]
    rfl
  have hflag : field [k, flag] 1 1 = 0 ↔ flag = 0 := by
    rw [field_second_byte, ← BitVec.toNat_inj]
    rfl
  simp only [Node.statusClear, hflag]
  by_cases h : flag = 0
  · rw [if_pos h, if_neg fun hboth => hboth.2 h]
  · rw [if_neg h, Node.clearSection_lowWater]
    simp only [hsec, ne_eq, h, not_false_eq_true, and_true]

theorem Node.statusClear_freeIdx (body : List Byte) (n : Node) : (n.statusClear body).freeIdx = n.freeIdx := by
  unfold Node.statusClear
  split
  · rfl
  · exact Node.clearSection_freeIdx _ _

/-- Settles O16: the request's result by section and lifecycle, and what its clearing leaves. -/
theorem statusAnswers : Obligations.StatusAnswers := by
  intro s addr k flag cp pready hears
  have hafter := Node.after_status addr ⟨[k, flag], cp, pready⟩ s.node
  refine ⟨fun hlow hhigh hlife => ?_, fun hrange => ?_, fun hlow hhigh hlife => ?_⟩
  · have hresult := Node.statusResult_of_section (n := s.node.setMailbox .taking) flag hlow hhigh hlife
    have hstatus : (s.node.setMailbox .taking).status [k, flag] cp pready =
        (((s.node.seePins cp pready).setMailbox .taking).statusClear [k, flag],
          ⟨.done, (s.node.seePins cp pready).snapshot k.toNat⟩) := by
      rw [Node.status, if_pos hresult, field_head_byte]
      rfl
    rw [yields_request hafter hears hstatus]
    have hclear := Node.statusClear_onlyCleared [k, flag] ((s.node.seePins cp pready).setMailbox .taking)
    refine ⟨rfl, ?_, hclear.setMailbox _, Node.statusClear_lowWater k flag _, Node.statusClear_freeIdx _ _, ?_, ?_, ?_⟩
    · rintro rfl
      rfl
    · intro p
      exact (congrArg (fun pins : Pins => pins.cp.get p) hclear.pins).trans (Four.get_build _ p)
    · exact congrArg Pins.pready hclear.pins
    · exact (congrArg Pins.svc hclear.pins :)
  · refine yields_onlyAnswered hafter hears ?_
    rw [Node.status, Node.statusResult_of_range flag hrange]
    rfl
  · refine yields_onlyAnswered hafter hears ?_
    rw [Node.status, Node.statusResult_of_unsettled (n := s.node.setMailbox .taking) flag hlow hhigh hlife]
    rfl

/-! ## The notice line and NOTICES -/

theorem mem_sourceNumbers {k : Nat} : k ∈ sourceNumbers ↔ 1 ≤ k ∧ k ≤ 14 := by
  simp only [sourceNumbers, List.mem_cons, List.not_mem_nil, or_false]
  omega

theorem Rh.noteLow_iff (rh : Rh) :
    rh.noteLow = true ↔ rh.isPending 15 = true
      ∨ ∃ k, 1 ≤ k ∧ k ≤ 14 ∧ rh.isPending k = true ∧ rh.runtime.threshold < rh.level k := by
  simp [Rh.noteLow, mem_sourceNumbers, and_assoc]

/-- Of sources taken in rising order, the one that `higher` keeps: of the highest level, the lowest-numbered of
equals. -/
theorem Rh.foldl_higher (rh : Rh) {b : Nat} {l : List Nat} (hsorted : (b :: l).Pairwise (· < ·)) :
    ∃ k ∈ b :: l, l.foldl rh.higher (some b) = some k
      ∧ ∀ j ∈ b :: l, rh.level j < rh.level k ∨ rh.level j = rh.level k ∧ k ≤ j := by
  induction l generalizing b with
  | nil => exact ⟨b, by simp, rfl, by simp⟩
  | cons x rest ih =>
    obtain ⟨hb, hx, hrest⟩ := by simpa only [List.pairwise_cons] using hsorted
    have hbx : b < x := hb x (by simp)
    by_cases hlevel : rh.level b < rh.level x
    · obtain ⟨k, hk, hfold, hbest⟩ := ih (b := x) (List.pairwise_cons.2 ⟨hx, hrest⟩)
      refine ⟨k, List.mem_cons_of_mem _ hk, by simpa [Rh.higher, hlevel] using hfold, fun j hj => ?_⟩
      obtain rfl | hj := List.mem_cons.1 hj
      · have hxk := hbest x (by simp)
        omega
      · exact hbest j hj
    · obtain ⟨k, hk, hfold, hbest⟩ := ih (b := b)
        (List.pairwise_cons.2 ⟨fun j hj => hb j (List.mem_cons_of_mem _ hj), hrest⟩)
      refine ⟨k, ?_, by simpa [Rh.higher, hlevel] using hfold, fun j hj => ?_⟩
      · obtain rfl | hk := List.mem_cons.1 hk
        · simp
        · simp [hk]
      · have hbk := hbest b (by simp)
        obtain rfl | rfl | hj := by simpa only [List.mem_cons] using hj
        · exact hbk
        · omega
        · exact hbest j (List.mem_cons_of_mem _ hj)

theorem Rh.topSource_of_none {rh : Rh} (h : ∀ k ∈ sourceNumbers, rh.isPending k = false) : rh.topSource = none := by
  have hnone : sourceNumbers.filter rh.isPending = [] := List.filter_eq_nil_iff.2 (by simpa using h)
  simp [Rh.topSource, hnone]

theorem Rh.topSource_of_pending {rh : Rh} (h : ∃ k ∈ sourceNumbers, rh.isPending k = true) :
    ∃ k ∈ sourceNumbers, rh.topSource = some k ∧ rh.isPending k = true
      ∧ ∀ j ∈ sourceNumbers, rh.isPending j = true →
          rh.level j < rh.level k ∨ (rh.level j = rh.level k ∧ k ≤ j) := by
  have hmem (k : Nat) : k ∈ sourceNumbers.filter rh.isPending ↔ k ∈ sourceNumbers ∧ rh.isPending k = true :=
    List.mem_filter
  have hsorted : (sourceNumbers.filter rh.isPending).Pairwise (· < ·) :=
    List.Pairwise.filter _ (by decide : sourceNumbers.Pairwise (· < ·))
  rcases hl : sourceNumbers.filter rh.isPending with _ | ⟨b, l⟩
  · obtain ⟨k, hk⟩ := h
    have hk := (hmem k).2 hk
    rw [hl] at hk
    cases hk
  · rw [hl] at hmem hsorted
    obtain ⟨k, hk, hfold, hbest⟩ := rh.foldl_higher hsorted
    obtain ⟨hsource, hpending⟩ := (hmem k).1 hk
    refine ⟨k, hsource, ?_, hpending, fun j hj hjp => hbest j ((hmem j).2 ⟨hj, hjp⟩)⟩
    rw [Rh.topSource, hl]
    exact hfold

/-- The two bytes of an acknowledge set as one set. -/
theorem ofNat_field_two (hi lo : Byte) : BitVec.ofNat 16 (field [hi, lo] 0 2) = hi ++ lo := by
  apply BitVec.eq_of_toNat_eq
  rw [field_two (by simp), BitVec.toNat_ofNat, BitVec.toNat_append, ← Nat.shiftLeft_add_eq_or_of_lt lo.isLt,
    Nat.shiftLeft_eq]
  have hhi := hi.isLt
  have hlo := lo.isLt
  simp only [List.getD_cons_zero, List.getD_cons_succ]
  omega

/-- The two bytes a NOTICES answer gives of the top source. -/
theorem Node.topNotice_spec (n : Node) : ∃ top level : Byte, n.topNotice.1 = [top, level]
    ∧ (n.rh.isPending 15 = true → top = 15)
    ∧ (n.rh.isPending 15 = false → (∀ k ∈ sourceNumbers, n.rh.isPending k = false) → top = 0)
    ∧ (n.rh.isPending 15 = false → (∃ k ∈ sourceNumbers, n.rh.isPending k = true) →
        ∃ k ∈ sourceNumbers, top = BitVec.ofNat 8 k ∧ level = BitVec.ofNat 8 (n.rh.level k)
          ∧ n.rh.isPending k = true
          ∧ ∀ j ∈ sourceNumbers, n.rh.isPending j = true →
              n.rh.level j < n.rh.level k ∨ (n.rh.level j = n.rh.level k ∧ k ≤ j)) := by
  by_cases h15 : n.rh.isPending 15 = true
  · exact ⟨15, Config.freeByte n.freeIdx, by simp [Node.topNotice, h15, u8], fun _ => rfl, by simp [h15],
      by simp [h15]⟩
  · by_cases hany : ∃ k ∈ sourceNumbers, n.rh.isPending k = true
    · obtain ⟨k, hk, htop, hpending, hbest⟩ := Rh.topSource_of_pending hany
      refine ⟨BitVec.ofNat 8 k, BitVec.ofNat 8 (n.rh.level k), by simp [Node.topNotice, h15, htop, u8],
        fun h => absurd h h15, fun _ hnone => ?_, fun _ _ => ⟨k, hk, rfl, rfl, hpending, hbest⟩⟩
      cases (hnone k hk).symm.trans hpending
    · have hnone : ∀ k ∈ sourceNumbers, n.rh.isPending k = false := by simpa using hany
      exact ⟨0, Config.freeByte n.freeIdx, by simp [Node.topNotice, h15, Rh.topSource_of_none hnone, u8],
        fun h => absurd h h15, fun _ _ => rfl, fun _ h => absurd h hany⟩

/-- Settles O18: the notice line by its definition, the snapshot by `topNotice_spec`. -/
theorem notices : Obligations.Notices := by
  refine ⟨Rh.noteLow_iff, fun s addr hi lo hears => ?_⟩
  have hrequest : (s.node.setMailbox .taking).noticesRequest [hi, lo] =
      ({ s.node.setMailbox .taking with
          rh := (s.node.setMailbox .taking).rh.acknowledge (hi ++ lo)
          freeIdx := s.node.freeIdx + s.node.topNotice.2 },
        ⟨.done, u16 s.node.rh.notices.toNat ++ s.node.topNotice.1 ++ u8 s.node.rh.runtime.threshold⟩) := by
    rw [Node.noticesRequest, if_neg (by simp), ofNat_field_two]
    rfl
  rw [yields_request (Node.after_notices addr [hi, lo] _) hears hrequest]
  obtain ⟨top, level, hbytes, hspec⟩ := s.node.topNotice_spec
  refine ⟨rfl, rfl, top, level, ?_, hspec⟩
  rw [hbytes]
  rfl

end Sys2Proof.Machine
end

section
/-! SUPPORT. ADJUST: its items read, taken and refused (R191, R192, R203). -/

namespace Sys2Proof.Machine

/-! ## What ADJUST may change -/

/-- From `n` to `t` nothing changed but what an ADJUST may set. -/
structure AdjustFrame (n t : Node) : Prop where
  frame : t = { n with
    sg := { n.sg with holder := t.sg.holder }, si := t.si, mh := t.mh
    rh := { n.rh with pending := t.rh.pending } }

theorem AdjustFrame.refl (n : Node) : AdjustFrame n n := ⟨rfl⟩

theorem AdjustFrame.trans {a b c : Node} (h1 : AdjustFrame a b) (h2 : AdjustFrame b c) : AdjustFrame a c :=
  ⟨by rw [h2.frame, h1.frame]⟩

/-- From `n` to `t` nothing changed but what a listen-only value does as it takes effect. -/
structure IdleFrame (n t : Node) : Prop where
  frame : t = { n with
    si := { n.si with listenOnly := t.si.listenOnly }, mh := t.mh
    rh := { n.rh with pending := { n.rh.pending with listenOnly := t.rh.pending.listenOnly } } }

theorem IdleFrame.adjust {n t : Node} (h : IdleFrame n t) : AdjustFrame n t := ⟨by rw [h.frame]⟩

theorem Node.withdrawAnnounce_mh (n : Node) : n.withdrawAnnounce = { n with mh := n.withdrawAnnounce.mh } := by
  unfold Node.withdrawAnnounce
  split <;> rfl

theorem Node.emptyProbe_mh (n : Node) : n.emptyProbe = { n with mh := n.emptyProbe.mh } := by
  unfold Node.emptyProbe
  split <;> rfl

theorem Node.emptyPlaces_eq (n : Node) :
    n.withdrawAnnounce.emptyProbe = { n with mh := n.withdrawAnnounce.emptyProbe.mh } :=
  n.withdrawAnnounce.emptyProbe_mh.trans
    (congrArg (fun m : Node => { m with mh := n.withdrawAnnounce.emptyProbe.mh }) n.withdrawAnnounce_mh)

theorem Node.setListenOnly_eq (v : Bool) (n : Node) :
    n.setListenOnly v = { n with
      si := { n.si with listenOnly := v || n.rh.straps.node == 15 }, mh := (n.setListenOnly v).mh
      rh := { n.rh with pending := { n.rh.pending with listenOnly := none } } } := by
  simp only [Node.setListenOnly]
  split
  · exact Node.emptyPlaces_eq _
  · rfl

theorem Node.atIdlePoint_frame (n : Node) : IdleFrame n n.atIdlePoint := by
  unfold Node.atIdlePoint
  split
  · unfold Node.takeListenOnly
    split
    · exact ⟨rfl⟩
    · next v _ => exact ⟨by rw [Node.setListenOnly_eq]⟩
  · exact ⟨rfl⟩

theorem Node.takeItem_frame (c : Settled) (i : AdjustItem) (n : Node) : AdjustFrame n (n.takeItem c i) := by
  cases i <;> exact ⟨rfl⟩

theorem Node.takeItems_frame (c : Settled) (l : List AdjustItem) (n : Node) : AdjustFrame n (n.takeItems c l) := by
  have hfold (l : List AdjustItem) : ∀ n : Node, AdjustFrame n (l.foldl (fun n i => n.takeItem c i) n) := by
    induction l with
    | nil => exact fun n => AdjustFrame.refl n
    | cons i rest ih => exact fun n => (n.takeItem_frame c i).trans (ih _)
  exact (hfold l n).trans (Node.atIdlePoint_frame _).adjust

theorem Node.adjust_frame (body : List Byte) (n : Node) : AdjustFrame n (n.adjust body).1 := by
  unfold Node.adjust
  split
  · exact AdjustFrame.refl n
  · split
    · exact AdjustFrame.refl n
    · unfold Node.adjustItems
      split
      · exact n.takeItems_frame _ _
      · exact AdjustFrame.refl n

/-! ## The answer -/

theorem distinctItems_iff (l : List AdjustItem) : distinctItems l = true ↔ (l.map AdjustItem.code).Nodup := by
  induction l with
  | nil => simp [distinctItems]
  | cons i rest ih => simp [distinctItems, ih]

section answer
variable {n : Node} {c : Settled} {body : List Byte} (hc : n.rh.settled = some c)
include hc

theorem Node.adjust_of_error {r : ResultCode} (h : readItems (body.length + 1) body = .error r) :
    n.adjust body = n.refuse r := by
  simp [Node.adjust, hc, h]

variable {l : List AdjustItem} (hread : readItems (body.length + 1) body = .ok l)
include hread

theorem Node.adjust_of_illegal (h : ¬(l.map AdjustItem.code).Nodup ∨ ∃ i ∈ l, i.legal c = false) :
    n.adjust body = n.refuse .refusedRange := by
  have hbad : ¬((l.all (AdjustItem.legal c) && distinctItems l) = true) := by
    rw [Bool.and_eq_true, distinctItems_iff, List.all_eq_true]
    rintro ⟨hall, hdistinct⟩
    obtain h | ⟨i, hi, hlegal⟩ := h
    · exact h hdistinct
    · cases hlegal.symm.trans (hall i hi)
  simp only [Node.adjust, hc, hread, Node.adjustItems, if_neg hbad]

theorem Node.adjust_of_legal (hdistinct : (l.map AdjustItem.code).Nodup) (hlegal : ∀ i ∈ l, i.legal c = true) :
    n.adjust body = (n.takeItems c l, ⟨.done, clampedCodes c l⟩) := by
  have hgood : (l.all (AdjustItem.legal c) && distinctItems l) = true := by
    rw [Bool.and_eq_true, distinctItems_iff, List.all_eq_true]
    exact ⟨hlegal, hdistinct⟩
  simp only [Node.adjust, hc, hread, Node.adjustItems, if_pos hgood]

end answer

theorem Node.adjust_of_unsettled {n : Node} (h : n.rh.settled = none) (body : List Byte) :
    n.adjust body = n.refuse .refusedState := by
  simp [Node.adjust, h]

theorem Node.adjust_of_single {n : Node} {c : Settled} {body : List Byte} {i : AdjustItem}
    (hc : n.rh.settled = some c) (hread : readItems (body.length + 1) body = .ok [i]) (hlegal : i.legal c = true) :
    n.adjust body = ((n.takeItem c i).atIdlePoint, ⟨.done, clampedCodes c [i]⟩) :=
  Node.adjust_of_legal hc hread (List.nodup_singleton _) (by simpa using hlegal)

theorem clampedCodes_single (c : Settled) (i : AdjustItem) :
    clampedCodes c [i] = if i.clamped c then u8 i.code else [] := by
  cases h : i.clamped c <;> simp [clampedCodes, h]

/-! ## Bodies of one item -/

theorem field_u16_append {v : Nat} (h : v < 65536) (rest : List Byte) : field (u16 v ++ rest) 0 2 = v := by
  rw [field_two (by simp [u16])]
  simp only [u16, List.cons_append, List.nil_append, List.getD_cons_zero, List.getD_cons_succ, BitVec.toNat_ofNat]
  omega

/-- A body that is one item's code and value is read as that item. -/
theorem readItems_single {code : Byte} {value : List Byte} {len : Nat} (hlen : itemLength code.toNat value = some len)
    (hvalue : value.length = len) :
    readItems ((code :: value).length + 1) (code :: value) = .ok [itemOf code.toNat value] := by
  subst hvalue
  rw [List.length_cons, readItems, hlen]
  simp only [Nat.lt_irrefl, if_false, List.drop_length, List.take_length, readItems]

theorem StrobeEntry.length_bytes (e : StrobeEntry) : e.bytes.length = 6 := by
  rcases h : e.line with _ | k <;> simp [StrobeEntry.bytes, h, u16, u8]

theorem flatMap_bytes_length (l : List StrobeEntry) : (l.flatMap StrobeEntry.bytes).length = 6 * l.length := by
  induction l with
  | nil => rfl
  | cons e rest ih =>
    rw [List.flatMap_cons, List.length_append, e.length_bytes, ih, List.length_cons]
    omega

/-- The numbers of a schedule entry. -/
def StrobeEntry.raw (e : StrobeEntry) : RawStrobe :=
  ⟨e.line.getD 0xFFFF, e.tick, e.setMask.toNat, e.clearMask.toNat⟩

/-- An entry that a schedule of a raster of at most 65,535 lines can have. -/
def StrobeEntry.Writable (e : StrobeEntry) : Prop := e.tick < 65536 ∧ ∀ k, e.line = some k → k < 65535

theorem StrobeEntry.ofBytes_bytes {e : StrobeEntry} (h : e.Writable) (rest : List Byte) :
    RawStrobe.ofBytes (e.bytes ++ rest) = e.raw := by
  have hline : e.line.getD 0xFFFF < 65536 := by
    rcases hl : e.line with _ | k
    · decide
    · exact (h.2 k hl).trans (by decide)
  have hbytes : e.bytes = u16 (e.line.getD 0xFFFF) ++ (u16 e.tick ++ (u8 e.setMask.toNat ++ u8 e.clearMask.toNat)) := by
    rcases hl : e.line with _ | k <;> simp [StrobeEntry.bytes, hl]
  have hset := e.setMask.isLt
  have hclear := e.clearMask.isLt
  rw [hbytes, RawStrobe.ofBytes, StrobeEntry.raw]
  congr 1
  · rw [List.append_assoc]
    exact field_u16_append hline _
  · rw [List.append_assoc]
    have hdrop := field_drop (u16 (e.line.getD 0xFFFF) ++
      ((u16 e.tick ++ (u8 e.setMask.toNat ++ u8 e.clearMask.toNat)) ++ rest)) 2 0 2
    rw [← hdrop]
    have htwo : (u16 (e.line.getD 0xFFFF) ++ ((u16 e.tick ++ (u8 e.setMask.toNat ++ u8 e.clearMask.toNat)) ++ rest)).drop 2
        = u16 e.tick ++ ((u8 e.setMask.toNat ++ u8 e.clearMask.toNat) ++ rest) := rfl
    rw [htwo]
    exact field_u16_append h.1 _
  · rw [field_byte]
    simp [u16, u8, Nat.mod_eq_of_lt (hset.trans (by decide : 2 ^ 6 < 256))]
  · rw [field_byte]
    simp [u16, u8, Nat.mod_eq_of_lt (hclear.trans (by decide : 2 ^ 6 < 256))]

theorem readStrobes_flatMap {l : List StrobeEntry} (h : ∀ e ∈ l, e.Writable) :
    readStrobes l.length (l.flatMap StrobeEntry.bytes) = l.map StrobeEntry.raw := by
  induction l with
  | nil => rfl
  | cons e rest ih =>
    rw [List.forall_mem_cons] at h
    obtain ⟨he, hrest⟩ := h
    rw [List.length_cons, readStrobes, List.flatMap_cons, StrobeEntry.ofBytes_bytes he, List.map_cons]
    rw [List.drop_append_of_le_length (by rw [e.length_bytes]), List.drop_of_length_le (by rw [e.length_bytes]),
      List.nil_append, ih hrest]

theorem StrobeEntry.entry_raw {e : StrobeEntry} (h : e.Writable) : e.raw.entry = e := by
  have hset : BitVec.ofNat 6 e.setMask.toNat = e.setMask := by simp
  have hclear : BitVec.ofNat 6 e.clearMask.toNat = e.clearMask := by simp
  rcases hl : e.line with _ | k
  · simp only [StrobeEntry.raw, RawStrobe.entry, hset, hclear, hl, Option.getD_none, if_true]
    rw [← hl]
  · have hk := h.2 k hl
    simp only [StrobeEntry.raw, RawStrobe.entry, hset, hclear, hl, Option.getD_some]
    rw [if_neg (by omega), ← hl]

theorem StrobeEntry.legal_raw {e : StrobeEntry} {lTot : Nat} (h : ∀ k, e.line = some k → k < lTot) :
    e.raw.legal lTot = true := by
  have hset := e.setMask.isLt
  have hclear := e.clearMask.isLt
  rcases hl : e.line with _ | k
  · simpa [StrobeEntry.raw, RawStrobe.legal, hl] using ⟨hset, hclear⟩
  · simpa [StrobeEntry.raw, RawStrobe.legal, hl, h k hl] using ⟨hset, hclear⟩

/-- The bytes of a schedule are read as its entries. -/
theorem readItems_schedule {l : List StrobeEntry} (hlen : l.length ≤ 12) (h : ∀ e ∈ l, e.Writable) {body : List Byte}
    (hbody : body = 8 :: (u8 l.length ++ l.flatMap StrobeEntry.bytes)) :
    readItems (body.length + 1) body = .ok [.schedule l.length (l.map StrobeEntry.raw)] := by
  have hcount : field (u8 l.length ++ l.flatMap StrobeEntry.bytes) 0 1 = l.length := by
    rw [field_byte]
    simp [u8, Nat.mod_eq_of_lt (show l.length < 256 by omega)]
  rw [hbody, readItems_single (code := 8) (value := u8 l.length ++ l.flatMap StrobeEntry.bytes)
    (congrArg (fun k => some (1 + 6 * k)) hcount) (by rw [List.length_append, flatMap_bytes_length]; rfl)]
  simp only [itemOf, show (8 : Byte).toNat = 8 from rfl, hcount]
  rw [← readStrobes_flatMap h]
  rfl

/-- A legal timecode's hours leave the pair flag's bit clear. -/
theorem Timecode.hours_lt_of_legal {t : Timecode} {r d : Nat} (h : t.legal r d = true) : t.hours.toNat < 128 := by
  simp only [Timecode.legal, isBcd, Bool.and_eq_true, decide_eq_true_eq] at h
  obtain ⟨⟨⟨⟨⟨⟨⟨⟨⟨htens, -⟩, -⟩, -⟩, -⟩, -⟩, -⟩, hhours⟩, -⟩, -⟩ := h
  simp only [bcdVal, tens, units] at htens hhours
  omega

theorem hours_byte_split : ∀ h : Byte, h.toNat < 128 →
    h &&& 0x7F = h ∧ h.getLsbD 7 = false ∧ (h ||| 0x80) &&& 0x7F = h ∧ (h ||| 0x80).getLsbD 7 = true := by
  decide

theorem Timecode.ofBytes_bytes {t : Timecode} (h : t.hours.toNat < 128) : Timecode.ofBytes t.bytes = t := by
  obtain ⟨hmask, hclear, hmaskp, hset⟩ := hours_byte_split t.hours h
  obtain ⟨hours, minutes, seconds, frames, pair⟩ := t
  cases pair with
  | false => simp_all [Timecode.ofBytes, Timecode.bytes]
  | true => simp_all [Timecode.ofBytes, Timecode.bytes]

end Sys2Proof.Machine
end

section
/-! SUPPORT. ADJUST: what each item leaves pending, and its answers (R167, R191, R192). -/

namespace Sys2Proof.Machine

/-! ## An idle point after an item -/

theorem Node.atIdlePoint_pending (n : Node) :
    n.atIdlePoint.rh.pending = { n.rh.pending with listenOnly := n.atIdlePoint.rh.pending.listenOnly } := by
  rw [n.atIdlePoint_frame.frame]

theorem Node.atIdlePoint_sg (n : Node) : n.atIdlePoint.sg = n.sg := by
  rw [n.atIdlePoint_frame.frame]

theorem Node.atIdlePoint_of_busy {n : Node} (h : n.isIdle = false) : n.atIdlePoint = n := by
  simp [Node.atIdlePoint, h]

theorem Node.atIdlePoint_of_idle {n : Node} {v : Bool} (h : n.isIdle = true)
    (hv : n.rh.pending.listenOnly = some v) : n.atIdlePoint = n.setListenOnly v := by
  simp [Node.atIdlePoint, Node.takeListenOnly, h, hv]

/-! ## The items by their bytes -/

theorem byte_toNat_beq_one (v : Byte) : (v.toNat == 1) = (v == 1) := by
  rw [Bool.eq_iff_iff, beq_iff_eq, beq_iff_eq, ← BitVec.toNat_inj]
  rfl

theorem concealMode_byte (v : Byte) : concealMode v.toNat = if v = 0 then .repeatLast else .fill := by
  have hzero : v.toNat = 0 ↔ v = 0 := by rw [← BitVec.toNat_inj]; rfl
  simp only [concealMode, hzero]

theorem byte_ofNat_four (v : Byte) : BitVec.ofNat 4 v.toNat = v.setWidth 4 := by
  apply BitVec.eq_of_toNat_eq
  simp

section items
variable {body : List Byte}

theorem readItems_mask {v : Byte} (h : body = [1, v]) :
    readItems (body.length + 1) body = .ok [.mask v.toNat] := by
  rw [h, readItems_single (code := 1) (value := [v]) rfl rfl, ← field_head_byte v []]
  rfl

theorem readItems_w {v : Nat} (hv : v < 65536) (h : body = 2 :: u16 v) :
    readItems (body.length + 1) body = .ok [.w v] := by
  have hfield := field_u16_append hv []
  rw [List.append_nil] at hfield
  rw [h, readItems_single (code := 2) (value := u16 v) rfl rfl]
  exact congrArg (fun k => Except.ok [AdjustItem.w k]) hfield

theorem readItems_mode {v : Byte} (h : body = [3, v]) :
    readItems (body.length + 1) body = .ok [.mode v.toNat] := by
  rw [h, readItems_single (code := 3) (value := [v]) rfl rfl, ← field_head_byte v []]
  rfl

theorem readItems_threshold {v : Byte} (h : body = [4, v]) :
    readItems (body.length + 1) body = .ok [.threshold v.toNat] := by
  rw [h, readItems_single (code := 4) (value := [v]) rfl rfl, ← field_head_byte v []]
  rfl

theorem readItems_lead {v : Nat} (hv : v < 65536) (h : body = 5 :: u16 v) :
    readItems (body.length + 1) body = .ok [.lead v] := by
  have hfield := field_u16_append hv []
  rw [List.append_nil] at hfield
  rw [h, readItems_single (code := 5) (value := u16 v) rfl rfl]
  exact congrArg (fun k => Except.ok [AdjustItem.lead k]) hfield

theorem readItems_listenOnly {v : Byte} (h : body = [6, v]) :
    readItems (body.length + 1) body = .ok [.listenOnly v.toNat] := by
  rw [h, readItems_single (code := 6) (value := [v]) rfl rfl, ← field_head_byte v []]
  rfl

theorem readItems_preset {t : Timecode} (ht : t.hours.toNat < 128) (h : body = 7 :: t.bytes) :
    readItems (body.length + 1) body = .ok [.preset t] := by
  rw [h, readItems_single (code := 7) (value := t.bytes) rfl rfl]
  exact congrArg (fun t => Except.ok [AdjustItem.preset t]) (Timecode.ofBytes_bytes ht)

end items

/-! ## A body of one item -/

section single
variable {s : State} {c : Settled} {addr : BitVec 7} {body : List Byte} (hc : s.node.rh.settled = some c)
  (hears : s.node.Hears addr body) {i : AdjustItem} (hread : readItems (body.length + 1) body = .ok [i])
  (hlegal : i.legal c = true)
include hc hears hread hlegal

/-- What a body of one legal item leaves, but for a listen-only value that takes effect. -/
theorem yields_adjust_single {P : Node → Prop} :
    Yields (.adjust addr body) s P ↔
      P (((s.node.setMailbox .taking).takeItem c i).atIdlePoint.setMailbox
        (.held ⟨.done, if i.clamped c then u8 i.code else []⟩)) := by
  rw [yields_request (Node.after_adjust addr body _) hears
    (Node.adjust_of_single (n := s.node.setMailbox .taking) hc hread hlegal), clampedCodes_single]

/-- The item's own part of the pending set is as the item's taking leaves it. -/
theorem yields_pending {α : Type} (f : PendingSet → α)
    (hf : ∀ (p : PendingSet) (x : Option Bool), f { p with listenOnly := x } = f p)
    {a : α} (ha : f ((s.node.setMailbox .taking).takeItem c i).rh.pending = a) {codes : List Byte}
    (hcodes : (if i.clamped c then u8 i.code else []) = codes) :
    Yields (.adjust addr body) s fun t => t.rh.mailbox = .held ⟨.done, codes⟩ ∧ f t.rh.pending = a := by
  rw [yields_adjust_single hc hears hread hlegal, hcodes]
  refine ⟨rfl, ?_⟩
  show f ((s.node.setMailbox .taking).takeItem c i).atIdlePoint.rh.pending = a
  rw [Node.atIdlePoint_pending, hf, ha]

end single

/-- What an ADJUST leaves of the node, whatever its body. -/
theorem yields_adjustFrame {s : State} {addr : BitVec 7} {body : List Byte} (hears : s.node.Hears addr body) :
    Yields (.adjust addr body) s fun t =>
      t = { s.node with
        sg := { s.node.sg with holder := t.sg.holder }, si := t.si, mh := t.mh
        rh := { s.node.rh with pending := t.rh.pending, mailbox := t.rh.mailbox } } := by
  rw [yields_request (Node.after_adjust addr body _) hears rfl]
  exact congrArg (Node.setMailbox _) ((s.node.setMailbox .taking).adjust_frame body).frame

/-- A listen-only value takes effect at once on an idle carrier. -/
theorem yields_listenOnly {s : State} {c : Settled} {addr : BitVec 7} {body : List Byte} {v : Byte}
    (hc : s.node.rh.settled = some c) (hears : s.node.Hears addr body) (hv : v.toNat ≤ 1) (hbody : body = [6, v]) :
    Yields (.adjust addr body) s fun t =>
      t.rh.mailbox = .held ⟨.done, []⟩
      ∧ (s.node.isIdle = false → t.rh.pending.listenOnly = some (v == 1) ∧ t.si.listenOnly = s.node.si.listenOnly)
      ∧ (s.node.isIdle = true → t.rh.pending.listenOnly = none
          ∧ t.si.listenOnly = (v == 1 || s.node.rh.straps.node == 15)) := by
  rw [yields_adjust_single hc hears (readItems_listenOnly hbody) (decide_eq_true hv)]
  refine ⟨rfl, fun hbusy => ?_, fun hidle => ?_⟩
  · rw [Node.atIdlePoint_of_busy (n := (s.node.setMailbox .taking).takeItem c (.listenOnly v.toNat)) hbusy,
      ← byte_toNat_beq_one]
    exact ⟨rfl, rfl⟩
  · rw [Node.atIdlePoint_of_idle (n := (s.node.setMailbox .taking).takeItem c (.listenOnly v.toNat)) hidle rfl,
      Node.setListenOnly_eq, byte_toNat_beq_one]
    exact ⟨rfl, rfl⟩

/-- A schedule waits in SG's holder. -/
theorem yields_schedule {s : State} {c : Settled} {addr : BitVec 7} {body : List Byte} {l : List StrobeEntry}
    (hc : s.node.rh.settled = some c) (hears : s.node.Hears addr body) (hlen : l.length ≤ 12)
    (hl : ∀ e ∈ l, e.tick < 65536 ∧ ∀ k, e.line = some k → k < c.lTot) (hlTot : c.lTot ≤ 4095)
    (hbody : body = 8 :: (u8 l.length ++ l.flatMap StrobeEntry.bytes)) :
    Yields (.adjust addr body) s fun t =>
      t.rh.mailbox = .held ⟨.done, []⟩ ∧ t.sg.holder = some l ∧ t.sg.active = s.node.sg.active := by
  have hwritable : ∀ e ∈ l, e.Writable := fun e he =>
    ⟨(hl e he).1, fun k hk => ((hl e he).2 k hk).trans (by omega)⟩
  have hlegal : (AdjustItem.schedule l.length (l.map StrobeEntry.raw)).legal c = true := by
    simp only [AdjustItem.legal, scheduleLegal, List.length_map, List.all_map, Bool.and_eq_true, decide_eq_true_eq,
      List.all_eq_true]
    exact ⟨hlen, fun e he => StrobeEntry.legal_raw (hl e he).2⟩
  have hentries : (l.map StrobeEntry.raw).map RawStrobe.entry = l := by
    have hsame : l.map (RawStrobe.entry ∘ StrobeEntry.raw) = l.map id :=
      List.map_congr_left fun e he => StrobeEntry.entry_raw (hwritable e he)
    rw [List.map_map, hsame, List.map_id]
  rw [yields_adjust_single hc hears (readItems_schedule hlen hwritable hbody) hlegal]
  have hsg := Node.atIdlePoint_sg
    ((s.node.setMailbox .taking).takeItem c (.schedule l.length (l.map StrobeEntry.raw)))
  refine ⟨rfl, ?_, (congrArg Sg.active hsg :)⟩
  exact (congrArg Sg.holder hsg).trans (congrArg some hentries)

/-- Settles O13: a body of one item by its bytes, any body by the tests in their order. -/
theorem adjust : Obligations.Adjust := by
  refine ⟨fun s c addr body hworks hears => ?_, fun s addr body hears => ⟨fun hc => ?_, fun c hc => ⟨fun r hr => ?_,
    fun l hread => ⟨fun hbad => ?_, fun hdistinct hlegal => ?_⟩⟩⟩⟩
  · have hc := hworks.2
    refine ⟨fun v hbody => ?_, fun v hv hbody => ?_, fun v hv hbody => ?_, fun v hbody => ?_, fun v hv hbody => ?_,
      fun v hv hbody => yields_listenOnly hc hears hv hbody, fun tc htc hbody => ?_,
      fun l hlen hl hlTot hbody => yields_schedule hc hears hlen hl hlTot hbody, yields_adjustFrame hears⟩
    · exact yields_pending hc hears (readItems_mask hbody) rfl PendingSet.mask (fun _ _ => rfl)
        (congrArg some (byte_ofNat_four v)) rfl
    · refine yields_pending hc hears (readItems_w hv hbody) rfl PendingSet.w (fun _ _ => rfl) (congrArg some ?_) ?_
      · split <;> omega
      · simp [AdjustItem.clamped, AdjustItem.code, u8]
    · exact yields_pending hc hears (readItems_mode hbody) (decide_eq_true hv) PendingSet.mode (fun _ _ => rfl)
        (congrArg some (concealMode_byte v)) rfl
    · refine yields_pending hc hears (readItems_threshold hbody) rfl PendingSet.threshold (fun _ _ => rfl)
        (congrArg some ?_) ?_
      · split <;> omega
      · simp [AdjustItem.clamped, AdjustItem.code, u8]
    · refine yields_pending hc hears (readItems_lead hv hbody) rfl PendingSet.lead (fun _ _ => rfl) (congrArg some ?_) ?_
      · split <;> omega
      · simp [AdjustItem.clamped, AdjustItem.code, u8]
    · exact yields_pending hc hears (readItems_preset (Timecode.hours_lt_of_legal htc) hbody) htc PendingSet.preset
        (fun _ _ => rfl) rfl rfl
  · exact yields_onlyAnswered (Node.after_adjust addr body _) hears
      (Node.adjust_of_unsettled (n := s.node.setMailbox .taking) hc body)
  · exact yields_onlyAnswered (Node.after_adjust addr body _) hears
      (Node.adjust_of_error (n := s.node.setMailbox .taking) hc hr)
  · exact yields_onlyAnswered (Node.after_adjust addr body _) hears
      (Node.adjust_of_illegal (n := s.node.setMailbox .taking) hc hread hbad)
  · rw [yields_request (Node.after_adjust addr body _) hears
      (Node.adjust_of_legal (n := s.node.setMailbox .taking) hc hread hdistinct hlegal)]
    refine ⟨rfl, ?_⟩
    exact (congrArg (fun n : Node => n.rh.runtime) ((s.node.setMailbox .taking).takeItems_frame c l).frame :)

end Sys2Proof.Machine
end

section
/-! SUPPORT. SEND: its bodies, its tests in their order (R181, R201). -/

namespace Sys2Proof.Machine

/-! ## The two forms of a body -/

/-- A SEND body without a key. -/
def sendPlain (i : Nat) (payload : List Byte) : List Byte := u8 i ++ [0] ++ u8 payload.length ++ payload

/-- A SEND body with a key. -/
def sendKeyed (i key : Nat) (payload : List Byte) : List Byte :=
  u8 i ++ [1] ++ u16 key ++ u8 payload.length ++ payload

theorem field_u8_head {k : Nat} (h : k < 256) (rest : List Byte) : field (u8 k ++ rest) 0 1 = k := by
  rw [field_byte]
  simp [u8, Nat.mod_eq_of_lt h]

section forms
variable {i : Nat} {payload : List Byte}

theorem sendPlain_slot (hi : i < 256) : field (sendPlain i payload) 0 1 = i := by
  simp only [sendPlain, List.append_assoc]
  exact field_u8_head hi _

theorem sendPlain_flag : field (sendPlain i payload) 1 1 = 0 := rfl

theorem sendPlain_key : sendKey (sendPlain i payload) = none := rfl

theorem sendPlain_payload : sendPayload (sendPlain i payload) = payload := rfl

theorem sendPlain_lengthOk (h : payload.length ≤ 16) : sendLengthOk (sendPlain i payload) = true := by
  have hlen : field (sendPlain i payload) 2 1 = payload.length := by
    rw [field_byte]
    simp [sendPlain, u8, Nat.mod_eq_of_lt (show payload.length < 256 by omega)]
  have htotal : (sendPlain i payload).length = 3 + payload.length := by
    simp [sendPlain, u8]
    omega
  simp [sendLengthOk, sendPlain_flag, hlen, htotal, h]

variable {key : Nat}

theorem sendKeyed_slot (hi : i < 256) : field (sendKeyed i key payload) 0 1 = i := by
  simp only [sendKeyed, List.append_assoc]
  exact field_u8_head hi _

theorem sendKeyed_flag : field (sendKeyed i key payload) 1 1 = 1 := rfl

theorem sendKeyed_key (hkey : key < 65536) : sendKey (sendKeyed i key payload) = some key := by
  have hfield : field (sendKeyed i key payload) 2 2 = key := field_u16_append hkey (u8 payload.length ++ payload)
  rw [sendKey, if_pos sendKeyed_flag, hfield]

theorem sendKeyed_payload : sendPayload (sendKeyed i key payload) = payload := rfl

theorem sendKeyed_lengthOk (h : payload.length ≤ 16) : sendLengthOk (sendKeyed i key payload) = true := by
  have hlen : field (sendKeyed i key payload) 4 1 = payload.length := by
    rw [field_byte]
    simp [sendKeyed, u8, u16, Nat.mod_eq_of_lt (show payload.length < 256 by omega)]
  have htotal : (sendKeyed i key payload).length = 5 + payload.length := by
    simp [sendKeyed, u8, u16]
    omega
  simp [sendLengthOk, sendKeyed_flag, hlen, htotal, h]

end forms

/-! ## The tests -/

theorem sendKeyOk_of_kind {key : Key} (h : 6 ≤ Key.kind key) : sendKeyOk key.toNat = true := by
  have hkey := key.isLt
  have hkind : key.toNat / 256 = Key.kind key := by simp [Key.kind, Nat.shiftRight_eq_div_pow]
  simpa [sendKeyOk, hkind] using ⟨hkey, h⟩

theorem sendKeyOk_eq_false {key : Nat} (h : key < 1536) : sendKeyOk key = false := by
  have hkind : ¬6 ≤ key / 256 := by omega
  simp [sendKeyOk, hkind]

section tests
variable {mh : Mh} {body : List Byte} {i : Nat}

theorem Mh.send_of_flag (hlen : 2 ≤ body.length) (hflag : 2 ≤ field body 1 1) :
    mh.send body = (mh, .refusedRange) := by
  simp [Mh.send, hlen, hflag]

variable (hflag : field body 1 1 < 2)
include hflag

theorem Mh.send_of_length (h : sendLengthOk body = false) : mh.send body = (mh, .badLength) := by
  simp [Mh.send, Nat.not_le.2 hflag, h]

variable (hok : sendLengthOk body = true) (hslot : field body 0 1 = i)
include hok hslot

theorem Mh.send_of_range (hi : 12 ≤ i) : mh.send body = (mh, .refusedRange) := by
  simp [Mh.send, Nat.not_le.2 hflag, hok, hslot, hi]

variable (hi : i < 12)
include hi

theorem Mh.send_of_other (h : ∀ k, (mh.slot i).defn ≠ .transmit k) : mh.send body = (mh, .refusedState) := by
  simp only [Mh.send, Nat.not_le.2 hflag, hok, hslot, Nat.not_le.2 hi, decide_false, Bool.and_false, Bool.not_true,
    if_false, Bool.false_eq_true]
variable {k : Key} (hdefn : (mh.slot i).defn = .transmit k)
include hdefn

theorem Mh.send_of_transmit : mh.send body = mh.sendTo i k body := by
  simp [Mh.send, Nat.not_le.2 hflag, hok, hslot, Nat.not_le.2 hi, hdefn]

end tests

section sendTo
variable {mh : Mh} {body : List Byte} {i : Nat} {k : Key}

theorem Mh.sendTo_of_key {key : Nat} (hkey : sendKey body = some key) (h : sendKeyOk key = false) :
    mh.sendTo i k body = (mh, .refusedRange) := by
  simp [Mh.sendTo, hkey, h]

variable (hkey : (sendKey body).any (fun k => !sendKeyOk k) = false)
include hkey

theorem Mh.sendTo_of_busy {m : TxMail} (h : (mh.slot i).state = .pending m ∨ (mh.slot i).state = .sending m) :
    mh.sendTo i k body = (mh, .busy) := by
  obtain h | h := h <;> simp [Mh.sendTo, hkey, h]

theorem Mh.sendTo_of_free
    (h : (mh.slot i).state = .idle ∨ (mh.slot i).state = .done ∨ (mh.slot i).state = .failed) :
    mh.sendTo i k body =
      (mh.setSlot i (.pending ⟨((sendKey body).map (BitVec.ofNat 12)).getD k, sendPayload body⟩), .done) := by
  obtain h | h | h := h <;> simp [Mh.sendTo, hkey, h]

end sendTo

/-! ## The request -/

section request
variable {s : State} {addr : BitVec 7} {body : List Byte} (hears : s.node.Hears addr body)
include hears

theorem yields_send_unsettled (h : s.node.rh.lifecycle = .unsettled) :
    Yields (.send addr body) s (s.node.OnlyAnswered ⟨.refusedState, []⟩) :=
  yields_onlyAnswered (Node.after_send addr body _) hears (if_pos h)

variable (hlife : s.node.rh.lifecycle ≠ .unsettled)
include hlife

theorem yields_send {mh : Mh} {r : ResultCode} (hsend : s.node.mh.send body = (mh, r)) {P : Node → Prop} :
    Yields (.send addr body) s P ↔ P (({ s.node with mh := mh } : Node).setMailbox (.held ⟨r, []⟩)) := by
  have hnode : (s.node.setMailbox .taking).send body =
      ({ s.node.setMailbox .taking with mh := (s.node.mh.send body).1 }, .plain (s.node.mh.send body).2) := if_neg hlife
  rw [yields_request (Node.after_send addr body _) hears hnode, hsend]
  rfl

theorem yields_send_refused {r : ResultCode} (hsend : s.node.mh.send body = (s.node.mh, r)) :
    Yields (.send addr body) s (s.node.OnlyAnswered ⟨r, []⟩) :=
  (yields_send hears hlife hsend).2 rfl

/-- An accepted message waits in its slot. -/
theorem yields_send_accepted {i : Nat} (hi : i < s.node.mh.slots.length) {m : TxMail}
    (hsend : s.node.mh.send body = (s.node.mh.setSlot i (.pending m), .done)) :
    Yields (.send addr body) s fun t =>
      t.rh.mailbox = .held ⟨.done, []⟩
      ∧ t = { s.node with mh := s.node.mh.setSlot i (.pending m), rh := t.rh }
      ∧ (t.mh.slot i).state = .pending m
      ∧ ∀ j, j ≠ i → t.mh.slot j = s.node.mh.slot j := by
  rw [yields_send hears hlife hsend]
  exact ⟨rfl, rfl, congrArg Slot.state (Mh.slot_setSlot_self hi _), fun j hj => Mh.slot_setSlot_of_ne hj _⟩

end request

/-- Settles O14: MH's tests in their order on the two forms of a body. -/
theorem send : Obligations.Send := by
  refine ⟨fun s addr i k payload body hears hlife hi hslots hdefn hfree hlen => ⟨?_, ?_⟩,
    fun s addr i payload body hears hi hlen => ⟨yields_send_unsettled hears, fun hlife =>
      ⟨?_, ?_, ?_, ?_, ?_, ?_⟩⟩⟩
  · rintro rfl
    refine yields_send_accepted hears hlife (by omega) ?_
    exact (Mh.send_of_transmit (body := sendPlain i payload) Nat.zero_lt_two (sendPlain_lengthOk hlen) (sendPlain_slot (by omega)) hi hdefn).trans
      (Mh.sendTo_of_free rfl hfree)
  · rintro key hkind rfl
    have hkey := sendKeyed_key (i := i) (payload := payload) (key.isLt.trans (by decide : 2 ^ 12 < 65536))
    refine yields_send_accepted hears hlife (by omega) ?_
    refine (Mh.send_of_transmit (body := sendKeyed i key.toNat payload) Nat.one_lt_two (sendKeyed_lengthOk hlen)
      (sendKeyed_slot (by omega)) hi hdefn).trans
      ((Mh.sendTo_of_free (by simp [hkey, sendKeyOk_of_kind hkind]) hfree).trans ?_)
    rw [hkey, sendKeyed_payload]
    simp
  · rintro flag hflag rfl
    exact yields_send_refused hears hlife (Mh.send_of_flag (by simp [u8]) (by rw [field_byte]; exact hflag))
  · rintro n hn rfl
    refine yields_send_refused hears hlife (Mh.send_of_length Nat.zero_lt_two ?_)
    have hcount : field (u8 i ++ [0, n] ++ payload) 2 1 = n.toNat := by
      rw [field_byte]
      rfl
    have htotal : (u8 i ++ [0, n] ++ payload).length = 3 + payload.length := by
      simp [u8]
      omega
    have hflag : field (u8 i ++ [0, n] ++ payload) 1 1 = 0 := rfl
    simp only [sendLengthOk, hflag, hcount, htotal]
    simp [Ne.symm hn]
  · rintro hrange rfl
    exact yields_send_refused hears hlife
      (Mh.send_of_range Nat.zero_lt_two (sendPlain_lengthOk hlen) (sendPlain_slot hi) hrange)
  · rintro hi12 hdefn rfl
    exact yields_send_refused hears hlife
      (Mh.send_of_other Nat.zero_lt_two (sendPlain_lengthOk hlen) (sendPlain_slot hi) hi12 hdefn)
  · rintro k key hi12 hdefn hkey rfl
    refine yields_send_refused hears hlife ((Mh.send_of_transmit (body := sendKeyed i key payload) Nat.one_lt_two
      (sendKeyed_lengthOk hlen) (sendKeyed_slot hi) hi12 hdefn).trans ?_)
    exact Mh.sendTo_of_key (sendKeyed_key (by omega)) (sendKeyOk_eq_false hkey)
  · rintro k m hi12 hdefn hbusy rfl
    refine yields_send_refused hears hlife ((Mh.send_of_transmit (body := sendPlain i payload) Nat.zero_lt_two
      (sendPlain_lengthOk hlen) (sendPlain_slot hi) hi12 hdefn).trans ?_)
    exact Mh.sendTo_of_busy rfl hbusy

end Sys2Proof.Machine
end

section
/-! SUPPORT. The six snapshots and the six remote summaries, byte by byte (R193, R198, R201, R202). -/

namespace Sys2Proof.Machine

/-! ## Records by key -/

theorem insertRecord_perm (fCur : BitVec 8) (r : Record) (l : List Record) :
    (insertRecord fCur r l).Perm (r :: l) := by
  induction l with
  | nil => exact .refl _
  | cons x xs ih =>
    unfold insertRecord
    split
    · exact .refl _
    · exact (ih.cons x).trans (.swap r x xs)

theorem sortRecords_perm (fCur : BitVec 8) (l : List Record) : (sortRecords fCur l).Perm l := by
  induction l with
  | nil => exact .refl _
  | cons r rest ih => exact (insertRecord_perm fCur r _).trans (ih.cons r)

theorem insertRecord_sorted (fCur : BitVec 8) (r : Record) {l : List Record}
    (h : l.Pairwise fun a b => a.rank fCur ≤ b.rank fCur) :
    (insertRecord fCur r l).Pairwise fun a b => a.rank fCur ≤ b.rank fCur := by
  induction l with
  | nil => exact List.pairwise_singleton _ _
  | cons x xs ih =>
    obtain ⟨hx, hxs⟩ := List.pairwise_cons.1 h
    unfold insertRecord
    split
    · next hlt =>
      refine List.pairwise_cons.2 ⟨fun y hy => ?_, h⟩
      obtain rfl | hy := List.mem_cons.1 hy
      · omega
      · have hxy := hx y hy
        omega
    · next hge =>
      refine List.pairwise_cons.2 ⟨fun y hy => ?_, ih hxs⟩
      obtain rfl | hy := List.mem_cons.1 ((insertRecord_perm fCur r xs).mem_iff.1 hy)
      · omega
      · exact hx y hy

theorem sortRecords_sorted (fCur : BitVec 8) (l : List Record) :
    (sortRecords fCur l).Pairwise fun a b => a.rank fCur ≤ b.rank fCur := by
  induction l with
  | nil => exact List.Pairwise.nil
  | cons r rest ih => exact insertRecord_sorted fCur r ih

/-! ## Parts of the sections -/

theorem u8_toNat {w : Nat} (x : BitVec w) : u8 x.toNat = [x.setWidth 8] := by
  rw [u8, BitVec.ofNat_toNat]

theorem u8_roleCode (r : Role) : u8 (roleCode r) = [if r = .head then 0 else 1] := by
  cases r <;> rfl

theorem optBytes_settled {α : Type} (x : Option α) (bytes : List Byte) [Decidable (x = none)] :
    optBytes (fun _ => bytes) x = if x = none then [0] else 1 :: bytes := by
  cases x <;> simp [optBytes]

theorem InProgress.bytes_eq (x : InProgress) :
    x.bytes = match x with
      | .body _ h disp => [1, h.frame] ++ u16 h.line ++ u8 disp.code
      | _ => [0] := by
  cases x <;> rfl

theorem Slot.bytes_eq (x : Slot) :
    x.bytes = x.defn.bytes ++ u8 x.state.code ++
      (match x.defn, x.state with
        | .receive _ _, .full m => 1 :: (u16 m.key.toNat ++ u8 m.payload.length ++ u32 m.stamp.toNat)
        | .receive _ _, .overrun m => 1 :: (u16 m.key.toNat ++ u8 m.payload.length ++ u32 m.stamp.toNat)
        | .receive _ _, _ => [0]
        | _, _ => []) := by
  obtain ⟨defn, state⟩ := x
  cases defn with
  | receive key mask => cases state <;> rfl
  | unused => rfl
  | transmit key => rfl

theorem Ou.presented_bytes (ou : Ou) :
    ou.presented.bytes = match ou.abort, ou.queue with
      | some (.line _ _), _ => [3, 0]
      | some (.frameEnd _), _ => [4, 0]
      | none, .line d :: _ => [1, 1, d.frame, 1] ++ u16 d.line ++ u16 ou.taken
      | none, .frameEnd d :: _ => [2, 1, d.frame, 0] ++ u16 ou.taken
      | none, [] => [0, 0] := by
  unfold Ou.presented
  rcases ou.abort with _ | _ | _
  · rcases ou.queue with _ | ⟨_ | _, _⟩ <;> rfl
  · rfl
  · rfl

theorem Descriptor.bytes_eq (x : Descriptor) :
    x.bytes = match x with
      | .line d => [1, d.frame, 1] ++ u16 d.line
      | .frameEnd d => [2, d.frame, 0] := by
  cases x <;> rfl

theorem EngineState.ctx_of {e : EngineState} {ctx : Option FrameCtx}
    (h : e = .idle ∧ ctx = none ∨ ∃ f, (e = .run f ∨ e = .flushing f) ∧ ctx = some f) : e.ctx = ctx := by
  obtain ⟨rfl, rfl⟩ | ⟨f, rfl | rfl, rfl⟩ := h <;> rfl

/-! ## The sections -/

section sections
variable (n : Node)

theorem Node.snapshot_identity :
    n.snapshot 1 =
      [0x24, 0x16, 1, if n.rh.straps.role = .head then 0 else 1, n.rh.straps.plane.setWidth 8,
        n.rh.straps.node.setWidth 8, n.rh.straps.adr.setWidth 8, BitVec.ofNat 8 n.rh.lifecycle.code,
        BitVec.ofNat 8 n.rh.joining]
      ++ (if n.rh.settled = none then [0] else 1 :: (u8 n.rh.runtime.mask.toNat ++ u16 n.rh.runtime.w
          ++ u8 n.rh.runtime.mode.code ++ u8 n.rh.runtime.threshold ++ u16 n.rh.runtime.lead
          ++ flagByte n.si.listenOnly ++ [0] ++ u8 n.sg.active.length ++ n.sg.active.flatMap StrobeEntry.bytes))
      ++ optBytes (fun x => u8 x.toNat) n.rh.pending.mask ++ optBytes u16 n.rh.pending.w
      ++ optBytes (fun x => u8 x.code) n.rh.pending.mode ++ optBytes u8 n.rh.pending.threshold
      ++ optBytes u16 n.rh.pending.lead ++ optBytes flagByte n.rh.pending.listenOnly
      ++ optBytes Timecode.bytes n.rh.pending.preset
      ++ optBytes (fun l => u8 l.length ++ l.flatMap StrobeEntry.bytes) n.sg.holder ++ n.rh.levels.flatMap u8 := by
  simp only [Node.snapshot, Node.identity, Straps.bytes, u8_roleCode, u8_toNat n.rh.straps.plane,
    u8_toNat n.rh.straps.node, u8_toNat n.rh.straps.adr, optBytes_settled, Node.runtimeBytes, Node.pendingBytes,
    setByte, List.append_assoc, listBytes]
  rfl

theorem Node.snapshot_timebase :
    n.snapshot 2 =
      u32 n.tb.e.toNat ++ u16 n.tb.line ++ [BitVec.ofInt 8 n.tb.trim] ++ u16 (BitVec.ofInt 16 n.tb.q).toNat
        ++ u8 n.tb.history.length
        ++ n.tb.history.flatMap (fun h => u16 h.number.toNat ++ u32 h.e.toNat ++ flagByte h.stepped)
        ++ u16 n.tb.adoptions.toNat ++ u8 n.du.cls ++ u8 n.du.cands.length
        ++ n.du.cands.flatMap (fun k => u8 k.node.toNat ++ u8 k.cls ++ u8 k.age)
        ++ u8 n.du.state.code ++ u8 n.du.source.toNat ++ u16 n.du.dEst ++ flagByte n.du.dValid ++ u16 n.du.credit
        ++ u8 n.du.mon.code ++ u16 (BitVec.ofInt 16 n.du.i).toNat ++ u8 n.du.lock ++ u8 n.du.srcCls
        ++ optBytes (fun x => u8 x.target.toNat ++ u32 x.t1.toNat ++ u8 x.frames) n.du.probe ++ flagByte n.du.tracking
        ++ u16 n.du.implausible.toNat ++ u16 n.du.probeAbandoned.toNat ++ u16 n.du.replyDiscarded.toNat
        ++ u16 n.du.announceIgnored.toNat ++ u16 n.du.steps.toNat
        ++ u8 n.sg.pins.toNat ++ u8 n.sg.active.length ++ optBytes (fun l => u8 l.length) n.sg.holder
        ++ u16 n.sg.swaps.toNat ++ n.tb.tc.bytes := by
  simp only [Node.snapshot, Node.timebase, Tb.position, Du.bytes, Sg.bytes, listBytes, cnts, cnt,
    List.flatMap_cons, List.flatMap_nil, List.append_assoc, List.append_nil]
  rfl

theorem Node.snapshot_lanes :
    n.snapshot 3 =
      u8 n.ss.freeCount ++ u8 (n.ss.bufs.countP Buf.isFilling) ++ u8 (n.ss.bufs.countP (·.state == .queued))
        ++ u8 (n.ss.bufs.countP Buf.isReferenced) ++ u8 n.ss.freeCount ++ u8 n.ss.lowWater
        ++ u16 n.ss.grants.toNat ++ u16 n.ss.refusedEmpty.toNat ++ u16 n.ss.refusedReserve.toNat
        ++ (match n.rh.straps.role with
          | .head => u8 n.lu.queue.length
              ++ [n.lu.linesLaunched, n.lu.brokenLine, n.lu.noFrame, n.lu.excessLine, n.lu.emptyLine,
                  n.lu.overlongLine, n.lu.launchOverflow, n.lu.unframed].flatMap (fun x => u16 x.toNat)
              ++ u8 n.lu.line.code ++ u16 n.lu.lineCount ++ optBytes (fun x => x.1 :: x.2.bytes) n.lu.latch
              ++ u8 n.lu.carrier.code
          | .base => [0, 1, 2, 3].flatMap (fun p => u8 (n.lane p).state.code ++ flagByte (n.pins.cp.get p))
              ++ [0, 1, 2, 3].flatMap (fun p =>
                  optBytes (fun d => u32 (sdiff d n.tb.e).toNat) (n.lane p).deadline)
              ++ [0, 1, 2, 3].flatMap fun p => u8 (n.lane p).goodRun ++ u8 (n.lane p).badRun
                  ++ (match (n.lane p).seg with
                    | .body _ h disp => [1, h.frame] ++ u16 h.line ++ u8 disp.code
                    | _ => [0])
                  ++ [(n.lane p).good, (n.lane p).checkFail, (n.lane p).malformed, (n.lane p).noBuffer,
                      (n.lane p).late, (n.lane p).duplicate, (n.lane p).stray, (n.lane p).unexpectedPlane,
                      (n.lane p).tableFull, (n.lane p).flushing, (n.lane p).lossCarrier, (n.lane p).lossBad,
                      (n.lane p).lossSilence].flatMap fun x => u16 x.toNat) := by
  have hstore : n.ss.bytes = u8 n.ss.freeCount ++ u8 (n.ss.bufs.countP Buf.isFilling)
      ++ u8 (n.ss.bufs.countP (·.state == .queued)) ++ u8 (n.ss.bufs.countP Buf.isReferenced) ++ u8 n.ss.freeCount
      ++ u8 n.ss.lowWater ++ u16 n.ss.grants.toNat ++ u16 n.ss.refusedEmpty.toNat ++ u16 n.ss.refusedReserve.toNat := by
    simp only [Ss.bytes, cnts, cnt, List.flatMap_cons, List.flatMap_nil, List.append_assoc, List.append_nil]
  simp only [← InProgress.bytes_eq, Node.snapshot, Node.lanes, hstore]
  refine congrArg (HAppend.hAppend _) ?_
  cases n.rh.straps.role with
  | head => rfl
  | base => rfl

theorem Node.snapshot_slots :
    n.snapshot 6 = n.mh.slots.flatMap (fun x => x.defn.bytes ++ u8 x.state.code ++
          (match x.defn, x.state with
            | .receive _ _, .full m => 1 :: (u16 m.key.toNat ++ u8 m.payload.length ++ u32 m.stamp.toNat)
            | .receive _ _, .overrun m => 1 :: (u16 m.key.toNat ++ u8 m.payload.length ++ u32 m.stamp.toNat)
            | .receive _ _, _ => [0]
            | _, _ => []))
        ++ u16 n.mh.mailUnmatched.toNat ++ u16 n.mh.mailOverrun.toNat := by
  simp only [← Slot.bytes_eq]
  simp only [List.append_assoc]
  rfl

theorem replyKey_bytes (x : Reply) :
    u16 (n.replyKey x).toNat = u16 (0x300 + 16 * x.requester.toNat + n.rh.straps.node.toNat) := by
  rw [Node.replyKey, nodesKey_toNat (by decide)]
  congr 1
  omega

theorem Node.snapshot_service {c : Settled} (h : n.rh.settled = some c) :
    n.snapshot 5 =
      u8 c.pre ++ u8 c.prop ++ u8 c.pa ++ u8 c.pb ++ u8 c.sjw ++ u8 n.si.tec ++ u8 n.si.recCount ++ u8 n.si.recovery
        ++ u8 n.si.state.code ++ flagByte n.si.listenOnly ++ optBytes flagByte n.rh.pending.listenOnly
        ++ [n.si.sentOk, n.si.sendFailed, n.si.receivedOk, n.si.arbitrationLost, n.si.echoErrors, n.si.symbolErrors,
            n.si.checkErrors, n.si.noAckErrors].flatMap (fun x => u16 x.toNat)
        ++ flagByte n.mh.announce ++ flagByte n.mh.probe.isSome ++ flagByte n.mh.controlReply.isSome
        ++ u8 n.mh.replies.length ++ u8 n.mh.replies.length
        ++ n.mh.replies.flatMap (fun x => u16 (0x300 + 16 * x.requester.toNat + n.rh.straps.node.toNat))
        ++ [n.mh.unusableKind, n.mh.badForm, n.mh.probesUnanswered, n.mh.replyQueueFull, n.mh.controlBusy,
            n.mh.controlUnreplied].flatMap fun x => u16 x.toNat := by
  simp only [Node.snapshot, h, Node.service, Settled.timingBytes, listBytes, replyKey_bytes, List.append_assoc]
  rfl

/-- The stitch section of a base: SE's items, its records in key order, then OU's. -/
theorem Node.snapshot_stitch {ctx : Option FrameCtx} {tallies : Tallies → List Byte} (hrole : n.rh.straps.role = .base)
    (hctx : n.se.state.ctx = ctx)
    (htallies : tallies = (fun x => u16 x.lines ++ u16 x.complete ++ u16 x.concealed ++ u16 x.gap ++ u16 x.forced
          ++ u16 x.worstSkew ++ u8 x.contributing.toNat ++ u8 x.joined.toNat)) :
    n.snapshot 4 = u8 n.se.table.length
          ++ (sortRecords ((ctx.map (·.fCur)).getD 0) n.se.table).flatMap (fun r =>
            [r.frame] ++ u16 r.line ++ u8 (contribPlanes r.contribs).toNat ++ u8 r.state.code
              ++ (if passed n.tb.e r.deadline = true then [0] else 1 :: u16 (sdiff r.deadline n.tb.e).toNat))
          ++ [0, 1, 2, 3].flatMap (fun p => optBytes (fun h => h.frame :: u16 h.line) (n.se.holds.get p))
          ++ optBytes (fun f => tallies f.tallies) ctx ++ tallies n.se.lastTallies ++ u8 n.se.state.code
          ++ optBytes (fun f => [f.fCur] ++ u16 f.nNext ++ u8 f.mask.toNat ++ u8 f.j.toNat) ctx
          ++ u8 n.se.lockedSet.toNat ++ u8 n.se.strayRun ++ u8 (4 - n.ou.queue.length)
          ++ [n.se.framesStarted, n.se.framesEnded, n.se.framesFlushed, n.se.resyncStray, n.se.resyncEmpty,
              n.se.forcedLines, n.se.contribWithdrawn, n.se.contribDiscarded].flatMap (fun x => u16 x.toNat)
          ++ u8 n.ou.queue.length ++ n.ou.queue.flatMap (fun x => match x with
            | .line d => [1, d.frame, 1] ++ u16 d.line
            | .frameEnd d => [2, d.frame, 0])
          ++ flagByte n.pins.pready
          ++ (match n.ou.abort, n.ou.queue with
            | some (.line _ _), _ => [3, 0]
            | some (.frameEnd _), _ => [4, 0]
            | none, .line d :: _ => [1, 1, d.frame, 1] ++ u16 d.line ++ u16 n.ou.taken
            | none, .frameEnd d :: _ => [2, 1, d.frame, 0] ++ u16 n.ou.taken
            | none, [] => [0, 0])
          ++ [n.ou.linesOut, n.ou.framesOut, n.ou.abortsOut, n.ou.stalledRecords, n.ou.queueFull].flatMap
              fun x => u16 x.toNat := by
  have hlen := (sortRecords_perm ((ctx.map (·.fCur)).getD 0) n.se.table).length_eq
  simp only [← Ou.presented_bytes, ← Descriptor.bytes_eq]
  simp only [Node.snapshot, Node.stitch, hrole, Node.engineBytes, Node.outputBytes, hctx, listBytes, hlen, htallies,
    List.append_assoc]
  rfl

theorem Node.summary_slots : n.summary 6 = n.mh.slots.map fun x => BitVec.ofNat 8 x.state.code :=
  List.flatMap_pure_eq_map _ _

end sections

/-- Settles O17: each section by its own equation; the records of the stitch section are the table in key order. -/
theorem snapshots : Obligations.Snapshots := by
  refine ⟨⟨fun _ _ _ => ⟨rfl, rfl⟩, rfl, rfl, rfl, rfl, rfl, fun _ => rfl, rfl, rfl, fun _ => rfl, rfl, fun _ => rfl,
    rfl, rfl, fun _ _ => rfl⟩, fun n => ⟨n.snapshot_identity, n.snapshot_timebase, n.snapshot_lanes, fun hhead => ?_,
    fun ctx tallies hrole hctx htallies => ?_, fun c hc => n.snapshot_service hc, n.snapshot_slots, ?_, ?_, fun hhead => ?_,
    fun hbase => ?_, fun f hf => ?_, fun f hf => ?_, fun hidle => ?_, ?_, n.summary_slots⟩⟩
  · simp only [Node.snapshot, Node.stitch, hhead]
  · refine ⟨_, sortRecords_perm _ _, ?_, n.snapshot_stitch hrole (EngineState.ctx_of hctx) htallies⟩
    rintro f rfl
    exact sortRecords_sorted _ _
  · simp only [Node.summary, u8_roleCode, u8_toNat]
    rfl
  · simp only [Node.summary, flagByte, apply_ite (f := fun x : Byte => [x])]
  · simp only [Node.summary, hhead, List.append_assoc]
  · simp only [Node.summary, hbase]
    rfl
  · simp only [Node.summary, Node.summaryContext, hf]
    rfl
  · simp only [Node.summary, Node.summaryContext, hf]
    rfl
  · refine ⟨Config.freeByte n.freeIdx, Config.freeByte (n.freeIdx + 1), Config.freeByte (n.freeIdx + 2),
      Config.freeByte (n.freeIdx + 3) &&& 0x0F, ?_, ?_⟩
    · rw [BitVec.toNat_and]
      exact Nat.and_lt_two_pow (n := 4) _ (by decide)
    · simp only [Node.summary, Node.summaryContext, hidle]
      rfl
  · simp only [Node.summary, flagByte, apply_ite (f := fun x : Byte => [x])]

end Sys2Proof.Machine
end

section
/-! SUPPORT. A change of timebase state or source, and a selection (R34, R35, R38 to R42, R44, R172). -/

namespace Sys2Proof.Machine

/-! ## The best candidate -/

theorem betterCand_cases (b : Option Cand) (k : Cand) : betterCand b k = some k ∨ betterCand b k = b := by
  cases b with
  | none => exact .inl rfl
  | some x => exact ite_eq_or_eq (k.rank < x.rank) (some k) (some x)

theorem foldl_betterCand_mem {l : List Cand} {b : Option Cand} {k : Cand} (h : l.foldl betterCand b = some k) :
    k ∈ l ∨ b = some k := by
  induction l generalizing b with
  | nil => exact .inr h
  | cons x xs ih =>
    obtain hin | hb := ih h
    · exact .inl (List.mem_cons_of_mem x hin)
    · obtain hx | hkeep := betterCand_cases b x
      · exact .inl (Option.some.inj (hx.symm.trans hb) ▸ List.mem_cons_self)
      · exact .inr (hkeep.symm.trans hb)

theorem bestCand_mem {l : List Cand} {k : Cand} (h : bestCand l = some k) : k ∈ l :=
  (foldl_betterCand_mem h).resolve_right nofun

theorem foldl_betterCand_eq {l : List Cand} {b : Option Cand} {k : Cand} (hin : k ∈ l ∨ b = some k)
    (hl : ∀ j ∈ l, j ≠ k → k.rank < j.rank) (hb : ∀ j, b = some j → j ≠ k → k.rank < j.rank) :
    l.foldl betterCand b = some k := by
  induction l generalizing b with
  | nil => simpa using hin
  | cons x xs ih =>
    refine ih ?_ (fun j hj => hl j (List.mem_cons_of_mem x hj)) ?_
    all_goals
      have hx := hl x List.mem_cons_self
      unfold betterCand
      grind

/-- A candidate ranked before all others is the best. -/
theorem bestCand_eq {l : List Cand} {k : Cand} (hin : k ∈ l) (hk : ∀ j ∈ l, j ≠ k → k.rank < j.rank) :
    bestCand l = some k :=
  foldl_betterCand_eq (.inl hin) hk nofun

/-! ## The places given up -/

/-- What has started is read off SI. -/
theorem Node.started_of_si {n t : Node} (h : t.si = n.si) (p : Place) : t.started p = n.started p := by
  simp only [Node.started, h]

section places
variable (n : Node)

@[simp] theorem Node.emptyProbe_announce : n.emptyProbe.mh.announce = n.mh.announce := by
  unfold Node.emptyProbe
  split <;> rfl

theorem Node.emptyProbe_probe : n.emptyProbe.mh.probe = if n.started .probe then n.mh.probe else none := by
  unfold Node.emptyProbe
  split <;> rfl

theorem Node.withdrawAnnounce_announce :
    n.withdrawAnnounce.mh.announce = (n.started .announce && n.mh.announce) := by
  unfold Node.withdrawAnnounce
  cases h : n.started .announce <;> simp

variable (d : Du) (state : TbState) (source : BitVec 4)

/-- The ANNOUNCE place on the way to another state. -/
def Node.leaveSelf : Node := if d.state.isSelf && !state.isSelf then n.withdrawAnnounce else n

theorem Node.leavePlaces_eq :
    n.leavePlaces d state source =
      if source = d.source then n.leaveSelf d state else (n.leaveSelf d state).emptyProbe := rfl

theorem Node.leaveSelf_eq : n.leaveSelf d state =
    { n with mh := { n.mh with announce := (n.leaveSelf d state).mh.announce } } := by
  unfold Node.leaveSelf Node.withdrawAnnounce
  repeat' split
  all_goals rfl

theorem Node.leaveSelf_announce : (n.leaveSelf d state).mh.announce =
    if d.state.isSelf = true ∧ state.isSelf = false then n.started .announce && n.mh.announce else n.mh.announce := by
  unfold Node.leaveSelf
  rcases hd : d.state.isSelf <;> rcases hs : state.isSelf <;> simp [Node.withdrawAnnounce_announce]

@[simp] theorem Node.leavePlaces_tb : (n.leavePlaces d state source).tb = n.tb := by
  rw [Node.leavePlaces_eq, Node.leaveSelf_eq]
  split <;> simp

@[simp] theorem Node.leavePlaces_du : (n.leavePlaces d state source).du = n.du := by
  rw [Node.leavePlaces_eq, Node.leaveSelf_eq]
  split <;> simp

@[simp] theorem Node.leavePlaces_rh : (n.leavePlaces d state source).rh = n.rh := by
  rw [Node.leavePlaces_eq, Node.leaveSelf_eq]
  split <;> simp

theorem Node.leavePlaces_announce : (n.leavePlaces d state source).mh.announce =
    if d.state.isSelf = true ∧ state.isSelf = false then n.started .announce && n.mh.announce else n.mh.announce := by
  rw [← Node.leaveSelf_announce, Node.leavePlaces_eq]
  split <;> simp

theorem Node.leavePlaces_probe : (n.leavePlaces d state source).mh.probe =
    if source = d.source ∨ n.started .probe = true then n.mh.probe else none := by
  have hstarted : (n.leaveSelf d state).started .probe = n.started .probe := by rw [Node.leaveSelf_eq]; rfl
  have hprobe : (n.leaveSelf d state).mh.probe = n.mh.probe := by rw [Node.leaveSelf_eq]
  rw [Node.leavePlaces_eq]
  by_cases hs : source = d.source
  · simp [hs, hprobe]
  · simp [hs, Node.emptyProbe_probe, hprobe, hstarted]

end places

/-! ## A change of state or source -/

theorem Node.enter_of_same {n : Node} {c : Settled} {state : TbState} {source : BitVec 4} (hstate : state = n.du.state)
    (hsource : source = n.du.source) : n.enter c state source = n := by
  simp [Node.enter, hstate, hsource]

section enter
variable {n : Node} {c : Settled} {state : TbState} {source : BitVec 4}
  (h : state ≠ n.du.state ∨ source ≠ n.du.source)
include h

theorem Node.enter_of_change :
    n.enter c state source =
      ((({ n with du := n.du.enter c.h state source, tb := n.tb.enter n.du state } : Node).raiseIf
        (source != n.du.source) .sourceChanged).raiseIf (n.du.losesLock state) .lockLost).leavePlaces n.du state
        source := by
  have hne : ¬((decide (state = n.du.state) && decide (source = n.du.source)) = true) := by
    rw [Bool.and_eq_true, decide_eq_true_eq, decide_eq_true_eq]
    tauto
  exact if_neg hne

theorem Node.enter_tb : (n.enter c state source).tb = n.tb.enter n.du state := by
  rw [Node.enter_of_change h]
  simp

theorem Node.enter_du : (n.enter c state source).du = n.du.enter c.h state source := by
  rw [Node.enter_of_change h]
  simp

omit h in
theorem Node.enter_started (p : Place) : (n.enter c state source).started p = n.started p :=
  Node.started_of_si (n.enter_selectFrame c state source).si p

theorem Node.enter_announce : (n.enter c state source).mh.announce =
    if n.du.state.isSelf = true ∧ state.isSelf = false then n.started .announce && n.mh.announce
    else n.mh.announce := by
  rw [Node.enter_of_change h, Node.leavePlaces_announce, Node.started_of_si (n := n) (by simp)]
  simp

theorem Node.enter_probe : (n.enter c state source).mh.probe =
    if source = n.du.source ∨ n.started .probe = true then n.mh.probe else none := by
  rw [Node.enter_of_change h, Node.leavePlaces_probe, Node.started_of_si (n := n) (by simp)]
  simp

theorem Node.enter_sourceChanged (hsource : source ≠ n.du.source) :
    (n.enter c state source).rh.isPending 1 = true := by
  rw [Node.enter_of_change h, Node.leavePlaces_rh]
  refine Node.raiseIf_keeps _ _ _ _ ?_
  rw [Node.raiseIf, if_pos (bne_iff_ne.2 hsource)]
  exact Node.raise_pending _ .sourceChanged

theorem Node.enter_lockLost (hlost : n.du.losesLock state = true) : (n.enter c state source).rh.isPending 3 = true := by
  rw [Node.enter_of_change h, Node.leavePlaces_rh, Node.raiseIf, if_pos hlost]
  exact Node.raise_pending _ .lockLost

theorem Node.enter_pending {k : Nat} (hk : n.rh.isPending k = true) :
    (n.enter c state source).rh.isPending k = true := by
  rw [Node.enter_of_change h, Node.leavePlaces_rh]
  exact Node.raiseIf_keeps _ _ _ _ (Node.raiseIf_keeps _ _ _ _ hk)

end enter

/-! ## What a change of state and source does -/

/-- What the state and the source that a node comes to, by a selection or a change of its own, say of the rest. -/
structure Node.Change (c : Settled) (n t : Node) : Prop where
  frame : SelectFrame n t
  same : t.du.state = n.du.state → t.du.source = n.du.source →
    t.tb = n.tb ∧ t.rh = n.rh ∧ t.mh = n.mh ∧ t.du = { n.du with cls := t.du.cls, srcCls := t.du.srcCls }
  moved : t.du.state ≠ n.du.state ∨ t.du.source ≠ n.du.source → t.tb.q = n.du.i ∧ t.du.lock = 0
  source : t.du.source ≠ n.du.source → t.rh.isPending 1 = true ∧ t.du.dValid = false ∧ t.du.probe = none
    ∧ (n.started .probe = false → t.mh.probe = none)
  probeStarted : n.started .probe = true → t.mh.probe = n.mh.probe
  announceKept : n.started .announce = true ∨ n.du.state.isSelf = false ∨ t.du.state.isSelf = true →
    t.mh.announce = n.mh.announce
  holdEntered : n.du.state ≠ .selfHold → t.du.state = .selfHold → t.du.credit = c.h
  holdLeft : n.du.state = .selfHold → t.du.state ≠ .selfHold → t.du.credit = 0
  holdKept : n.du.state = .selfHold → t.du.state = .selfHold → t.du.source = n.du.source → t.du.credit = n.du.credit
  holdNever : n.du.state ≠ .selfHold → t.du.state ≠ .selfHold → t.du.credit = n.du.credit
  lockLeft : n.du.state = .followLock → t.du.state ≠ .followLock → t.rh.isPending 3 = true ∧ t.tb.adoption = none
  refLeft : n.du.state = .selfRef → t.du.state ≠ .selfRef →
    t.du.tracking = false ∧ (n.du.tracking = true → t.rh.isPending 3 = true)
  announceLeft : n.du.state.isSelf = true → t.du.state.isSelf = false → n.started .announce = false →
    t.mh.announce = false
  pending : ∀ k, n.rh.isPending k = true → t.rh.isPending k = true
  adoption : n.tb.adoption = none → t.tb.adoption = none

namespace Node.Change

variable {c : Settled} {n t : Node}

theorem refl (c : Settled) (n : Node) : n.Change c n where
  frame := SelectFrame.refl n
  same _ _ := ⟨rfl, rfl, rfl, rfl⟩
  moved h := absurd h (by simp)
  source h := absurd rfl h
  probeStarted _ := rfl
  announceKept _ := rfl
  holdEntered h h' := absurd h' h
  holdLeft h h' := absurd h h'
  holdKept _ _ _ := rfl
  holdNever _ _ := rfl
  lockLeft h h' := absurd h h'
  refLeft h h' := absurd h h'
  announceLeft h h' := absurd (h.symm.trans h') nofun
  pending _ := id
  adoption := id

/-- The class taken anew changes nothing else. -/
theorem recompute (h : n.Change c t) : n.Change c { t with du := t.du.recompute } :=
  { h with
    frame := h.frame.trans ⟨rfl, rfl, id⟩
    same := fun hstate hsource => by
      obtain ⟨htb, hrh, hmh, hdu⟩ := h.same hstate hsource
      refine ⟨htb, hrh, hmh, ?_⟩
      dsimp only
      rw [hdu]
      rfl }

/-- A change to a state other than FOLLOW_LOCK. -/
theorem enter {state : TbState} {source : BitVec 4} (hlock : state ≠ .followLock) :
    n.Change c (n.enter c state source) := by
  by_cases hch : state ≠ n.du.state ∨ source ≠ n.du.source
  swap
  · have hsame : state = n.du.state ∧ source = n.du.source := by tauto
    rw [Node.enter_of_same hsame.1 hsame.2]
    exact refl c n
  have hdu := Node.enter_du (c := c) hch
  have htb := Node.enter_tb (c := c) hch
  have hentry : isLockEntry n.du.state state = false := by simp [isLockEntry, hlock]
  have hlost (hd : n.du.state = .followLock) : n.du.losesLock state = true := by
    simp [Du.losesLock, hd, hlock]
  exact {
    frame := n.enter_selectFrame c state source
    same := fun hstate hsource => by
      rw [hdu] at hstate hsource
      exact absurd hch (by simp [show state = n.du.state from hstate, show source = n.du.source from hsource])
    moved := fun _ => by simp [hdu, htb, Tb.enter, Du.enter, hentry]
    source := fun hsource => by
      rw [hdu] at hsource
      have hne : source ≠ n.du.source := hsource
      refine ⟨Node.enter_sourceChanged hch hne, ?_, ?_, fun hstarted => ?_⟩
      · simp [hdu, Du.enter, hne]
      · simp [hdu, Du.enter, hne]
      · simp [Node.enter_probe hch, hne, hstarted]
    probeStarted := fun hstarted => by simp [Node.enter_probe hch, hstarted]
    announceKept := fun hkept => by
      rw [hdu] at hkept
      rw [Node.enter_announce hch]
      obtain hstarted | hself | hself := hkept
      · simp [hstarted]
      · simp [hself]
      · simp [show state.isSelf = true from hself]
    holdEntered := fun _ hstate => by
      rw [hdu] at hstate ⊢
      simp [Du.enter, show state = .selfHold from hstate]
    holdLeft := fun hold hstate => by
      rw [hdu] at hstate ⊢
      simp [Du.enter, show state ≠ .selfHold from hstate, hold]
    holdKept := fun hold hstate hsource => by
      rw [hdu] at hstate hsource
      exact absurd hch (by simp [show state = .selfHold from hstate, hold, show source = n.du.source from hsource])
    holdNever := fun hold hstate => by
      rw [hdu] at hstate ⊢
      simp [Du.enter, show state ≠ .selfHold from hstate, hold]
    lockLeft := fun hd _ => ⟨Node.enter_lockLost hch (hlost hd), by simp [htb, Tb.enter, hd, hlock]⟩
    refLeft := fun hd hstate => by
      rw [hdu] at hstate ⊢
      have hne : state ≠ .selfRef := hstate
      refine ⟨by simp [Du.enter, hd], fun htracking => Node.enter_lockLost hch ?_⟩
      simp [Du.losesLock, hd, hne, htracking]
    announceLeft := fun hself hstate hstarted => by
      rw [hdu] at hstate
      simp [Node.enter_announce hch, hself, show state.isSelf = false from hstate, hstarted]
    pending := fun k => Node.enter_pending hch
    adoption := fun hnone => by simp [htb, Tb.enter, hnone] }

end Node.Change

/-! ## A peer chosen -/

/-- The node as a newly chosen peer leaves it, once it has come to FOLLOW_ACQ. -/
def Node.followPeer (k : Cand) (n : Node) : Node :=
  Node.emptyProbe { n with du := { n.du with srcCls := k.cls, dValid := false, probe := none, countdown := 0 } }

theorem Node.choosePeer_of_follows {n : Node} {k : Cand} (h : n.du.follows k.node = true) (c : Settled) :
    n.choosePeer c k = n :=
  if_pos h

theorem Node.choosePeer_of_new {n : Node} {k : Cand} (h : n.du.follows k.node = false) (c : Settled) :
    n.choosePeer c k = (n.enter c .followAcq k.node).followPeer k := by
  simp [Node.choosePeer, Node.followPeer, h]

theorem Node.change_of_new {n : Node} {k : Cand} (h : n.du.follows k.node = false) :
    .followAcq ≠ n.du.state ∨ k.node ≠ n.du.source := by
  by_contra hsame
  obtain ⟨hstate, hsource⟩ : .followAcq = n.du.state ∧ k.node = n.du.source := by tauto
  simp [Du.follows, ← hstate, hsource, TbState.isSelf] at h

theorem Node.Change.choosePeer {c : Settled} {n : Node} (k : Cand) : n.Change c (n.choosePeer c k) := by
  rcases hf : n.du.follows k.node with _ | _
  swap
  · rw [Node.choosePeer_of_follows hf]
    exact Node.Change.refl c n
  have hch := Node.change_of_new hf
  have henter : n.Change c (n.enter c .followAcq k.node) := Node.Change.enter (by decide)
  have hstate : (n.enter c .followAcq k.node).du.state = .followAcq := by rw [Node.enter_du hch]; rfl
  have hsource : (n.enter c .followAcq k.node).du.source = k.node := by rw [Node.enter_du hch]; rfl
  have hframe := n.choosePeer_selectFrame c k
  rw [Node.choosePeer_of_new hf] at hframe ⊢
  have hstarted : ((n.enter c .followAcq k.node).started .probe) = n.started .probe := Node.enter_started .probe
  unfold Node.followPeer at hframe ⊢
  exact {
    frame := hframe
    same := fun h1 h2 => by
      simp only [Node.emptyProbe_du] at h1 h2
      exact absurd hch (by simp [← h1, ← h2, hstate, hsource])
    moved := by simpa using henter.moved
    source := fun h => by
      obtain ⟨hpending, -, -, hprobe⟩ := henter.source (by simpa using h)
      refine ⟨by simpa using hpending, by simp, by simp, fun hns => ?_⟩
      rw [Node.emptyProbe_probe]
      split
      · exact hprobe hns
      · rfl
    probeStarted := fun hs => by
      exact (Node.emptyProbe_probe _).trans ((if_pos (hstarted.trans hs)).trans (henter.probeStarted hs))
    announceKept := by simpa using henter.announceKept
    holdEntered := by simpa using henter.holdEntered
    holdLeft := by simpa using henter.holdLeft
    holdKept := by simpa using henter.holdKept
    holdNever := by simpa using henter.holdNever
    lockLeft := by simpa using henter.lockLeft
    refLeft := by simpa using henter.refLeft
    announceLeft := by simpa using henter.announceLeft
    pending := by simpa using henter.pending
    adoption := by simpa using henter.adoption }

/-! ## A selection -/

theorem Du.selfState_isSelf (h : Nat) (d : Du) : (d.selfState h).isSelf = true := by
  unfold Du.selfState
  repeat' split
  all_goals rfl

theorem Du.selfState_ne_followLock (h : Nat) (d : Du) : d.selfState h ≠ .followLock := by
  intro heq
  have hself := d.selfState_isSelf h
  rw [heq] at hself
  cases hself

/-- The class taken anew is the node's own. -/
theorem Du.ownClass_recompute (d : Du) : d.recompute.cls = d.recompute.ownClass := by
  cases hstate : d.state <;> simp [Du.recompute, Du.ownClass, hstate, TbState.isSelf]

section select
variable {n : Node} {c : Settled}

theorem Node.select_of_self
    (h : ∀ k ∈ n.du.cands, rankOf (n.du.selfClass c.h) n.rh.straps.node ≤ k.rank) :
    n.select c = { n.chooseSelf c with du := (n.chooseSelf c).du.recompute } := by
  unfold Node.select
  rcases hb : bestCand n.du.cands with _ | k
  · rfl
  · have hk := h k (bestCand_mem hb)
    simp only [Nat.not_lt.2 hk, if_false]

theorem Node.select_of_peer {k : Cand} (hin : k ∈ n.du.cands)
    (hless : k.rank < rankOf (n.du.selfClass c.h) n.rh.straps.node)
    (hbest : ∀ j ∈ n.du.cands, j ≠ k → k.rank < j.rank) :
    n.select c = { n.choosePeer c k with du := (n.choosePeer c k).du.recompute } := by
  unfold Node.select
  simp only [bestCand_eq hin hbest, hless, if_true]

theorem Node.select_cases (n : Node) (c : Settled) :
    ∃ m, n.select c = { m with du := m.du.recompute } ∧ (m = n.chooseSelf c ∨ ∃ k, m = n.choosePeer c k) := by
  unfold Node.select
  rcases bestCand n.du.cands with _ | k
  · exact ⟨_, rfl, .inl rfl⟩
  · refine ⟨_, rfl, ?_⟩
    dsimp only
    split
    · exact .inr ⟨k, rfl⟩
    · exact .inl rfl

theorem Node.Change.select (n : Node) (c : Settled) : n.Change c (n.select c) := by
  obtain ⟨m, heq, rfl | ⟨k, rfl⟩⟩ := n.select_cases c
  · rw [heq]
    exact (Node.Change.enter (n.du.selfState_ne_followLock c.h)).recompute
  · rw [heq]
    exact (Node.Change.choosePeer k).recompute

theorem Node.select_cls (n : Node) (c : Settled) : (n.select c).du.cls = (n.select c).du.ownClass := by
  obtain ⟨m, heq, -⟩ := n.select_cases c
  rw [heq]
  exact m.du.ownClass_recompute

theorem Node.enter_du_state (n : Node) (c : Settled) (state : TbState) (source : BitVec 4) :
    (n.enter c state source).du.state = state ∧ (n.enter c state source).du.source = source := by
  by_cases hch : state ≠ n.du.state ∨ source ≠ n.du.source
  · rw [Node.enter_du hch]
    exact ⟨rfl, rfl⟩
  · obtain ⟨hstate, hsource⟩ : state = n.du.state ∧ source = n.du.source := by tauto
    rw [Node.enter_of_same hstate hsource]
    exact ⟨hstate.symm, hsource.symm⟩

/-- A node that chooses itself comes to its own state and source. -/
theorem Node.select_self_state
    (h : ∀ k ∈ n.du.cands, rankOf (n.du.selfClass c.h) n.rh.straps.node ≤ k.rank) :
    (n.select c).du.state = n.du.selfState c.h ∧ (n.select c).du.source = n.rh.straps.node := by
  rw [Node.select_of_self h]
  exact n.enter_du_state c _ _

theorem Du.selfState_locked {d : Du} (h : d.mon = .locked) (k : Nat) : d.selfState k = .selfRef := if_pos h

section unlocked
variable {d : Du} (hmon : d.mon ≠ .locked) (k : Nat)
include hmon

theorem Du.selfState_of_lock (h : d.state = .selfRef ∨ d.state = .followLock) :
    d.selfState k = if k = 0 then .selfFree else .selfHold := by
  obtain h | h := h <;> simp [Du.selfState, hmon, h]

theorem Du.selfState_of_hold (h : d.state = .selfHold) : d.selfState k = .selfHold := by
  simp [Du.selfState, hmon, h]

theorem Du.selfState_of_free (h : d.state = .selfFree ∨ d.state = .followAcq) : d.selfState k = .selfFree := by
  obtain h | h := h <;> simp [Du.selfState, hmon, h]

end unlocked

/-- A peer chosen anew is followed from FOLLOW_ACQ on, with nothing known of its delay. -/
theorem Node.choosePeer_fields {k : Cand} (hf : n.du.follows k.node = false) :
    (n.choosePeer c k).du.state = .followAcq ∧ (n.choosePeer c k).du.source = k.node
    ∧ (n.choosePeer c k).du.srcCls = k.cls ∧ (n.choosePeer c k).du.dValid = false
    ∧ (n.choosePeer c k).du.probe = none ∧ (n.choosePeer c k).du.countdown = 0
    ∧ (n.started .probe = false → (n.choosePeer c k).mh.probe = none) := by
  have hch := Node.change_of_new hf
  obtain ⟨hstate, hsource⟩ := n.enter_du_state c .followAcq k.node
  rw [Node.choosePeer_of_new hf, Node.followPeer]
  refine ⟨by simpa using hstate, by simpa using hsource, by simp, by simp, by simp, by simp, fun hns => ?_⟩
  have hquiet : (n.enter c .followAcq k.node).started .probe = false := (Node.enter_started .probe).trans hns
  exact (Node.emptyProbe_probe _).trans (if_neg fun h => by cases hquiet.symm.trans h)

end select

/-- Settles O24: a selection is a change to the node's own state or to FOLLOW_ACQ, with the class taken anew. -/
theorem selection : Obligations.Selection := by
  intro n c
  have hchange := Node.Change.select n c
  have hframe := hchange.frame
  refine ⟨fun hself => ?_, fun k hin hless hbest => ?_, hchange.same, hchange.moved, hchange.source,
    hchange.probeStarted, fun hself hown => ?_, hchange.announceKept, hchange.holdEntered, hchange.holdLeft,
    hchange.holdKept, hchange.holdNever, hchange.lockLeft, hchange.refLeft, hchange.announceLeft, n.select_cls c, ?_,
    hframe.cands, ?_, hframe.frame⟩
  · obtain ⟨hstate, hsource⟩ := Node.select_self_state hself
    rw [hstate]
    refine ⟨hsource, fun hmon => Du.selfState_locked hmon _, fun hmon hd => ?_, fun hmon hd =>
      Du.selfState_of_hold hmon _ hd, fun hmon hd => Du.selfState_of_free hmon _ hd⟩
    have hto := Du.selfState_of_lock hmon c.h hd
    refine ⟨hto, fun hh => hchange.holdEntered ?_ ?_⟩
    · obtain hd | hd := hd <;> simp [hd]
    · rw [hstate, hto, if_neg hh]
  · rw [Node.select_of_peer hin hless hbest]
    rcases hf : n.du.follows k.node with _ | _
    · obtain ⟨hstate, hsource, hcls, hvalid, hprobe, hcount, hplace⟩ := Node.choosePeer_fields (c := c) hf
      have hsrc : (n.choosePeer c k).du.recompute.srcCls = k.cls := by
        simp [Du.recompute, hstate, TbState.isSelf, hcls]
      exact ⟨hsource, congrArg TbState.isSelf hstate, nofun, fun _ => ⟨hstate, hsrc, hvalid, hprobe, hcount, hplace⟩⟩
    · obtain ⟨hself, hsource⟩ := Du.follows_iff.1 hf
      rw [Node.choosePeer_of_follows hf]
      exact ⟨hsource, hself, fun _ => rfl, nofun⟩
  · have hsource := (Node.select_self_state hself).2
    rw [Node.select_of_self hself]
    show (n.chooseSelf c).mh.probe = n.mh.probe
    rw [Node.chooseSelf]
    by_cases hch : n.du.selfState c.h ≠ n.du.state ∨ n.rh.straps.node ≠ n.du.source
    · rw [Node.enter_probe hch, if_pos (.inl hown.symm)]
    · obtain ⟨hs, hsrc⟩ : n.du.selfState c.h = n.du.state ∧ n.rh.straps.node = n.du.source := by tauto
      rw [Node.enter_of_same hs hsrc]
  · rw [hframe.du]
  · rw [hframe.du]

end Sys2Proof.Machine
end

section
/-! SUPPORT. Frame starts: TB, SG and RH, then DU's credit, ages and checks (R21, R22, R37, R42 to R46, R187, R192). -/

namespace Sys2Proof.Machine

/-! ## What DU's part of a frame start may change -/

/-- From `n` to `t` nothing changed but what DU's part of a frame start may change. -/
structure StartFrame (n t : Node) : Prop where
  frame : t = { n with
    tb := { n.tb with q := t.tb.q, adoption := t.tb.adoption }, du := t.du
    mh := { n.mh with announce := t.mh.announce, probe := t.mh.probe }
    rh := { n.rh with notices := t.rh.notices } }
  adoption : n.tb.adoption = none → t.tb.adoption = none

namespace StartFrame

variable {a b t : Node}

theorem refl (n : Node) : StartFrame n n := ⟨rfl, id⟩

theorem trans (h1 : StartFrame a b) (h2 : StartFrame b t) : StartFrame a t :=
  ⟨by rw [h2.frame, h1.frame], fun h => h2.adoption (h1.adoption h)⟩

theorem of_change {c : Settled} (h : a.Change c t) : StartFrame a t := ⟨h.frame.frame, h.adoption⟩

theorem raise (n : Node) (src : Source) : StartFrame n (n.raise src) := ⟨rfl, id⟩

theorem tb_keeps (h : StartFrame a t) {α : Type} (f : Tb → α)
    (hf : ∀ tb q x, f { tb with q := q, adoption := x } = f tb) : f t.tb = f a.tb := by
  rw [h.frame, hf]

theorem rh_keeps (h : StartFrame a t) {α : Type} (f : Rh → α) (hf : ∀ rh k, f { rh with notices := k } = f rh) :
    f t.rh = f a.rh := by
  rw [h.frame, hf]

theorem sg (h : StartFrame a t) : t.sg = a.sg := by rw [h.frame]

theorem blocks (h : StartFrame a t) : t = { a with
    tb := t.tb, du := t.du, mh := { a.mh with announce := t.mh.announce, probe := t.mh.probe }, rh := t.rh } := by
  rw [h.frame]

theorem rh (h : StartFrame a t) : t.rh = { a.rh with notices := t.rh.notices } := by rw [h.frame]

end StartFrame

section start
variable {n : Node} {c : Settled}

theorem Node.refreshClass_change (n : Node) (c : Settled) : n.Change c (n.refreshClass c) := by
  unfold Node.refreshClass
  split
  · exact Node.Change.refl c n
  · exact Node.Change.select n c

theorem Node.expireHoldover_startFrame (n : Node) (c : Settled) : StartFrame n (n.expireHoldover c) :=
  ((StartFrame.of_change (Node.Change.enter (c := c) (by decide))).trans (StartFrame.raise _ _)).trans
    (StartFrame.of_change (Node.refreshClass_change _ c))

theorem Node.spendCredit_startFrame (n : Node) (c : Settled) : StartFrame n (n.spendCredit c) := by
  have hspent : StartFrame n { n with du := { n.du with credit := n.du.credit - 1 } } := ⟨rfl, id⟩
  unfold Node.spendCredit
  split
  · dsimp only
    split
    · exact hspent.trans (Node.expireHoldover_startFrame _ c)
    · exact hspent
  · exact StartFrame.refl n

theorem Node.removeAged_startFrame (n : Node) (c : Settled) : StartFrame n (n.removeAged c) := by
  have hyoung : StartFrame n { n with du := { n.du with cands := youngCands c.m n.du.cands } } := ⟨rfl, id⟩
  unfold Node.removeAged
  split
  · exact StartFrame.refl n
  · exact hyoung.trans (StartFrame.of_change (Node.Change.select _ c))

theorem Node.ageCands_startFrame (n : Node) (c : Settled) : StartFrame n (n.ageCands c) := by
  have hold : StartFrame n
      { n with du := { n.du with cands := n.du.cands.map fun k => { k with age := k.age + 1 } } } := ⟨rfl, id⟩
  exact hold.trans (Node.removeAged_startFrame _ c)

/-- The checks at the end of DU's part: the probe's timeout, then the queueing of a probe and of an ANNOUNCE. -/
def Node.startChecks (c : Settled) (n : Node) : Node :=
  Node.queueAnnounce c (Node.queueProbe c { n with du := n.du.lowerProbe })

theorem Node.frameStartDu_eq (c : Settled) (n : Node) :
    n.frameStartDu c = ((n.spendCredit c).ageCands c).startChecks c := rfl

theorem Node.queueAnnounce_eq (c : Settled) (n : Node) :
    n.queueAnnounce c = { n with mh := { n.mh with announce := (n.queueAnnounce c).mh.announce } } := by
  unfold Node.queueAnnounce
  split <;> rfl

theorem Node.queueAnnounce_iff (c : Settled) (n : Node) :
    (n.queueAnnounce c).mh.announce = true ↔ n.mh.announce = true
      ∨ (n.tb.frameNo.toNat % c.m = 0 ∧ n.du.state.isSelf = true ∧ n.rh.lifecycle = .running
        ∧ n.si.listenOnly = false) := by
  unfold Node.queueAnnounce
  split
  · next h => exact ⟨fun _ => .inr (by simpa [Node.mayAnnounce, and_assoc] using h), fun _ => rfl⟩
  · next h =>
    rw [iff_self_or]
    intro hboth
    exact absurd (by simpa [Node.mayAnnounce, and_assoc] using hboth) h

theorem Node.queueProbe_eq (c : Settled) (n : Node) :
    n.queueProbe c = { n with
      du := { n.du with countdown := (n.queueProbe c).du.countdown }
      mh := { n.mh with probe := (n.queueProbe c).mh.probe } } := by
  simp only [Node.queueProbe]
  split <;> rfl

theorem Node.wantsProbe_iff (n : Node) :
    n.wantsProbe = true ↔ n.du.state.isSelf = false ∧ n.si.listenOnly = false ∧ n.mh.probe = none ∧ n.du.probe = none
      ∧ (n.du.dValid = false ∨ n.du.countdown = 0) := by
  simp [Node.wantsProbe, and_assoc]

theorem Node.queueProbe_of_wanted {n : Node} (c : Settled)
    (h : n.du.state.isSelf = false ∧ n.si.listenOnly = false ∧ n.mh.probe = none ∧ n.du.probe = none
      ∧ (n.du.dValid = false ∨ n.du.countdown - 1 = 0)) :
    (n.queueProbe c).mh.probe = some n.du.source ∧ (n.queueProbe c).du.countdown = 4 * c.m := by
  have hwants := (Node.wantsProbe_iff { n with du := { n.du with countdown := n.du.countdown - 1 } }).2 h
  simp only [Node.queueProbe, hwants, if_true, and_self]

theorem Node.queueProbe_of_unwanted {n : Node} (c : Settled)
    (h : ¬(n.du.state.isSelf = false ∧ n.si.listenOnly = false ∧ n.mh.probe = none ∧ n.du.probe = none
      ∧ (n.du.dValid = false ∨ n.du.countdown - 1 = 0))) :
    (n.queueProbe c).mh.probe = n.mh.probe ∧ (n.queueProbe c).du.countdown = n.du.countdown - 1 := by
  have hwants := mt (Node.wantsProbe_iff { n with du := { n.du with countdown := n.du.countdown - 1 } }).1 h
  rw [Node.queueProbe]
  dsimp only
  rw [if_neg hwants]
  exact ⟨rfl, rfl⟩

theorem Du.lowerProbe_eq (d : Du) :
    d.lowerProbe = { d with probe := d.lowerProbe.probe, probeAbandoned := d.lowerProbe.probeAbandoned } := by
  unfold Du.lowerProbe
  repeat' split
  all_goals rfl

theorem Du.lowerProbe_none {d : Du} (h : d.probe = none) :
    d.lowerProbe.probe = none ∧ d.lowerProbe.probeAbandoned = d.probeAbandoned := by
  simp [Du.lowerProbe, h]

theorem Du.lowerProbe_some {d : Du} {p : Probe} (h : d.probe = some p) (hp : 2 ≤ p.frames) :
    d.lowerProbe.probe = some { p with frames := p.frames - 1 }
    ∧ d.lowerProbe.probeAbandoned = d.probeAbandoned := by
  have hmany : ¬p.frames ≤ 1 := by omega
  simp [Du.lowerProbe, h, hmany]

theorem Du.lowerProbe_last {d : Du} {p : Probe} (h : d.probe = some p) (hp : p.frames ≤ 1) :
    d.lowerProbe.probe = none ∧ d.lowerProbe.probeAbandoned = Counter.bump d.probeAbandoned := by
  simp [Du.lowerProbe, h, hp, Du.abandonProbe]

theorem Node.startChecks_eq (c : Settled) (n : Node) :
    n.startChecks c = { n with
      du := { n.du with
        probe := n.du.lowerProbe.probe, probeAbandoned := n.du.lowerProbe.probeAbandoned
        countdown := (Node.queueProbe c { n with du := n.du.lowerProbe }).du.countdown }
      mh := { n.mh with
        announce := (n.startChecks c).mh.announce
        probe := (Node.queueProbe c { n with du := n.du.lowerProbe }).mh.probe } } := by
  have hprobe := Node.queueProbe_eq c { n with du := n.du.lowerProbe }
  have hannounce := Node.queueAnnounce_eq c (Node.queueProbe c { n with du := n.du.lowerProbe })
  refine hannounce.trans ((congrArg (fun q : Node =>
    { q with mh := { q.mh with announce := (n.startChecks c).mh.announce } }) hprobe).trans ?_)
  exact congrArg (fun d : Du => { n with
    du := { d with countdown := (Node.queueProbe c { n with du := n.du.lowerProbe }).du.countdown }
    mh := { n.mh with
      announce := (n.startChecks c).mh.announce
      probe := (Node.queueProbe c { n with du := n.du.lowerProbe }).mh.probe } }) n.du.lowerProbe_eq

theorem Node.startChecks_startFrame (c : Settled) (n : Node) : StartFrame n (n.startChecks c) := by
  rw [Node.startChecks_eq]
  exact ⟨rfl, id⟩

theorem Node.frameStartDu_startFrame (n : Node) (c : Settled) : StartFrame n (n.frameStartDu c) :=
  ((n.spendCredit_startFrame c).trans (Node.ageCands_startFrame _ c)).trans (Node.startChecks_startFrame c _)

end start

/-! ## FRAME_START -/

theorem Node.after_frameStart_of_due {s : State} {c : Settled} {g : Gen} (hw : s.node.Works c)
    (hgen : s.node.tb.gen = some g) (hdue : reached s.node.tb.e g.scheduled = true) :
    s.node.after .frameStart = (s.node.frameStartTb c).frameStartDu c := by
  have hframe : s.node.tb.frameDue = true := by simp [Tb.frameDue, hgen, hdue]
  rw [Node.after_frameStart, Node.awake_of_high hw.1, Node.withCfg_of hw.2, if_pos hframe, Node.frameStart]

theorem Tb.adopted_of_none {tb : Tb} (h : tb.adoption = none) (c : Settled) (preset : Option Timecode)
    (number : Word16) : tb.adopted c preset number = none := by
  simp [Tb.adopted, h]

theorem Tb.plainTimecode_eq (c : Settled) (preset : Option Timecode) (tb : Tb) :
    tb.plainTimecode c preset = preset.getD (Timecode.advance c.r c.d tb.tc) := by
  cases preset <;> rfl

theorem Tb.adopted_of_some {tb : Tb} {a : Timecode} {k : Word16} (h : tb.adoption = some (a, k)) (c : Settled)
    (preset : Option Timecode) (number : Word16) :
    tb.adopted c preset number =
      if Timecode.advanceBy c.r c.d (number - k).toNat a = preset.getD (Timecode.advance c.r c.d tb.tc) then none
      else some (Timecode.advanceBy c.r c.d (number - k).toNat a) := by
  simp only [Tb.adopted, h, Tb.plainTimecode_eq]

/-- The timecode of a frame that adopts is the adopted value, be it the plain one or not. -/
theorem Tb.frameStart_tc_of_some {tb : Tb} {a : Timecode} {k : Word16} (h : tb.adoption = some (a, k)) (c : Settled)
    (preset : Option Timecode) :
    (tb.frameStart c preset).tc = Timecode.advanceBy c.r c.d (tb.frameNo + 1 - k).toNat a := by
  show (tb.adopted c preset (tb.frameNo + 1)).getD (tb.plainTimecode c preset) = _
  rw [Tb.adopted_of_some h, Tb.plainTimecode_eq]
  split
  · next heq => exact heq.symm
  · rfl

theorem Tb.frameStart_tc_of_none {tb : Tb} (h : tb.adoption = none) (c : Settled) (preset : Option Timecode) :
    (tb.frameStart c preset).tc = preset.getD (Timecode.advance c.r c.d tb.tc) := by
  show (tb.adopted c preset (tb.frameNo + 1)).getD (tb.plainTimecode c preset) = _
  rw [Tb.adopted_of_none h, Tb.plainTimecode_eq]
  rfl

theorem Tb.frameStart_adoptions_of_none {tb : Tb} (h : tb.adoption = none) (c : Settled) (preset : Option Timecode) :
    (tb.frameStart c preset).adoptions = tb.adoptions := by
  show (if (tb.adopted c preset (tb.frameNo + 1)).isSome then _ else _) = _
  rw [Tb.adopted_of_none h]
  rfl

theorem Tb.frameStart_adoptions_of_some {tb : Tb} {a : Timecode} {k : Word16} (h : tb.adoption = some (a, k))
    (c : Settled) (preset : Option Timecode) :
    (tb.frameStart c preset).adoptions =
      if Timecode.advanceBy c.r c.d (tb.frameNo + 1 - k).toNat a = preset.getD (Timecode.advance c.r c.d tb.tc)
      then tb.adoptions else Counter.bump tb.adoptions := by
  show (if (tb.adopted c preset (tb.frameNo + 1)).isSome then _ else _) = _
  rw [Tb.adopted_of_some h]
  split <;> rfl

theorem Sg.frameStart_of_vacant {sg : Sg} (h : sg.holder = none) :
    sg.frameStart = { sg with pins := sg.prior.getD sg.pins, prior := none } := by
  simp [Sg.frameStart, Sg.swap, h]

theorem Sg.frameStart_of_held {sg : Sg} {l : List StrobeEntry} (h : sg.holder = some l) :
    sg.frameStart = { sg with
      pins := sg.prior.getD sg.pins, prior := none, active := l, holder := none, swaps := Counter.bump sg.swaps } := by
  simp [Sg.frameStart, Sg.swap, h]

theorem Rh.countJoining_joining {rh : Rh} (h : rh.lifecycle = .joining) (hmany : 2 ≤ rh.joining) :
    rh.countJoining = { rh with joining := rh.joining - 1 } := by
  have hn : ¬rh.joining ≤ 1 := by omega
  simp [Rh.countJoining, h, hn]

theorem Rh.countJoining_last {rh : Rh} (h : rh.lifecycle = .joining) (hone : rh.joining = 1) :
    rh.countJoining = { rh with joining := 0, lifecycle := .running } := by
  simp [Rh.countJoining, h, hone]

theorem Rh.countJoining_running {rh : Rh} (h : rh.lifecycle = .running) : rh.countJoining = rh := by
  simp [Rh.countJoining, h]

theorem Rh.countJoining_eq (rh : Rh) :
    rh.countJoining = { rh with lifecycle := rh.countJoining.lifecycle, joining := rh.countJoining.joining } := by
  unfold Rh.countJoining
  repeat' split
  all_goals rfl

theorem Node.frameStartTb_rh (n : Node) (c : Settled) :
    (n.frameStartTb c).rh = { n.rh with
      runtime := (n.frameStartTb c).rh.runtime, pending := (n.frameStartTb c).rh.pending
      lifecycle := (n.frameStartTb c).rh.lifecycle, joining := (n.frameStartTb c).rh.joining } := by
  simp only [Node.frameStartTb]
  rw [Rh.countJoining_eq]
  rfl

/-- Settles O20: TB, SG and RH as their own parts make them; DU's part leaves of TB only Q and a dropped adoption. -/
theorem frameStart : Obligations.FrameStart := by
  intro s c g hw hgen hdue
  rw [yields_iff_after, Node.after_frameStart_of_due hw hgen hdue]
  have hstart := (s.node.frameStartTb c).frameStartDu_startFrame c
  have htrim := hstart.tb_keeps Tb.trim (fun _ _ _ => rfl)
  have htc := hstart.tb_keeps Tb.tc (fun _ _ _ => rfl)
  have hcount := hstart.tb_keeps Tb.adoptions (fun _ _ _ => rfl)
  have hlife := hstart.rh_keeps Rh.lifecycle (fun _ _ => rfl)
  have hjoin := hstart.rh_keeps Rh.joining (fun _ _ => rfl)
  have hstepped : s.node.tb.isStepped = g.step.isSome := by simp [Tb.isStepped, hgen]
  have hsg : ((s.node.frameStartTb c).frameStartDu c).sg = s.node.sg.frameStart := hstart.sg
  refine ⟨hstart.tb_keeps Tb.e (fun _ _ _ => rfl), hstart.tb_keeps Tb.frameNo (fun _ _ _ => rfl), ?_,
    hstart.tb_keeps Tb.line (fun _ _ _ => rfl), hstart.tb_keeps Tb.tick (fun _ _ _ => rfl), htrim,
    ⟨_, hstart.tb_keeps Tb.gen (fun _ _ _ => rfl), rfl, rfl, ?_, rfl⟩, hstart.adoption rfl, fun hnone hnop => ?_,
    fun hnone p hp => ?_, fun a k hak => htc.trans (Tb.frameStart_tc_of_some hak c _), fun hnone =>
    hcount.trans (Tb.frameStart_adoptions_of_none hnone c _), fun a k hak =>
    hcount.trans (Tb.frameStart_adoptions_of_some hak c _), ?_, ?_, fun hvacant => ?_, fun l hl => ?_, ?_, ?_, ?_,
    fun hl hmany => ?_, fun hl hone => ?_, fun hl => ?_, ?_⟩
  · rw [← hstepped]
    exact hstart.tb_keeps Tb.history (fun _ _ _ => rfl)
  · rw [htrim]
    rfl
  · refine htc.trans ((Tb.frameStart_tc_of_none hnone c _).trans ?_)
    rw [hnop]
    rfl
  · refine htc.trans ((Tb.frameStart_tc_of_none hnone c _).trans ?_)
    rw [hp]
    rfl
  · exact (hstart.rh_keeps Rh.runtime (fun _ _ => rfl)).trans
      (congrArg Rh.runtime s.node.rh.applyRuntime.countJoining_eq)
  · exact (hstart.rh_keeps Rh.pending (fun _ _ => rfl)).trans
      (congrArg Rh.pending s.node.rh.applyRuntime.countJoining_eq)
  · rw [hsg, Sg.frameStart_of_vacant hvacant]
    exact ⟨rfl, rfl⟩
  · rw [hsg, Sg.frameStart_of_held hl]
    exact ⟨rfl, rfl⟩
  · rw [hsg]
    exact Sg.frameStart_holder
  · rw [hsg]
    rcases hh : s.node.sg.holder with _ | l
    · rw [Sg.frameStart_of_vacant hh]
    · rw [Sg.frameStart_of_held hh]
  · rw [hsg]
    rcases hh : s.node.sg.holder with _ | l
    · rw [Sg.frameStart_of_vacant hh]
    · rw [Sg.frameStart_of_held hh]
  · have hcj := Rh.countJoining_joining (rh := s.node.rh.applyRuntime) hl hmany
    exact ⟨hlife.trans ((congrArg Rh.lifecycle hcj).trans hl), hjoin.trans (congrArg Rh.joining hcj)⟩
  · have hcj := Rh.countJoining_last (rh := s.node.rh.applyRuntime) hl hone
    exact ⟨hlife.trans (congrArg Rh.lifecycle hcj), hjoin.trans (congrArg Rh.joining hcj)⟩
  · have hcj := Rh.countJoining_running (rh := s.node.rh.applyRuntime) hl
    exact hlife.trans ((congrArg Rh.lifecycle hcj).trans hl)
  · have hpend := hstart.rh_keeps Rh.pending (fun _ _ => rfl)
    have hrun := hstart.rh_keeps Rh.runtime (fun _ _ => rfl)
    have hrh := hstart.rh.trans (congrArg (fun rh : Rh =>
      { rh with notices := ((s.node.frameStartTb c).frameStartDu c).rh.notices }) (s.node.frameStartTb_rh c))
    dsimp only at hrh
    rw [← hpend, ← hrun, ← hlife, ← hjoin] at hrh
    rw [← hrh, hstart.sg]
    exact hstart.blocks

end Sys2Proof.Machine
end

section
/-! SUPPORT. What DU does at a frame start, step by step, and its events as commands of their own (R22, R37, R42 to R46,
R187; log entries 5 and 8). -/

namespace Sys2Proof.Machine

/-! ## The checks -/

/-- What the checks at the end of a frame start leave of the node before them. -/
theorem Node.startChecks_spec (c : Settled) (n t : Node) (ht : t = n.startChecks c) :
    t.du = { n.du with probe := t.du.probe, probeAbandoned := t.du.probeAbandoned, countdown := t.du.countdown }
    ∧ (n.du.probe = none → t.du.probe = none ∧ t.du.probeAbandoned = n.du.probeAbandoned)
    ∧ (∀ p, n.du.probe = some p → 2 ≤ p.frames →
        t.du.probe = some { p with frames := p.frames - 1 } ∧ t.du.probeAbandoned = n.du.probeAbandoned)
    ∧ (∀ p, n.du.probe = some p → p.frames ≤ 1 →
        t.du.probe = none ∧ t.du.probeAbandoned = Counter.bump n.du.probeAbandoned)
    ∧ ((n.du.state.isSelf = false ∧ n.si.listenOnly = false ∧ n.mh.probe = none ∧ t.du.probe = none
          ∧ (n.du.dValid = false ∨ n.du.countdown - 1 = 0)) →
        t.mh.probe = some n.du.source ∧ t.du.countdown = 4 * c.m)
    ∧ (¬ (n.du.state.isSelf = false ∧ n.si.listenOnly = false ∧ n.mh.probe = none ∧ t.du.probe = none
          ∧ (n.du.dValid = false ∨ n.du.countdown - 1 = 0)) →
        t.mh.probe = n.mh.probe ∧ t.du.countdown = n.du.countdown - 1)
    ∧ (t.mh.announce = true ↔ n.mh.announce = true
        ∨ (n.tb.frameNo.toNat % c.m = 0 ∧ n.du.state.isSelf = true ∧ n.rh.lifecycle = .running
          ∧ n.si.listenOnly = false))
    ∧ t = { n with du := t.du, mh := { n.mh with announce := t.mh.announce, probe := t.mh.probe } } := by
  have heq := Node.startChecks_eq c n
  rw [← ht] at heq
  have hprobe : t.du.probe = n.du.lowerProbe.probe := by rw [heq]
  have hcount : t.du.probeAbandoned = n.du.lowerProbe.probeAbandoned := by rw [heq]
  have hplace : t.mh.probe = (Node.queueProbe c { n with du := n.du.lowerProbe }).mh.probe := by rw [heq]
  have hdown : t.du.countdown = (Node.queueProbe c { n with du := n.du.lowerProbe }).du.countdown := by rw [heq]
  have hlower := n.du.lowerProbe_eq
  have hdu : t.du =
      { n.du with probe := t.du.probe, probeAbandoned := t.du.probeAbandoned, countdown := t.du.countdown } := by
    rw [heq]
  refine ⟨hdu, ?_, ?_, ?_, ?_, ?_, ?_, by rw [heq]⟩
  · rw [hprobe, hcount]
    exact Du.lowerProbe_none
  · rw [hprobe, hcount]
    exact fun p => Du.lowerProbe_some
  · rw [hprobe, hcount]
    exact fun p => Du.lowerProbe_last
  · rw [hprobe, hplace, hdown]
    intro h
    refine (Node.queueProbe_of_wanted (n := { n with du := n.du.lowerProbe }) c ?_).imp_left fun hp => hp.trans ?_
    · rw [hlower]
      exact h
    · rw [hlower]
  · rw [hprobe, hplace, hdown]
    intro h
    refine (Node.queueProbe_of_unwanted (n := { n with du := n.du.lowerProbe }) c ?_).imp_right fun hp => hp.trans ?_
    · rw [hlower]
      exact h
    · rw [hlower]
  · have hiff := Node.queueAnnounce_iff c (Node.queueProbe c { n with du := n.du.lowerProbe })
    rw [Node.queueProbe_eq, hlower] at hiff
    rw [ht, Node.startChecks, Node.queueProbe_eq, hlower]
    exact hiff

/-! ## Credit and ages -/

section credit
variable {n : Node} {c : Settled}

theorem Node.spendCredit_of_other (h : n.du.state ≠ .selfHold) : n.spendCredit c = n := if_neg h

theorem Node.spendCredit_of_many (h : n.du.state = .selfHold) (hmany : 2 ≤ n.du.credit) :
    n.spendCredit c = { n with du := { n.du with credit := n.du.credit - 1 } } := by
  have hleft : n.du.credit - 1 ≠ 0 := by omega
  simp [Node.spendCredit, h, hleft]

/-- The node with a frame's holdover credit spent. -/
def Node.creditSpent (n : Node) : Node :=
  { n with du := { n.du with credit := if n.du.state = .selfHold then n.du.credit - 1 else n.du.credit } }

theorem Node.spendCredit_of_lasting (h : n.du.state = .selfHold → 2 ≤ n.du.credit) :
    n.spendCredit c = n.creditSpent := by
  unfold Node.creditSpent
  by_cases hstate : n.du.state = .selfHold
  · rw [if_pos hstate]
    exact Node.spendCredit_of_many hstate (h hstate)
  · rw [if_neg hstate]
    exact Node.spendCredit_of_other hstate

/-- The node in SELF_FREE as the end of its credit brings it there, before its class is taken anew. -/
def Node.expired (n : Node) : Node :=
  { n with
    du := { n.du with state := .selfFree, credit := 0, lock := 0 }
    tb := { n.tb with q := n.du.i }
    rh := { n.rh with notices := raiseBit n.rh.notices 5 } }

theorem Node.expired_pending (n : Node) : n.expired.rh.isPending 5 = true := raiseBit_self _ 5 (by decide)

theorem Node.expired_eq (h : n.du.state = .selfHold) :
    (n.enter c .selfFree n.du.source).raise .holdoverExpired = n.expired := by
  have hch : .selfFree ≠ n.du.state ∨ n.du.source ≠ n.du.source := .inl (by simp [h])
  rw [Node.enter_of_change hch]
  simp [h, Du.losesLock, Node.leavePlaces, TbState.isSelf, Du.enter, Tb.enter, isLockEntry, Node.raiseIf, Node.raise,
    Source.num, Node.expired]

theorem Node.spendCredit_of_last (h : n.du.state = .selfHold) (hlast : n.du.credit ≤ 1) :
    n.spendCredit c = n.expired.refreshClass c := by
  have hleft : n.du.credit - 1 = 0 := by omega
  have hexpired := Node.expired_eq (n := { n with du := { n.du with credit := n.du.credit - 1 } }) (c := c) h
  simp only [Node.spendCredit, h, if_true, hleft, Node.expireHoldover] at hexpired ⊢
  rw [hexpired]
  rfl

theorem Node.removeAged_of_old (h : ∃ k ∈ n.du.cands, 3 * c.m ≤ k.age) :
    n.removeAged c = Node.select c
      { n with du := { n.du with cands := n.du.cands.filter fun k => decide (k.age < 3 * c.m) } } := by
  obtain ⟨k, hk, hage⟩ := h
  have hless : (youngCands c.m n.du.cands).length ≠ n.du.cands.length := fun heq => by
    have hall := (List.length_filter_eq_length_iff.1 heq) k hk
    rw [decide_eq_true_eq] at hall
    omega
  exact if_neg hless

theorem Node.ageCands_of_young (h : ∀ k ∈ n.du.cands, k.age + 1 < 3 * c.m) :
    n.ageCands c = { n with
      du := { n.du with cands := n.du.cands.map fun k => { k with age := k.age + 1 } } } :=
  Node.removeAged_of_young (by simpa using h)

theorem Node.ageCands_of_old (h : ∃ k ∈ n.du.cands, 3 * c.m ≤ k.age + 1) :
    n.ageCands c = Node.select c { n with
      du := { n.du with cands :=
        (n.du.cands.map fun k => { k with age := k.age + 1 }).filter fun k => decide (k.age < 3 * c.m) } } :=
  Node.removeAged_of_old (by simpa using h)

end credit

theorem yields_frameStart {s : State} {c : Settled} {g : Gen} (hw : s.node.Works c) (hgen : s.node.tb.gen = some g)
    (hdue : reached s.node.tb.e g.scheduled = true) {P : Node → Prop} :
    Yields .frameStart s P ↔ P ((((s.node.frameStartTb c).spendCredit c).ageCands c).startChecks c) := by
  rw [yields_iff_after, Node.after_frameStart_of_due hw hgen hdue, Node.frameStartDu_eq]

/-- A credit that runs out, as the obligation tells it: SELF_FREE, then the selection that a class change starts. -/
theorem Node.spendCredit_expires {n : Node} {c : Settled} (h : n.du.state = .selfHold) (hlast : n.du.credit ≤ 1) :
    ∃ m : Node,
      m.du = { n.du with state := .selfFree, credit := 0, lock := 0 } ∧ m.tb = { n.tb with q := n.du.i }
      ∧ m.rh.isPending 5 = true
      ∧ m = { n with du := m.du, tb := m.tb, rh := { n.rh with notices := m.rh.notices } }
      ∧ (m.du.ownClass = m.du.cls → n.spendCredit c = m) ∧ (m.du.ownClass ≠ m.du.cls → n.spendCredit c = m.select c) :=
  ⟨n.expired, rfl, rfl, n.expired_pending, rfl, fun hsame => (Node.spendCredit_of_last h hlast).trans (if_pos hsame),
    fun hother => (Node.spendCredit_of_last h hlast).trans (if_neg hother)⟩

/-- Settles O21: the credit, the ages and the checks each by their cases; without a selection they are spelled out. -/
theorem frameStartDiscipline : Obligations.FrameStartDiscipline := by
  refine ⟨fun s c g n hw hgen hdue hn => ?_, fun s c g hw hgen hdue hyoung hmany => ?_⟩
  · have hdu : n.du = s.node.du := by rw [hn]; rfl
    refine ⟨hdu, by rw [hn]; rfl, by rw [hn]; rfl, n.spendCredit c, (n.spendCredit c).ageCands c, ?_⟩
    rw [← hdu]
    refine ⟨Node.spendCredit_of_other, Node.spendCredit_of_many, Node.spendCredit_expires, Node.ageCands_of_young,
      Node.ageCands_of_old, ?_⟩
    · rw [yields_frameStart hw hgen hdue, ← hn]
      exact Node.startChecks_spec c _ _ rfl
  · rw [yields_frameStart hw hgen hdue]
    rw [Node.spendCredit_of_lasting (n := s.node.frameStartTb c) hmany,
      Node.ageCands_of_young (n := (s.node.frameStartTb c).creditSpent) hyoung]
    obtain ⟨hdu, hnone, hsome, hlast, hwanted, hunwanted, hannounce, hblocks⟩ := Node.startChecks_spec c _ _ rfl
    have hlife := congrArg (fun n : Node => n.rh.lifecycle) hblocks
    refine ⟨(congrArg Du.state hdu :), (congrArg Du.source hdu :), (congrArg Du.cls hdu :), (congrArg Du.cands hdu :),
      (congrArg Du.credit hdu :), hnone, hsome,
      fun p hp hone => hlast p hp (by omega), hwanted, hunwanted, ?_⟩
    rw [hannounce]
    dsimp only at hlife
    rw [hlife]
    rfl

/-! ## The events alone -/

theorem Node.enterRunning_of_due {n : Node} {c : Settled} (hlife : n.rh.lifecycle = .joining) (h : n.rh.joining = 0) :
    n.enterRunning c = Node.queueAnnounce c { n with rh := { n.rh with lifecycle := .running } } := by
  simp [Node.enterRunning, hlife, h]

/-- A selection brings a node of its own choice to its own state, any other to one of the FOLLOW states. -/
theorem Node.select_state (n : Node) (c : Settled) :
    (n.select c).du.state = n.du.selfState c.h ∨ (n.select c).du.state.isSelf = false := by
  obtain ⟨m, heq, rfl | ⟨k, rfl⟩⟩ := n.select_cases c
  · rw [heq]
    exact .inl (n.enter_du_state c _ _).1
  · rw [heq]
    refine .inr ?_
    rcases hf : n.du.follows k.node with _ | _
    · exact congrArg TbState.isSelf (Node.choosePeer_fields (c := c) hf).1
    · rw [Node.choosePeer_of_follows hf]
      exact (Du.follows_iff.1 hf).1

theorem Du.selfState_of_selfFree {d : Du} (h : d.state = .selfFree) (k : Nat) : d.selfState k ≠ .selfHold := by
  unfold Du.selfState
  rw [h]
  split <;> nofun

/-- From SELF_FREE no class change leads to SELF_HOLD. -/
theorem Node.refreshClass_of_selfFree {n : Node} (h : n.du.state = .selfFree) (c : Settled) :
    (n.refreshClass c).du.state ≠ .selfHold ∧ (n.refreshClass c).du.credit = n.du.credit := by
  have hstate : (n.refreshClass c).du.state ≠ .selfHold := by
    unfold Node.refreshClass
    split
    · rw [h]
      nofun
    · obtain hself | hpeer := n.select_state c
      · rw [hself]
        exact Du.selfState_of_selfFree h _
      · intro heq
        rw [heq] at hpeer
        cases hpeer
  exact ⟨hstate, (n.refreshClass_change c).holdNever (by rw [h]; nofun) hstate⟩

theorem Du.ownClass_of_selfFree {d : Du} (hmon : d.mon ≠ .locked) (h : d.state = .selfFree) : d.ownClass = 2 := by
  simp [Du.ownClass, hmon, h]

/-- A node alone in SELF_FREE, with no locked reference, stays there with class 2. -/
theorem Node.refreshClass_of_alone {n : Node} (h : n.du.state = .selfFree) (hcands : n.du.cands = [])
    (hmon : n.du.mon ≠ .locked) (hsource : n.du.source = n.rh.straps.node) (c : Settled) :
    (n.refreshClass c).du.state = .selfFree ∧ (n.refreshClass c).du.cls = 2 ∧ (n.refreshClass c).tb = n.tb := by
  have hclass := Du.ownClass_of_selfFree hmon h
  unfold Node.refreshClass
  split
  · next hsame => exact ⟨h, hsame.symm.trans hclass, rfl⟩
  · obtain ⟨hstate, hsrc⟩ := Node.select_self_state (n := n) (c := c) (by rw [hcands]; nofun)
    have hfree : (n.select c).du.state = .selfFree := hstate.trans (Du.selfState_of_free hmon _ (.inl h))
    have hchange := Node.Change.select n c
    have hmon' : (n.select c).du.mon ≠ .locked := by
      rw [hchange.frame.du]
      exact hmon
    refine ⟨hfree, (n.select_cls c).trans (Du.ownClass_of_selfFree hmon' hfree), ?_⟩
    exact (hchange.same (hfree.trans h.symm) (hsrc.trans hsource.symm)).1

/-- Settles O22: each event carried out where its condition stands. -/
theorem frameStartEventsAlone : Obligations.FrameStartEventsAlone := by
  intro s c hw
  refine ⟨fun hlife hjoin => ?_, fun hold => ?_, fun hstate hcredit => ?_, fun p hp hframes => ?_⟩
  · rw [yields_iff_after, Node.after_runningEntry, Node.awake_of_high hw.1, Node.withCfg_of hw.2,
      Node.enterRunning_of_due hlife hjoin]
    have hannounce := Node.queueAnnounce_iff c { s.node with rh := { s.node.rh with lifecycle := .running } }
    have hblocks := Node.queueAnnounce_eq c { s.node with rh := { s.node.rh with lifecycle := .running } }
    have hrh := congrArg Node.rh hblocks
    refine ⟨hrh, ?_, ?_⟩
    · rw [hannounce]
      simp
    · rw [hrh]
      exact hblocks
  · rw [yields_iff_after, Node.after_candidateRemoved, Node.awake_of_high hw.1, Node.withCfg_of hw.2,
      Node.removeAged_of_old hold]
    have hcands := (Node.Change.select { s.node with du := { s.node.du with
      cands := s.node.du.cands.filter fun k => decide (k.age < 3 * c.m) } } c).frame.cands
    refine ⟨hcands, fun hnone => ?_⟩
    rw [hcands] at hnone
    obtain ⟨hstate, hsource⟩ := Node.select_self_state (c := c) (n := { s.node with du := { s.node.du with
      cands := s.node.du.cands.filter fun k => decide (k.age < 3 * c.m) } }) (by rw [hnone]; nofun)
    exact ⟨hsource, (congrArg TbState.isSelf hstate).trans (Du.selfState_isSelf _ _)⟩
  · rw [yields_iff_after, Node.after_holdoverExpired, Node.awake_of_high hw.1, Node.withCfg_of hw.2,
      if_pos (by simp [hstate, hcredit]), Node.expireHoldover, Node.expired_eq hstate]
    obtain ⟨hleft, hzero⟩ := Node.refreshClass_of_selfFree (n := s.node.expired) rfl c
    refine ⟨(Node.refreshClass_change _ c).pending 5 s.node.expired_pending, hleft, hzero, fun hcands hmon hsource => ?_⟩
    obtain ⟨hfree, hcls, htb⟩ := Node.refreshClass_of_alone (n := s.node.expired) rfl hcands hmon hsource c
    exact ⟨hfree, hcls, congrArg Tb.q htb⟩
  · have hexpired : s.node.du.probeExpired = true := by simp [Du.probeExpired, hp, hframes]
    rw [yields_iff_after, Node.after_probeTimeout, Node.awake_of_high hw.1, if_pos hexpired]
    rfl

end Sys2Proof.Machine
end

section
/-! SUPPORT. The timebase's arithmetic: trims, timecodes, phase errors, the nearest start, renumbering (R19, R26 to R28,
R54, R56). -/

namespace Sys2Proof.Machine

/-! ## Trims -/

/-- The trim that a frame has by its number's residue. -/
def trimAt (q : Int) (residue : Nat) : Int := if (residue : Int) < q % 16 then q / 16 + 1 else q / 16

theorem trimOf_eq (q : Int) (n : Word16) : trimOf q n = trimAt q (n.toNat % 16) := by
  have hrem : q - 16 * (q / 16) = q % 16 := by omega
  rw [trimOf, hrem, trimAt]

theorem trimOf_bounds {q : Int} (hlow : -1023 ≤ q) (hhigh : q ≤ 1023) (n : Word16) :
    -64 ≤ trimOf q n ∧ trimOf q n ≤ 64 := by
  rw [trimOf_eq, trimAt]
  split <;> omega

/-- Of the first `m` values, `x` are one more than the rest. -/
theorem sum_range_steps (a x : Int) (hx : 0 ≤ x) (m : Nat) :
    ((List.range m).map fun j : Nat => if (j : Int) < x then a + 1 else a).sum = m * a + min (m : Int) x := by
  induction m with
  | zero => simp [hx]
  | succ m ih =>
    have hmul : ((m + 1 : Nat) : Int) * a = m * a + a := by push_cast; ring
    rw [List.range_succ, List.map_append, List.sum_append, ih, hmul]
    simp only [List.map_cons, List.map_nil, List.sum_cons, List.sum_nil]
    split <;> omega

theorem sum_trimAt (q : Int) : ((List.range 16).map (trimAt q)).sum = q := by
  have hsum := sum_range_steps (q / 16) (q % 16) (by omega) 16
  rw [show trimAt q = fun j : Nat => if (j : Int) < q % 16 then q / 16 + 1 else q / 16 from rfl, hsum]
  omega

/-- Sixteen consecutive numbers have the sixteen residues, each once. -/
theorem residues_perm : ∀ r < 16, ((List.range 16).map fun k => (r + k) % 16).Perm (List.range 16) := by
  decide

theorem residue_add (n : Word16) (k : Nat) : (n + BitVec.ofNat 16 k).toNat % 16 = (n.toNat % 16 + k) % 16 := by
  rw [BitVec.toNat_add, BitVec.toNat_ofNat]
  omega

theorem sum_trimOf (q : Int) (n : Word16) :
    ((List.range 16).map fun k => trimOf q (n + BitVec.ofNat 16 k)).sum = q := by
  have hperm := (residues_perm (n.toNat % 16) (Nat.mod_lt _ (by decide))).map (trimAt q)
  rw [List.map_map] at hperm
  have hmap : (List.range 16).map (fun k => trimOf q (n + BitVec.ofNat 16 k)) =
      (List.range 16).map (trimAt q ∘ fun k => (n.toNat % 16 + k) % 16) :=
    List.map_congr_left fun k _ => by rw [trimOf_eq, residue_add, Function.comp]
  rw [hmap, hperm.sum_eq, sum_trimAt]

/-! ## Binary-coded decimal -/

section bcd
variable {k : Nat} (h : k < 100)
include h

theorem toBcd_toNat : (toBcd k).toNat = 16 * (k / 10) + k % 10 := by
  rw [toBcd, BitVec.toNat_ofNat]
  omega

theorem tens_toBcd : tens (toBcd k) = k / 10 := by
  rw [tens, toBcd_toNat h]
  omega

theorem bcdVal_toBcd : bcdVal (toBcd k) = k := by
  rw [bcdVal, tens, units, toBcd_toNat h]
  omega

theorem isBcd_toBcd : isBcd (toBcd k) = true := by
  have hunits : units (toBcd k) = k % 10 := by
    rw [units, toBcd_toNat h]
    omega
  simp only [isBcd, tens_toBcd h, hunits, Bool.and_eq_true, decide_eq_true_eq]
  omega

end bcd

/-! ## Timecodes -/

/-- The digits and ranges of a legal timecode, but for its pair flag. -/
structure Timecode.InRange (r : Nat) (t : Timecode) : Prop where
  hours : isBcd t.hours = true
  minutes : isBcd t.minutes = true
  seconds : isBcd t.seconds = true
  frames : isBcd t.frames = true
  minutesLow : tens t.minutes ≤ 5
  secondsLow : tens t.seconds ≤ 5
  hoursLow : bcdVal t.hours ≤ 23
  framesLow : bcdVal t.frames < r

theorem Timecode.legal_iff {t : Timecode} {r d : Nat} :
    t.legal r d = true ↔ t.InRange r ∧ (d = 1 → t.pair = false) := by
  have hpair : (d != 1 || !t.pair) = true ↔ (d = 1 → t.pair = false) := by
    by_cases hd : d = 1 <;> simp [hd]
  simp only [Timecode.legal, Bool.and_eq_true, decide_eq_true_eq, hpair]
  constructor
  · rintro ⟨⟨⟨⟨⟨⟨⟨⟨h1, h2⟩, h3⟩, h4⟩, h5⟩, h6⟩, h7⟩, h8⟩, hp⟩
    exact ⟨⟨h1, h2, h3, h4, h5, h6, h7, h8⟩, hp⟩
  · rintro ⟨⟨h1, h2, h3, h4, h5, h6, h7, h8⟩, hp⟩
    exact ⟨⟨⟨⟨⟨⟨⟨⟨h1, h2⟩, h3⟩, h4⟩, h5⟩, h6⟩, h7⟩, h8⟩, hp⟩

theorem bcdVal_lt_sixty {b : Byte} (hbcd : isBcd b = true) (htens : tens b ≤ 5) : bcdVal b < 60 := by
  simp only [isBcd, Bool.and_eq_true, decide_eq_true_eq] at hbcd
  rw [bcdVal]
  omega

theorem Timecode.countUp_pair (r : Nat) (t : Timecode) : (t.countUp r).pair = t.pair := by
  unfold Timecode.countUp
  repeat' split
  all_goals rfl

/-- One more frame count: the day's count goes up by one and comes round at its end. -/
theorem Timecode.countUp_spec {r : Nat} (hr : r = 24 ∨ r = 25 ∨ r = 30) {t : Timecode} (h : t.InRange r) :
    (t.countUp r).InRange r ∧ (t.countUp r).count r = (t.count r + 1) % (86400 * r) := by
  have hframes := h.framesLow
  have hhours := h.hoursLow
  have hminutes := bcdVal_lt_sixty h.minutes h.minutesLow
  have hseconds := bcdVal_lt_sixty h.seconds h.secondsLow
  have hzero : bcdVal 0 = 0 := rfl
  have hdigits : isBcd 0 = true := by decide
  have htens : tens 0 ≤ 5 := by decide
  unfold Timecode.countUp
  split
  · next hlt =>
    have hk : bcdVal t.frames + 1 < 100 := by omega
    refine ⟨{ h with frames := isBcd_toBcd hk, framesLow := by rw [bcdVal_toBcd hk]; exact hlt }, ?_⟩
    simp only [Timecode.count, bcdVal_toBcd hk]
    obtain rfl | rfl | rfl := hr <;> omega
  · next hframe =>
    split
    · next hlt =>
      have hk : bcdVal t.seconds + 1 < 100 := by omega
      refine ⟨{ h with
        frames := hdigits, framesLow := by rw [hzero]; omega, seconds := isBcd_toBcd hk
        secondsLow := by rw [tens_toBcd hk]; omega }, ?_⟩
      simp only [Timecode.count, bcdVal_toBcd hk, hzero]
      obtain rfl | rfl | rfl := hr <;> omega
    · next hsecond =>
      split
      · next hlt =>
        have hk : bcdVal t.minutes + 1 < 100 := by omega
        refine ⟨{ h with
          frames := hdigits, framesLow := by rw [hzero]; omega, seconds := hdigits, secondsLow := htens
          minutes := isBcd_toBcd hk, minutesLow := by rw [tens_toBcd hk]; omega }, ?_⟩
        simp only [Timecode.count, bcdVal_toBcd hk, hzero]
        obtain rfl | rfl | rfl := hr <;> omega
      · next hminute =>
        split
        · next hlt =>
          have hk : bcdVal t.hours + 1 < 100 := by omega
          refine ⟨{
            frames := hdigits, framesLow := by rw [hzero]; omega, seconds := hdigits, secondsLow := htens
            minutes := hdigits, minutesLow := htens, hours := isBcd_toBcd hk
            hoursLow := by rw [bcdVal_toBcd hk]; omega }, ?_⟩
          simp only [Timecode.count, bcdVal_toBcd hk, hzero]
          obtain rfl | rfl | rfl := hr <;> omega
        · next hhour =>
          refine ⟨{
            frames := hdigits, framesLow := by rw [hzero]; omega, seconds := hdigits, secondsLow := htens
            minutes := hdigits, minutesLow := htens, hours := hdigits, hoursLow := by rw [hzero]; omega }, ?_⟩
          simp only [Timecode.count, hzero]
          obtain rfl | rfl | rfl := hr <;> omega

theorem Timecode.advance_one (r : Nat) (t : Timecode) : t.advance r 1 = t.countUp r := rfl

theorem Timecode.advance_two (r : Nat) (t : Timecode) :
    t.advance r 2 = if t.pair then Timecode.countUp r { t with pair := false } else { t with pair := true } := rfl

theorem Timecode.advance_one_spec {r : Nat} (hr : r = 24 ∨ r = 25 ∨ r = 30) {t : Timecode} (h : t.legal r 1 = true) :
    (t.advance r 1).legal r 1 = true ∧ (t.advance r 1).count r = (t.count r + 1) % (86400 * r) := by
  obtain ⟨hrange, hpair⟩ := Timecode.legal_iff.1 h
  obtain ⟨hnext, hcount⟩ := Timecode.countUp_spec hr hrange
  rw [Timecode.advance_one]
  exact ⟨Timecode.legal_iff.2 ⟨hnext, fun hd => (t.countUp_pair r).trans (hpair hd)⟩, hcount⟩

theorem Timecode.advance_two_spec {r : Nat} (hr : r = 24 ∨ r = 25 ∨ r = 30) {t : Timecode} (h : t.legal r 2 = true) :
    (t.advance r 2).legal r 2 = true ∧ (t.advance r 2).pair = !t.pair
    ∧ (t.advance r 2).count r = (if t.pair = true then (t.count r + 1) % (86400 * r) else t.count r) := by
  obtain ⟨hrange, -⟩ := Timecode.legal_iff.1 h
  rw [Timecode.advance_two]
  rcases hp : t.pair with _ | _
  · exact ⟨Timecode.legal_iff.2 ⟨{ hrange with }, nofun⟩, rfl, rfl⟩
  · obtain ⟨hnext, hcount⟩ := Timecode.countUp_spec hr (t := { t with pair := false }) { hrange with }
    exact ⟨Timecode.legal_iff.2 ⟨hnext, nofun⟩, Timecode.countUp_pair r _, hcount⟩

/-! ## Phase errors -/

theorem reduceError_spec {p : Nat} (hp : 0 < p) (e : Int) :
    -(p : Int) < 2 * reduceError p e ∧ 2 * reduceError p e ≤ p ∧ ∃ k : Int, e = reduceError p e + k * p := by
  have hnonneg := Int.emod_nonneg e (b := (p : Int)) (by omega)
  have hlt := Int.emod_lt_of_pos e (b := (p : Int)) (by omega)
  have hdiv := Int.emod_add_mul_ediv e p
  unfold reduceError
  split
  · refine ⟨by omega, by omega, e / p + 1, ?_⟩
    rw [Int.add_mul, Int.one_mul, Int.mul_comm (e / p)]
    omega
  · refine ⟨by omega, by omega, e / p, ?_⟩
    rw [Int.mul_comm (e / p)]
    omega

/-! ## The nearest start -/

/-- How far a start is from the target. -/
def startDistance (t : Word32) (x : Word16 × Word32) : Nat := (sdiff x.2 t).natAbs

theorem foldl_nearer (t : Word32) (b : Word16 × Word32) (l : List (Word16 × Word32)) :
    ∃ x ∈ b :: l, l.foldl (nearer t) (some b) = some x ∧ ∀ y ∈ b :: l, startDistance t x ≤ startDistance t y := by
  induction l generalizing b with
  | nil => exact ⟨b, by simp, rfl, by simp⟩
  | cons s rest ih =>
    by_cases hless : startDistance t s < startDistance t b
    · obtain ⟨x, hx, hfold, hmin⟩ := ih s
      refine ⟨x, List.mem_cons_of_mem _ hx, ?_, fun y hy => ?_⟩
      · rw [List.foldl_cons, show nearer t (some b) s = some s from if_pos hless]
        exact hfold
      · obtain rfl | hy := List.mem_cons.1 hy
        · have hs := hmin s (by simp)
          omega
        · exact hmin y hy
    · obtain ⟨x, hx, hfold, hmin⟩ := ih b
      refine ⟨x, ?_, ?_, fun y hy => ?_⟩
      · obtain rfl | hx := List.mem_cons.1 hx
        · simp
        · simp [hx]
      · rw [List.foldl_cons, show nearer t (some b) s = some b from if_neg hless]
        exact hfold
      · have hb := hmin b (by simp)
        obtain rfl | rfl | hy := by simpa only [List.mem_cons] using hy
        · exact hb
        · omega
        · exact hmin y (List.mem_cons_of_mem _ hy)

theorem Tb.nearest_of_none {tb : Tb} (h : tb.starts = []) (t : Word32) : tb.nearest t = none := by
  simp [Tb.nearest, h]

theorem Tb.nearest_of_some {tb : Tb} (h : tb.starts ≠ []) (t : Word32) :
    ∃ x, tb.nearest t = some x ∧ x ∈ tb.starts
      ∧ ∀ y ∈ tb.starts, (sdiff x.2 t).natAbs ≤ (sdiff y.2 t).natAbs := by
  unfold Tb.nearest
  rcases hl : tb.starts with _ | ⟨b, l⟩
  · exact absurd hl h
  · obtain ⟨x, hx, hfold, hmin⟩ := foldl_nearer t b l
    exact ⟨x, hfold, hx, hmin⟩

/-! ## Renumbering -/

/-- The start with the label takes the new number. -/
theorem Tb.mem_renumber {tb : Tb} {label : Word16} (number : Word16) {h : HistEntry} (hin : h ∈ tb.history)
    (hlabel : h.number = label) : { h with number := number } ∈ (tb.renumber label number).history := by
  refine List.mem_map.2 ⟨h, hin, ?_⟩
  have hnumber : h.number + (number - label) = number := by rw [hlabel, add_sub_cancel]
  rw [HistEntry.shift, hnumber]

/-- Settles O23: the five calculations one by one. -/
theorem timebaseArithmetic : Obligations.TimebaseArithmetic :=
  ⟨fun q n => ⟨trimOf_eq q n, fun hlow hhigh => trimOf_bounds hlow hhigh n, sum_trimOf q n⟩,
    fun _ _ hr => ⟨Timecode.advance_one_spec hr, Timecode.advance_two_spec hr⟩,
    fun _ e hp => reduceError_spec hp e,
    fun _ t => ⟨fun h => Tb.nearest_of_none h t, fun h => Tb.nearest_of_some h t⟩,
    fun _ _ number => ⟨rfl, rfl, fun _ hin hlabel => Tb.mem_renumber number hin hlabel, rfl⟩⟩

end Sys2Proof.Machine
end

section
/-! SUPPORT. Step and slew (R23, R24, R56 to R58). -/

namespace Sys2Proof.Machine

/-! ## What a selection and a frame start keep -/

/-- What neither a selection nor a frame start takes from a node that a correction has worked on. -/
structure Node.Kept (n t : Node) : Prop where
  i : t.du.i = n.du.i
  steps : t.du.steps = n.du.steps
  mon : t.du.mon = n.du.mon
  anchor : t.du.anchor = n.du.anchor
  runs : t.du.validRun = n.du.validRun ∧ t.du.invalidRun = n.du.invalidRun
  q : n.tb.q = n.du.i → t.tb.q = n.du.i
  lock : n.du.lock = 0 → t.du.lock = 0
  state : n.du.state ≠ .followLock → t.du.state ≠ .followLock
  tracking : n.du.tracking = false → t.du.tracking = false
  pending : ∀ k, n.rh.isPending k = true → t.rh.isPending k = true

namespace Node.Kept

variable {a b t : Node}

theorem refl (n : Node) : n.Kept n := ⟨rfl, rfl, rfl, rfl, ⟨rfl, rfl⟩, id, id, id, id, fun _ => id⟩

theorem trans (h1 : a.Kept b) (h2 : b.Kept t) : a.Kept t where
  i := h2.i.trans h1.i
  steps := h2.steps.trans h1.steps
  mon := h2.mon.trans h1.mon
  anchor := h2.anchor.trans h1.anchor
  runs := ⟨h2.runs.1.trans h1.runs.1, h2.runs.2.trans h1.runs.2⟩
  q h := (h2.q ((h1.q h).trans h1.i.symm)).trans h1.i
  lock h := h2.lock (h1.lock h)
  state h := h2.state (h1.state h)
  tracking h := h2.tracking (h1.tracking h)
  pending k h := h2.pending k (h1.pending k h)

/-- A change that does not come to FOLLOW_LOCK and sets no tracking flag. -/
theorem of_change {c : Settled} (h : a.Change c t) (hstate : a.du.state ≠ .followLock → t.du.state ≠ .followLock)
    (htracking : a.du.tracking = false → t.du.tracking = false) : a.Kept t where
  i := by rw [h.frame.du]
  steps := by rw [h.frame.du]
  mon := by rw [h.frame.du]
  anchor := by rw [h.frame.du]
  runs := by
    rw [h.frame.du]
    exact ⟨rfl, rfl⟩
  q hq := by
    by_cases hsame : t.du.state = a.du.state ∧ t.du.source = a.du.source
    · rw [(h.same hsame.1 hsame.2).1, hq]
    · exact (h.moved (by tauto)).1
  lock hl := by
    by_cases hsame : t.du.state = a.du.state ∧ t.du.source = a.du.source
    · rw [(h.same hsame.1 hsame.2).2.2.2]
      exact hl
    · exact (h.moved (by tauto)).2
  state := hstate
  tracking := htracking
  pending := h.pending

end Node.Kept

section kept
variable (n : Node) (c : Settled)

theorem Node.enter_tracking (state : TbState) (source : BitVec 4) (h : n.du.tracking = false) :
    (n.enter c state source).du.tracking = false := by
  by_cases hch : state ≠ n.du.state ∨ source ≠ n.du.source
  · simp [Node.enter_du hch, Du.enter, h]
  · obtain ⟨hstate, hsource⟩ : state = n.du.state ∧ source = n.du.source := by tauto
    rwa [Node.enter_of_same hstate hsource]

theorem Node.enter_kept {state : TbState} (hstate : state ≠ .followLock) (source : BitVec 4) :
    n.Kept (n.enter c state source) :=
  .of_change (c := c) (Node.Change.enter hstate) (fun _ => by rw [(n.enter_du_state c state source).1]; exact hstate)
    (n.enter_tracking c state source)

theorem Node.choosePeer_tracking (k : Cand) (h : n.du.tracking = false) :
    (n.choosePeer c k).du.tracking = false := by
  rcases hf : n.du.follows k.node with _ | _
  · rw [Node.choosePeer_of_new hf, Node.followPeer]
    simpa using n.enter_tracking c .followAcq k.node h
  · rwa [Node.choosePeer_of_follows hf]

theorem Node.select_kept : n.Kept (n.select c) := by
  obtain ⟨m, heq, hm⟩ := n.select_cases c
  refine .of_change (Node.Change.select n c) (fun hstate => ?_) (fun htracking => ?_)
  · rw [heq]
    obtain rfl | ⟨k, rfl⟩ := hm
    · rw [show ((n.chooseSelf c).du.recompute).state = n.du.selfState c.h from (n.enter_du_state c _ _).1]
      exact Du.selfState_ne_followLock _ _
    · rcases hf : n.du.follows k.node with _ | _
      · rw [show ((n.choosePeer c k).du.recompute).state = .followAcq from (Node.choosePeer_fields hf).1]
        nofun
      · rw [Node.choosePeer_of_follows hf]
        exact hstate
  · rw [heq]
    obtain rfl | ⟨k, rfl⟩ := hm
    · exact n.enter_tracking c _ _ htracking
    · exact n.choosePeer_tracking c k htracking

theorem Node.refreshClass_kept : n.Kept (n.refreshClass c) := by
  unfold Node.refreshClass
  split
  · exact Node.Kept.refl n
  · exact n.select_kept c

theorem Node.raise_kept (src : Source) : n.Kept (n.raise src) :=
  ⟨rfl, rfl, rfl, rfl, ⟨rfl, rfl⟩, id, id, id, id, fun k => n.raise_keeps src k⟩

theorem Node.expireHoldover_kept : n.Kept (n.expireHoldover c) :=
  ((n.enter_kept c (by decide) n.du.source).trans (Node.raise_kept _ _)).trans (Node.refreshClass_kept _ c)

theorem Node.spendCredit_kept : n.Kept (n.spendCredit c) := by
  have hspent : n.Kept { n with du := { n.du with credit := n.du.credit - 1 } } :=
    ⟨rfl, rfl, rfl, rfl, ⟨rfl, rfl⟩, id, id, id, id, fun _ => id⟩
  unfold Node.spendCredit
  split
  · dsimp only
    split
    · exact hspent.trans (Node.expireHoldover_kept _ c)
    · exact hspent
  · exact Node.Kept.refl n

theorem Node.kept_of_cands (l : List Cand) : n.Kept { n with du := { n.du with cands := l } } :=
  ⟨rfl, rfl, rfl, rfl, ⟨rfl, rfl⟩, id, id, id, id, fun _ => id⟩

theorem Node.removeAged_kept : n.Kept (n.removeAged c) := by
  unfold Node.removeAged
  split
  · exact Node.Kept.refl n
  · exact (n.kept_of_cands _).trans (Node.select_kept _ c)

theorem Node.startChecks_kept : n.Kept (n.startChecks c) := by
  rw [Node.startChecks_eq]
  exact ⟨rfl, rfl, rfl, rfl, ⟨rfl, rfl⟩, id, id, id, id, fun _ => id⟩

theorem Node.frameStartTb_kept : n.Kept (n.frameStartTb c) :=
  ⟨rfl, rfl, rfl, rfl, ⟨rfl, rfl⟩, id, id, id, id, fun k hk => by
    rw [Node.frameStartTb_rh]
    exact hk⟩

theorem Node.frameStart_kept : n.Kept (n.frameStart c) := by
  have hdu (m : Node) : m.Kept (m.frameStartDu c) := by
    rw [Node.frameStartDu_eq]
    exact ((m.spendCredit_kept c).trans (((Node.kept_of_cands _ _).trans (Node.removeAged_kept _ c)))).trans
      (Node.startChecks_kept _ c)
  exact (n.frameStartTb_kept c).trans (hdu _)

end kept

/-! ## A step -/

/-- The node as a step's own part leaves it, before a locked follower goes back and a frame may end. -/
def Node.stepped (e : Int) (n : Node) : Node :=
  ((({ n with
    tb := { n.tb.requestStep e with q := n.du.i }
    du := { n.du with
      lock := 0, tracking := !(n.du.state == .selfRef) && n.du.tracking
      steps := Counter.bump n.du.steps } } : Node).raise .step).raiseIf
    (n.du.state == .selfRef && n.du.tracking) .lockLost)

/-- A locked follower goes back to FOLLOW_ACQ. -/
def Node.backToAcq (c : Settled) (n : Node) : Node :=
  if n.du.state = .followLock then (n.enter c .followAcq n.du.source).refreshClass c else n

theorem Node.stepBy_eq (c : Settled) (e : Int) (n : Node) :
    n.stepBy c e =
      if ((n.stepped e).backToAcq c).tb.frameDue then ((n.stepped e).backToAcq c).frameStart c
      else (n.stepped e).backToAcq c := rfl

section step
variable (n : Node) (c : Settled) (e : Int)

@[simp] theorem Node.stepped_tb : (n.stepped e).tb = { n.tb.requestStep e with q := n.du.i } := by simp [Node.stepped]

@[simp] theorem Node.stepped_du : (n.stepped e).du = { n.du with
    lock := 0, tracking := !(n.du.state == .selfRef) && n.du.tracking, steps := Counter.bump n.du.steps } := by
  simp [Node.stepped]

theorem Node.stepped_pending : (n.stepped e).rh.isPending 6 = true :=
  Node.raiseIf_keeps _ _ _ _ (Node.raise_pending _ .step)

theorem Node.backToAcq_kept : n.Kept (n.backToAcq c) := by
  unfold Node.backToAcq
  split
  · exact (n.enter_kept c (by decide) _).trans (Node.refreshClass_kept _ c)
  · exact Node.Kept.refl n

theorem Node.backToAcq_startFrame : StartFrame n (n.backToAcq c) := by
  unfold Node.backToAcq
  split
  · exact (StartFrame.of_change (Node.Change.enter (c := c) (by decide))).trans
      (StartFrame.of_change (Node.refreshClass_change _ c))
  · exact StartFrame.refl n

theorem Node.backToAcq_state : (n.backToAcq c).du.state ≠ .followLock := by
  unfold Node.backToAcq
  split
  · refine (Node.refreshClass_kept _ c).state ?_
    rw [(n.enter_du_state c _ _).1]
    nofun
  · next h => exact h

/-- A step, the frame it may end included, leaves of its own part what a selection and a frame start keep. -/
theorem Node.stepBy_kept : (n.stepped e).Kept (n.stepBy c e) := by
  rw [Node.stepBy_eq]
  split
  · exact (Node.backToAcq_kept _ c).trans (Node.frameStart_kept _ c)
  · exact Node.backToAcq_kept _ c

theorem Node.stepBy_state : (n.stepBy c e).du.state ≠ .followLock := by
  rw [Node.stepBy_eq]
  split
  · exact (Node.frameStart_kept _ c).state (Node.backToAcq_state _ c)
  · exact Node.backToAcq_state _ c

variable {g : Gen} (hgen : n.tb.gen = some g)
include hgen

theorem Node.stepped_gen : ((n.stepped e).backToAcq c).tb.gen = some (g.stepBy e) := by
  refine ((Node.backToAcq_startFrame _ c).tb_keeps Tb.gen (fun _ _ _ => rfl)).trans ?_
  rw [Node.stepped_tb]
  simp [Tb.requestStep, hgen]

theorem Node.stepped_frameDue : ((n.stepped e).backToAcq c).tb.frameDue = reached n.tb.e (eAdd g.unstepped (-e)) := by
  have he : ((n.stepped e).backToAcq c).tb.e = n.tb.e := by
    refine ((Node.backToAcq_startFrame _ c).tb_keeps Tb.e (fun _ _ _ => rfl)).trans ?_
    rw [Node.stepped_tb]
    rfl
  simp only [Tb.frameDue, n.stepped_gen c e hgen, he, Gen.stepBy]

theorem Node.stepBy_of_later (h : reached n.tb.e (eAdd g.unstepped (-e)) = false) :
    (n.stepBy c e).tb.frameNo = n.tb.frameNo ∧ (n.stepBy c e).tb.history = n.tb.history
    ∧ (n.stepBy c e).tb.gen = some { g with scheduled := eAdd g.unstepped (-e), step := some e } := by
  have hframe := (n.stepped e).backToAcq_startFrame c
  rw [Node.stepBy_eq, if_neg (by rw [n.stepped_frameDue c e hgen, h]; nofun)]
  refine ⟨(hframe.tb_keeps Tb.frameNo (fun _ _ _ => rfl)).trans ?_,
    (hframe.tb_keeps Tb.history (fun _ _ _ => rfl)).trans ?_, n.stepped_gen c e hgen⟩
  · rw [Node.stepped_tb]
    rfl
  · rw [Node.stepped_tb]
    rfl

theorem Node.stepBy_of_reached (h : reached n.tb.e (eAdd g.unstepped (-e)) = true) :
    (n.stepBy c e).tb.frameNo = n.tb.frameNo + 1
    ∧ (n.stepBy c e).tb.history = lastFour (n.tb.history ++ [⟨n.tb.frameNo + 1, n.tb.e, true⟩]) := by
  have hback := (n.stepped e).backToAcq_startFrame c
  have hstart := (((n.stepped e).backToAcq c).frameStartTb c).frameStartDu_startFrame c
  have hstepped : ((n.stepped e).backToAcq c).tb.isStepped = true := by
    simp [Tb.isStepped, n.stepped_gen c e hgen, Gen.stepBy]
  have hno : ((n.stepped e).backToAcq c).tb.frameNo = n.tb.frameNo := by
    rw [hback.tb_keeps Tb.frameNo (fun _ _ _ => rfl), Node.stepped_tb]
    rfl
  have hhist : ((n.stepped e).backToAcq c).tb.history = n.tb.history := by
    rw [hback.tb_keeps Tb.history (fun _ _ _ => rfl), Node.stepped_tb]
    rfl
  have he : ((n.stepped e).backToAcq c).tb.e = n.tb.e := by
    rw [hback.tb_keeps Tb.e (fun _ _ _ => rfl), Node.stepped_tb]
    rfl
  rw [Node.stepBy_eq, if_pos ((n.stepped_frameDue c e hgen).trans h)]
  refine ⟨(hstart.tb_keeps Tb.frameNo (fun _ _ _ => rfl)).trans ?_,
    (hstart.tb_keeps Tb.history (fun _ _ _ => rfl)).trans ?_⟩
  · exact congrArg (· + 1) hno
  · rw [← hno, ← hhist, ← he, ← hstepped]
    rfl

end step

theorem Node.correct_of_step {n : Node} {c : Settled} {e : Int}
    (h : c.stepLimit < (reduceError c.period e).natAbs) (m : Nat) :
    n.correct c m e = n.stepBy c (reduceError c.period e) :=
  if_pos h

theorem Node.correct_of_slew {n : Node} {c : Settled} {e : Int}
    (h : (reduceError c.period e).natAbs ≤ c.stepLimit) (m : Nat) :
    n.correct c m e = n.slew c m (reduceError c.period e) :=
  if_neg (Nat.not_lt.2 h)

/-- Settles O27: the step's own part, what the selections and the frame start after it keep, and the frame start. -/
theorem stepCorrection : Obligations.StepCorrection := by
  intro n c m e g hgen hlimit
  rw [Node.correct_of_step hlimit]
  have hkept := n.stepBy_kept c (reduceError c.period e)
  refine ⟨by simpa using hkept.i, by simpa using hkept.q, by simpa using hkept.lock, by simpa using hkept.steps,
    hkept.pending 6 (n.stepped_pending _), n.stepBy_state c _, fun href => hkept.tracking (by simp [href]),
    n.stepBy_of_later c _ hgen, n.stepBy_of_reached c _ hgen⟩

/-! ## A slew -/

/-- The node with the new I, Q and lock count of a slew. -/
def Node.slewed (c : Settled) (m : Nat) (e : Int) (n : Node) : Node :=
  { n with
    tb := { n.tb with q := newTrim m e n.du.i }
    du := { n.du with
      i := newIntegral m e n.du.i
      lock := if e.natAbs ≤ c.lockWindow then min 4 (n.du.lock + 1) else 0 } }

theorem Node.slew_eq (c : Settled) (m : Nat) (e : Int) (n : Node) :
    n.slew c m e =
      if e.natAbs ≤ c.lockWindow then
        if (n.slewed c m e).du.lock = 4 && n.du.lock != 4 then (n.slewed c m e).gainLock c else n.slewed c m e
      else (n.slewed c m e).loseTracking := rfl

section slew
variable {n : Node} {c : Settled} {m : Nat} {e : Int}

theorem Node.slewed_lock (hin : e.natAbs ≤ c.lockWindow) (hlock : n.du.lock = 3) :
    (n.slewed c m e).du = { n.du with i := newIntegral m e n.du.i, lock := 4 } := by
  simp [Node.slewed, hin, hlock]

theorem Node.slew_of_gain (hin : e.natAbs ≤ c.lockWindow) (hlock : n.du.lock = 3) :
    n.slew c m e = (n.slewed c m e).gainLock c := by
  rw [Node.slew_eq, if_pos hin, if_pos (by simp [Node.slewed_lock hin hlock, hlock])]

theorem Node.slew_of_count (hin : e.natAbs ≤ c.lockWindow) (hlock : n.du.lock ≠ 3) (hle : n.du.lock ≤ 4) :
    n.slew c m e = n.slewed c m e := by
  have hcond : ¬(((n.slewed c m e).du.lock = 4 && n.du.lock != 4) = true) := by
    simp only [Node.slewed, if_pos hin, Bool.and_eq_true, decide_eq_true_eq, bne_iff_ne]
    omega
  rw [Node.slew_eq, if_pos hin, if_neg hcond]

theorem Node.slew_of_outside (hout : c.lockWindow < e.natAbs) : n.slew c m e = (n.slewed c m e).loseTracking :=
  if_neg (Nat.not_le.2 hout)

theorem Node.loseTracking_tb (n : Node) : n.loseTracking.tb = n.tb := by
  unfold Node.loseTracking
  split <;> rfl

theorem Node.loseTracking_du (n : Node) :
    n.loseTracking.du = { n.du with tracking := n.loseTracking.du.tracking } := by
  unfold Node.loseTracking
  split <;> rfl

theorem Node.loseTracking_of_tracking (hstate : n.du.state = .selfRef) (htracking : n.du.tracking = true) :
    n.loseTracking = Node.raise { n with du := { n.du with tracking := false } } .lockLost := by
  simp [Node.loseTracking, hstate, htracking]

theorem Node.gainLock_of_acq (h : n.du.state = .followAcq) :
    n.gainLock c = ((n.enter c .followLock n.du.source).raise .lockGained).refreshClass c := by
  simp [Node.gainLock, h]

theorem Node.gainLock_of_ref (h : n.du.state = .selfRef) :
    n.gainLock c = Node.raise { n with du := { n.du with tracking := true } } .lockGained := by
  simp [Node.gainLock, h]

theorem Node.gainLock_of_other (hacq : n.du.state ≠ .followAcq) (href : n.du.state ≠ .selfRef) :
    n.gainLock c = n := by
  unfold Node.gainLock
  split
  · next h => exact absurd h hacq
  · next h => exact absurd h href
  · rfl

/-- The node in FOLLOW_LOCK, before its class is taken anew. -/
def Node.lockGained (n : Node) : Node :=
  { n with du := { n.du with state := .followLock }, rh := { n.rh with notices := raiseBit n.rh.notices 2 } }

theorem Node.lockGained_eq (h : n.du.state = .followAcq) :
    (n.enter c .followLock n.du.source).raise .lockGained = n.lockGained := by
  have hch : .followLock ≠ n.du.state ∨ n.du.source ≠ n.du.source := .inl (by simp [h])
  rw [Node.enter_of_change hch]
  simp [h, Du.losesLock, Node.leavePlaces, TbState.isSelf, Du.enter, Tb.enter, isLockEntry, Node.raiseIf, Node.raise,
    Source.num, Node.lockGained]

/-- The integral after a slew. -/
theorem Node.slew_i : (n.slew c m e).du.i = newIntegral m e n.du.i := by
  have hgain : ((n.slewed c m e).gainLock c).du.i = (n.slewed c m e).du.i := by
    by_cases hacq : (n.slewed c m e).du.state = .followAcq
    · rw [Node.gainLock_of_acq hacq, Node.lockGained_eq hacq]
      exact (Node.refreshClass_kept _ c).i
    · by_cases href : (n.slewed c m e).du.state = .selfRef
      · rw [Node.gainLock_of_ref href]
        rfl
      · rw [Node.gainLock_of_other hacq href]
  rw [Node.slew_eq]
  split
  · split
    · exact hgain
    · rfl
  · rw [Node.loseTracking_du]
    rfl

end slew

/-- Settles O28: a slew counts, gains the lock at its fourth in the window, or takes the tracking flag back. -/
theorem slewCorrection : Obligations.SlewCorrection := by
  intro n c m e hlimit
  rw [Node.correct_of_slew hlimit]
  generalize reduceError c.period e = x
  refine ⟨Node.slew_i, fun hcount hle => ?_, fun hin hlock => ⟨fun hacq => ?_, fun hacq => ?_, fun href => ?_⟩,
    fun hout href htracking => ?_⟩
  · by_cases hin : x.natAbs ≤ c.lockWindow
    · rw [Node.slew_of_count hin (by tauto) hle]
      exact ⟨rfl, rfl, rfl⟩
    · rw [Node.slew_of_outside (Nat.lt_of_not_le hin), Node.loseTracking_tb, Node.loseTracking_du]
      exact ⟨rfl, rfl, rfl⟩
  · have hdu := Node.slewed_lock (m := m) hin hlock
    have hstate : (n.slewed c m x).du.state = .followAcq := hacq
    rw [Node.slew_of_gain hin hlock, Node.gainLock_of_acq hstate, Node.lockGained_eq hstate]
    refine ⟨(n.slewed c m x).lockGained, ?_, rfl, raiseBit_self _ 2 (by decide), rfl, fun hsame => if_pos hsame,
      fun hother => if_neg hother⟩
    simp only [Node.lockGained, hdu]
    rfl
  · rw [Node.slew_of_gain hin hlock]
    have hdu := Node.slewed_lock (m := m) hin hlock
    by_cases href : (n.slewed c m x).du.state = .selfRef
    · rw [Node.gainLock_of_ref href]
      exact ⟨congrArg Du.lock hdu, rfl⟩
    · rw [Node.gainLock_of_other (n := n.slewed c m x) hacq href]
      exact ⟨congrArg Du.lock hdu, rfl⟩
  · have hstate : (n.slewed c m x).du.state = .selfRef := href
    rw [Node.slew_of_gain hin hlock, Node.gainLock_of_ref hstate]
    refine ⟨Node.raise_pending _ .lockGained, rfl, ?_⟩
    simp only [Node.raise_du, Node.slewed_lock hin hlock]
  · rw [Node.slew_of_outside hout, Node.loseTracking_of_tracking (n := n.slewed c m x) href htracking]
    exact ⟨rfl, Node.raise_pending _ .lockLost⟩

end Sys2Proof.Machine
end

section
/-! SUPPORT. The reference monitor (R51, R52, R55), and the strobes (R65 to R67). -/

namespace Sys2Proof.Machine

/-! ## What a correction keeps of the monitor -/

/-- The monitor: its state, its anchor and its two counts. -/
def Du.monitor (d : Du) : MonState × Option Word32 × Nat × Nat := (d.mon, d.anchor, d.validRun, d.invalidRun)

theorem Du.monitor_eq {d : Du} {mon : MonState} {anchor : Option Word32} {valid invalid : Nat}
    (h : d.monitor = (mon, anchor, valid, invalid)) :
    d.mon = mon ∧ d.anchor = anchor ∧ d.validRun = valid ∧ d.invalidRun = invalid := by
  simpa [Du.monitor] using h

section
variable (n : Node) (c : Settled)

theorem Node.Kept.monitor {n t : Node} (h : n.Kept t) : t.du.monitor = n.du.monitor := by
  simp only [Du.monitor, h.mon, h.anchor, h.runs.1, h.runs.2]

theorem Node.gainLock_monitor : (n.gainLock c).du.monitor = n.du.monitor := by
  by_cases hacq : n.du.state = .followAcq
  · rw [Node.gainLock_of_acq hacq, Node.lockGained_eq hacq]
    exact (Node.refreshClass_kept _ c).monitor
  · by_cases href : n.du.state = .selfRef
    · rw [Node.gainLock_of_ref href]
      rfl
    · rw [Node.gainLock_of_other hacq href]

theorem Node.slew_monitor (m : Nat) (e : Int) : (n.slew c m e).du.monitor = n.du.monitor := by
  rw [Node.slew_eq]
  split
  · split
    · exact Node.gainLock_monitor _ c
    · rfl
  · rw [Node.loseTracking_du]
    rfl

theorem Node.correct_monitor (m : Nat) (e : Int) : (n.correct c m e).du.monitor = n.du.monitor := by
  unfold Node.correct
  split
  · rw [(Node.stepBy_kept _ c _).monitor, Node.stepped_du]
    rfl
  · exact n.slew_monitor c m _

theorem Node.measurePulse_monitor : (n.measurePulse c).du.monitor = n.du.monitor := by
  unfold Node.measurePulse
  split
  · split
    · rfl
    · exact n.correct_monitor c 1 _
  · rfl

end

/-! ## A node alone with a locked reference -/

/-- In SELF_REF with class 0 by a locked monitor, and no candidates. -/
structure Du.AloneAtRef (node : BitVec 4) (d : Du) : Prop where
  mon : d.mon = .locked
  state : d.state = .selfRef
  cls : d.cls = 0
  source : d.source = node
  cands : d.cands = []

section
variable {n : Node} {node : BitVec 4} (h : n.du.AloneAtRef node) (c : Settled)
include h

theorem Node.refreshClass_of_ref : n.refreshClass c = n :=
  Node.refreshClass_of_eq (by simp [Du.ownClass, h.mon, h.cls]) c

theorem Node.frameStart_of_ref : (n.frameStart c).du.AloneAtRef node := by
  have hspent : (n.frameStartTb c).spendCredit c = n.frameStartTb c :=
    Node.spendCredit_of_other (by
      rw [show (n.frameStartTb c).du.state = .selfRef from h.state]
      nofun)
  have hcands : (n.frameStartTb c).du.cands = [] := h.cands
  have hchecks := (Node.startChecks_spec c (((n.frameStartTb c).spendCredit c).ageCands c) _ rfl).1
  rw [hspent, Node.ageCands_of_young (by rw [hcands]; nofun)] at hchecks
  rw [Node.frameStart, Node.frameStartDu_eq, hspent, Node.ageCands_of_young (by rw [hcands]; nofun), hchecks]
  exact ⟨h.mon, h.state, h.cls, h.source, by simpa using hcands⟩

theorem Node.stepBy_of_ref (e : Int) : (n.stepBy c e).du.AloneAtRef node := by
  have hstepped : (n.stepped e).du.AloneAtRef node := by
    rw [Node.stepped_du]
    exact ⟨h.mon, h.state, h.cls, h.source, h.cands⟩
  have hback : (n.stepped e).backToAcq c = n.stepped e := if_neg (by rw [hstepped.state]; nofun)
  rw [Node.stepBy_eq, hback]
  split
  · exact Node.frameStart_of_ref hstepped c
  · exact hstepped

theorem Node.slew_of_ref (m : Nat) (e : Int) : (n.slew c m e).du.AloneAtRef node := by
  have hslewed : (n.slewed c m e).du.AloneAtRef node := ⟨h.mon, h.state, h.cls, h.source, h.cands⟩
  rw [Node.slew_eq]
  split
  · split
    · rw [Node.gainLock_of_ref hslewed.state]
      exact ⟨h.mon, h.state, h.cls, h.source, h.cands⟩
    · exact hslewed
  · rw [Node.loseTracking_du]
    exact ⟨h.mon, h.state, h.cls, h.source, h.cands⟩

theorem Node.measurePulse_of_ref : (n.measurePulse c).du.AloneAtRef node := by
  unfold Node.measurePulse
  split
  · split
    · exact h
    · unfold Node.correct
      split
      · exact Node.stepBy_of_ref h c _
      · exact Node.slew_of_ref h c 1 _
  · exact h

end

/-- A monitor that locks brings a node without candidates and of another class to its reference. -/
theorem Node.refreshClass_to_ref {n : Node} (hmon : n.du.mon = .locked) (hcands : n.du.cands = [])
    (hcls : n.du.cls ≠ 0) (c : Settled) : (n.refreshClass c).du.AloneAtRef n.rh.straps.node := by
  have hclass : n.du.ownClass ≠ n.du.cls := by
    rw [show n.du.ownClass = 0 from if_pos hmon]
    exact hcls.symm
  have hmon' : (n.select c).du.mon = .locked := (n.select_kept c).mon.trans hmon
  obtain ⟨hstate, hsource⟩ := Node.select_self_state (n := n) (c := c) (by rw [hcands]; nofun)
  rw [show n.refreshClass c = n.select c from if_neg hclass]
  exact ⟨hmon', hstate.trans (Du.selfState_locked hmon _), (n.select_cls c).trans (if_pos hmon'), hsource,
    (Node.Change.select n c).frame.cands.trans hcands⟩

/-! ## Pulses -/

section pulse
variable {n : Node} {c : Settled}

/-- The node with a valid pulse in its monitor. -/
def Node.pulseTaken (n : Node) : Node := { n with du := n.du.takeValid n.tb.e }

theorem Node.pulse_of_valid (h : n.du.pulseValid c n.tb.e = true) :
    n.pulse c = (n.pulseTaken.refreshClass c).measurePulse c := if_pos h

theorem Node.pulse_of_invalid (h : n.du.pulseValid c n.tb.e = false) : n.pulse c = n.invalidPulse c :=
  if_neg (by simp [h])

theorem Node.pulse_monitor (h : n.du.pulseValid c n.tb.e = true) :
    (n.pulse c).du.monitor =
      (n.du.mon.afterValid (n.du.validRun + 1), some n.tb.e, n.du.validRun + 1, 0) := by
  rw [Node.pulse_of_valid h, Node.measurePulse_monitor, (Node.refreshClass_kept _ c).monitor]
  rfl

theorem Du.pulseValid_of_absent {d : Du} (h : d.mon = .absent) (e : Word32) : d.pulseValid c e = true := by
  unfold Du.pulseValid
  rw [h]

theorem Du.pulseValid_of_anchor {d : Du} {a : Word32} (hmon : d.mon ≠ .absent) (ha : d.anchor = some a) (e : Word32) :
    d.pulseValid c e = decide ((sdiff e (eAdd a c.period)).natAbs ≤ c.period / 64) := by
  unfold Du.pulseValid
  rw [ha]
  rcases hm : d.mon with _ | _ | _
  · exact absurd hm hmon
  · rfl
  · rfl

theorem MonState.afterValid_of_present {mon : MonState} (h : mon ≠ .absent) (k : Nat) :
    mon.afterValid k = if mon = .locked ∨ 4 ≤ k then .locked else .checking := by
  cases mon with
  | absent => exact absurd rfl h
  | checking => simp [MonState.afterValid]
  | locked => rfl

theorem MonState.afterValid_eq (mon : MonState) (k : Nat) :
    mon.afterValid k = if mon ≠ .absent ∧ (mon = .locked ∨ 4 ≤ k) then .locked else .checking := by
  cases mon <;> simp [MonState.afterValid]

theorem Node.measurePulse_of_not (h : n.du.state ≠ .selfRef ∨ n.du.mon ≠ .locked ∨ n.tb.history = []) :
    n.measurePulse c = n :=
  if_neg (by
    simp only [Bool.and_eq_true, decide_eq_true_eq, Bool.not_eq_true', List.isEmpty_eq_false_iff]
    tauto)

theorem Node.measurePulse_of {x : Word16 × Word32} (hstate : n.du.state = .selfRef) (hmon : n.du.mon = .locked)
    (hhist : n.tb.history ≠ []) (hx : n.tb.nearest (eAdd n.tb.e c.rOff) = some x) :
    n.measurePulse c = n.correct c 1 (sdiff x.2 (eAdd n.tb.e c.rOff)) := by
  rw [Node.measurePulse, if_pos (by simp [hstate, hmon, hhist]), hx]

/-! ## The reference lost -/

/-- The node whose monitor has forgotten its train of pulses. -/
def Node.monitorCleared (n : Node) : Node :=
  { n with du := { n.du with mon := .absent, anchor := none, validRun := 0, invalidRun := 0 } }

theorem Node.loseReference_eq :
    n.loseReference c = (n.monitorCleared.raiseIf (n.du.mon == .locked) .referenceLost).refreshClass c := rfl

theorem Node.loseReference_monitor : (n.loseReference c).du.monitor = (.absent, none, 0, 0) := by
  rw [Node.loseReference_eq, (Node.refreshClass_kept _ c).monitor, Node.raiseIf_du]
  rfl

theorem Node.loseReference_pending (h : n.du.mon = .locked) : (n.loseReference c).rh.isPending 4 = true := by
  rw [Node.loseReference_eq, h]
  exact (Node.refreshClass_kept _ c).pending 4 (Node.raise_pending _ .referenceLost)

/-- A node alone that loses its reference holds over, or runs free. -/
theorem Node.loseReference_alone (href : n.du.state = .selfRef) (hcls : n.du.cls = 0) (hcands : n.du.cands = []) :
    (n.loseReference c).du.state = (if c.h = 0 then .selfFree else .selfHold)
    ∧ (n.loseReference c).du.cls = (if c.h = 0 then 2 else 1)
    ∧ (c.h ≠ 0 → (n.loseReference c).du.credit = c.h) := by
  generalize hm : n.monitorCleared.raiseIf (n.du.mon == .locked) .referenceLost = m
  have hdu : m.du = n.monitorCleared.du := by rw [← hm, Node.raiseIf_du]
  have hstate : m.du.state = .selfRef := by rw [hdu]; exact href
  have hmon : m.du.mon ≠ .locked := by rw [hdu]; nofun
  have hclass : m.du.ownClass ≠ m.du.cls := by
    have hown : m.du.ownClass = 2 := by simp [Du.ownClass, hmon, hstate]
    rw [hown, hdu, show n.monitorCleared.du.cls = 0 from hcls]
    nofun
  have hto : (m.select c).du.state = if c.h = 0 then .selfFree else .selfHold :=
    (Node.select_self_state (by rw [hdu, show n.monitorCleared.du.cands = [] from hcands]; nofun)).1.trans
      (Du.selfState_of_lock hmon _ (.inl hstate))
  have hmon' : (m.select c).du.mon ≠ .locked := by rw [(m.select_kept c).mon]; exact hmon
  have hcredit (hh : c.h ≠ 0) : (m.select c).du.credit = c.h :=
    (Node.Change.select m c).holdEntered (by simp [hstate]) (hto.trans (if_neg hh))
  rw [Node.loseReference_eq, hm, show m.refreshClass c = m.select c from if_neg hclass]
  refine ⟨hto, (m.select_cls c).trans ?_, hcredit⟩
  by_cases hh : c.h = 0
  · rw [if_pos hh] at hto ⊢
    exact Du.ownClass_of_selfFree hmon' hto
  · rw [if_neg hh] at hto ⊢
    simp [Du.ownClass, hmon', hto, hcredit hh, Nat.pos_of_ne_zero hh]

/-- The node with an invalid pulse counted. -/
def Node.pulseRefused (n : Node) : Node :=
  { n with du := { n.du with invalidRun := n.du.invalidRun + 1, validRun := 0 } }

theorem Node.invalidPulse_of_few (h : n.du.invalidRun + 1 < 3) : n.invalidPulse c = n.pulseRefused :=
  if_neg (Nat.not_le.2 h)

theorem Node.invalidPulse_of_third (h : 3 ≤ n.du.invalidRun + 1) : n.invalidPulse c = n.pulseRefused.loseReference c :=
  if_pos h

/-- The third invalid pulse leaves what the silence leaves. -/
theorem Node.loseReference_pulseRefused : n.pulseRefused.loseReference c = n.loseReference c := rfl

theorem Node.silenceDue_of {a : Word32} (hmon : n.du.mon ≠ .absent) (ha : n.du.anchor = some a)
    (h : (3 * c.period : Int) ≤ sdiff n.tb.e a) : n.silenceDue c = true := by
  unfold Node.silenceDue
  rw [ha]
  rcases hm : n.du.mon with _ | _ | _
  · exact absurd hm hmon
  · exact decide_eq_true h
  · exact decide_eq_true h

end pulse

section works
variable {s : State} {c : Settled} (hw : s.node.Works c)
include hw

theorem yields_refinPulse {P : Node → Prop} : Yields .refinPulse s P ↔ P (s.node.pulse c) := by
  rw [yields_iff_after, Node.after_refinPulse, Node.awake_of_high hw.1, Node.withCfg_of hw.2]

theorem yields_referenceSilence {a : Word32} {P : Node → Prop} (hmon : s.node.du.mon ≠ .absent)
    (ha : s.node.du.anchor = some a) (h : (3 * c.period : Int) ≤ sdiff s.node.tb.e a) :
    Yields .referenceSilence s P ↔ P (s.node.loseReference c) := by
  rw [yields_iff_after, Node.after_referenceSilence, Node.awake_of_high hw.1, Node.withCfg_of hw.2,
    if_pos (Node.silenceDue_of hmon ha h)]

end works

/-- Settles O30: a valid pulse is taken, the class is taken anew and the pulse measured; the third invalid one and the
silence both end the train. -/
theorem referenceMonitor : Obligations.ReferenceMonitor := by
  refine ⟨fun s c hw => ⟨fun habsent hzero => ?_, fun a hmon ha => ⟨fun hin => ?_, fun hout hfew => ?_,
    fun hout hthird => ?_⟩, fun a hmon hthree ha hin hcands hcls => ?_⟩, fun s c a x hw hmon hstate hcls ha hin hhist hx
    => ?_, fun s c a hw hmon ha hsilent => ?_, fun s c n1 n2 hw hvalid hn1 hn2 => ?_,
    fun s c a n n1 n2 hw hmon ha hn hn1 hn2 => ?_⟩
  · rw [yields_refinPulse hw]
    have hmonitor := Node.pulse_monitor (Du.pulseValid_of_absent (c := c) habsent s.node.tb.e)
    rw [habsent, hzero] at hmonitor
    exact Du.monitor_eq hmonitor
  · rw [yields_refinPulse hw]
    have hmonitor := Node.pulse_monitor ((Du.pulseValid_of_anchor hmon ha s.node.tb.e).trans (decide_eq_true hin))
    rw [MonState.afterValid_of_present hmon] at hmonitor
    exact Du.monitor_eq hmonitor
  · rw [yields_refinPulse hw, Node.pulse_of_invalid ((Du.pulseValid_of_anchor hmon ha _).trans
      (decide_eq_false (Nat.not_le.2 hout))), Node.invalidPulse_of_few hfew]
    rfl
  · rw [yields_refinPulse hw, Node.pulse_of_invalid ((Du.pulseValid_of_anchor hmon ha _).trans
      (decide_eq_false (Nat.not_le.2 hout))), Node.invalidPulse_of_third hthird, Node.loseReference_pulseRefused]
    obtain ⟨hm, hanchor, hvalid, hinvalid⟩ := Du.monitor_eq (s.node.loseReference_monitor (c := c))
    exact ⟨hm, hanchor, hvalid, hinvalid, Node.loseReference_pending⟩
  · have hpresent : s.node.du.mon ≠ .absent := by rw [hmon]; nofun
    have hlocked : s.node.pulseTaken.du.mon = .locked := by
      show s.node.du.mon.afterValid (s.node.du.validRun + 1) = .locked
      rw [hmon, hthree]
      rfl
    rw [yields_refinPulse hw, Node.pulse_of_valid ((Du.pulseValid_of_anchor hpresent ha _).trans (decide_eq_true hin))]
    obtain ⟨hm, hstate, hcls', hsource, -⟩ :=
      Node.measurePulse_of_ref (Node.refreshClass_to_ref hlocked hcands hcls c) c
    exact ⟨hm, hstate, hcls', hsource⟩
  · have hpresent : s.node.du.mon ≠ .absent := by rw [hmon]; nofun
    have hlocked : s.node.pulseTaken.du.mon = .locked := by
      show s.node.du.mon.afterValid (s.node.du.validRun + 1) = .locked
      rw [hmon]
      rfl
    have hsame : s.node.pulseTaken.refreshClass c = s.node.pulseTaken :=
      Node.refreshClass_of_eq ((if_pos hlocked).trans hcls.symm) c
    rw [yields_refinPulse hw, Node.pulse_of_valid ((Du.pulseValid_of_anchor hpresent ha _).trans (decide_eq_true hin)),
      hsame, Node.measurePulse_of (n := s.node.pulseTaken) hstate hlocked hhist hx]
    have htaken : s.node.pulseTaken = { s.node with du := { s.node.du with
        anchor := some s.node.tb.e, validRun := s.node.du.validRun + 1, invalidRun := 0 } } := by
      simp [Node.pulseTaken, Du.takeValid, hmon, MonState.afterValid]
    rw [htaken]
  · rw [yields_referenceSilence hw hmon ha hsilent]
    obtain ⟨hm, hanchor, hvalid, hinvalid⟩ := Du.monitor_eq (s.node.loseReference_monitor (c := c))
    exact ⟨hm, hanchor, hvalid, hinvalid, Node.loseReference_pending, fun _ => Node.loseReference_alone⟩
  · have hvalid' : s.node.du.pulseValid c s.node.tb.e = true := by
      obtain habsent | ⟨a, hmon, ha, hin⟩ := hvalid
      · exact Du.pulseValid_of_absent habsent _
      · exact (Du.pulseValid_of_anchor hmon ha _).trans (decide_eq_true hin)
    have htaken : n1 = s.node.pulseTaken := by
      rw [hn1, Node.pulseTaken, Du.takeValid, MonState.afterValid_eq]
    have hrefreshed : n2 = s.node.pulseTaken.refreshClass c := by
      rw [hn2, ite_not, htaken]
      rfl
    rw [yields_refinPulse hw, Node.pulse_of_valid hvalid', ← hrefreshed]
    refine ⟨Node.measurePulse_of_not, fun x hstate hlocked hhist hx => ?_⟩
    rw [yields_refinPulse hw, Node.pulse_of_valid hvalid', ← hrefreshed]
    exact Node.measurePulse_of hstate hlocked hhist hx
  · have hlost : n2 = s.node.loseReference c := by
      have hraised : n1 = s.node.monitorCleared.raiseIf (s.node.du.mon == .locked) .referenceLost := by
        rw [hn1, hn, Node.raiseIf]
        simp only [beq_iff_eq]
        rfl
      rw [hn2, ite_not, hraised]
      rfl
    refine ⟨fun hsilent => (yields_referenceSilence hw hmon ha hsilent).2 hlost.symm, fun hout hthird => ?_⟩
    rw [yields_refinPulse hw, Node.pulse_of_invalid ((Du.pulseValid_of_anchor hmon ha _).trans
      (decide_eq_false (Nat.not_le.2 hout))), Node.invalidPulse_of_third hthird, Node.loseReference_pulseRefused, hlost]

/-! ## Strobes -/

/-- What one entry does to one pin. -/
theorem StrobeEntry.fire_pin (e : StrobeEntry) (pins : BitVec 6) (b : Nat) (hb : b < 6) :
    (e.fire pins).getLsbD b =
      (if e.setMask.getLsbD b && e.clearMask.getLsbD b then !pins.getLsbD b
        else if e.setMask.getLsbD b then true
        else if e.clearMask.getLsbD b then false
        else pins.getLsbD b) := by
  simp only [StrobeEntry.fire, BitVec.getLsbD_xor, BitVec.getLsbD_and, BitVec.getLsbD_or, BitVec.getLsbD_not,
    decide_eq_true hb, Bool.true_and]
  cases e.setMask.getLsbD b <;> cases e.clearMask.getLsbD b <;> simp

theorem StrobeEntry.isAt_iff (line tick : Nat) (e : StrobeEntry) :
    e.isAt line tick = decide ((e.line = none ∨ e.line = some line) ∧ e.tick = tick) := by
  unfold StrobeEntry.isAt
  rcases e.line with _ | l <;> simp [Bool.beq_eq_decide_eq]

theorem Node.strobeReady_of {n : Node} {c : Settled} (hgen : n.tb.gen ≠ none) (hprior : n.sg.prior = none)
    (hdue : n.tb.frameDue = false) (hline : n.tb.line + 1 ≠ c.lTot ∨ n.tb.tick < c.lineLength n.tb.line n.tb.trim) :
    n.strobeReady c = true := by
  have hstretch : n.tb.isStretched c = false := by
    simp only [Tb.isStretched, Bool.and_eq_false_iff, beq_eq_false_iff_ne, decide_eq_false_iff_not, Nat.not_le]
    exact hline
  simp [Node.strobeReady, Option.isSome_iff_ne_none.2 hgen, hprior, hdue, hstretch]

/-- Settles O31: the mask arithmetic pin by pin, and the one command that fires a position. -/
theorem strobeFire : Obligations.StrobeFire := by
  refine ⟨StrobeEntry.fire_pin, fun s c hw hgen hprior hdue hline => ?_⟩
  have hentries : (fun e : StrobeEntry =>
      decide ((e.line = none ∨ e.line = some s.node.tb.line) ∧ e.tick = s.node.tb.tick)) =
      StrobeEntry.isAt s.node.tb.line s.node.tb.tick :=
    funext fun e => (e.isAt_iff _ _).symm
  rw [yields_iff_after, Node.after_strobeFire, Node.awake_of_high hw.1, Node.withCfg_of hw.2, hentries,
    Node.strobeFire, if_pos (Node.strobeReady_of hgen hprior hdue hline)]
  exact ⟨rfl, rfl⟩

end Sys2Proof.Machine
end

section
/-! SUPPORT. The store's grants (R75 to R78), and what launches a plane (R83 to R91). -/

namespace Sys2Proof.Machine

/-! ## A grant by its cases -/

section grant
variable {ss : Ss} {e : EngineState} {r : Requester}

/-- The store with buffer `b` granted. -/
def Ss.granted (ss : Ss) (r : Requester) (b : Nat) : Ss :=
  { ss with
    bufs := ss.bufs.set b ⟨.filling r.owner, []⟩, grants := Counter.bump ss.grants
    lowWater := min ss.lowWater (ss.freeCount - 1) }

theorem Ss.grant_of_none (h : ss.freeCount = 0) (e : EngineState) (r : Requester) :
    ss.grant e r = ({ ss with refusedEmpty := Counter.bump ss.refusedEmpty }, none) := by
  simp only [Ss.grant, firstFree_eq_none.2 h]

/-- With a FREE buffer there is a lowest one. -/
theorem Ss.exists_firstFree (h : 1 ≤ ss.freeCount) : ∃ b, firstFree ss.bufs = some b := by
  rcases hf : firstFree ss.bufs with _ | b
  · have hnone : ss.freeCount = 0 := firstFree_eq_none.1 hf
    omega
  · exact ⟨b, rfl⟩

theorem Ss.grant_of_reserved (h : 1 ≤ ss.freeCount) (hres : r.reserved e ss.freeCount = true) :
    ss.grant e r = ({ ss with refusedReserve := Counter.bump ss.refusedReserve }, none) := by
  obtain ⟨b, hb⟩ := Ss.exists_firstFree h
  simp only [Ss.grant, hb, hres, if_true]

theorem Ss.grant_of_some {b : Nat} (hb : firstFree ss.bufs = some b) (hres : r.reserved e ss.freeCount = false) :
    ss.grant e r = (ss.granted r b, some b) := by
  simp only [Ss.grant, hb, hres, Bool.false_eq_true, if_false]
  rfl

theorem Ss.granted_buf_self {b : Nat} (hb : firstFree ss.bufs = some b) (r : Requester) :
    (ss.granted r b).buf b = ⟨.filling r.owner, []⟩ :=
  Ss.buf_setBuf_self (firstFree_spec hb).1 ⟨.filling r.owner, []⟩

theorem Ss.granted_buf_of_ne {b k : Nat} (h : k ≠ b) (r : Requester) : (ss.granted r b).buf k = ss.buf k :=
  Ss.buf_setBuf_of_ne h ⟨.filling r.owner, []⟩

/-- A buffer given back is FREE and empty, one of the store's or not. -/
theorem Ss.buf_release_self (ss : Ss) (b : Nat) : (ss.release b).buf b = Buf.free := by
  by_cases h : b < ss.bufs.length
  · exact Ss.buf_setBuf_self h _
  · exact Ss.buf_of_le (by simpa [Ss.release, Ss.setBuf] using h)

theorem Ss.buf_release_of_ne {b k : Nat} (h : k ≠ b) : (ss.release b).buf k = ss.buf k := Ss.buf_setBuf_of_ne h _

/-- A buffer given back is one that can be granted. -/
theorem Ss.freeCount_release {b : Nat} (h : b < ss.bufs.length) : 1 ≤ (ss.release b).freeCount := by
  have hmem : Buf.free ∈ (ss.release b).bufs := List.mem_set h Buf.free
  exact List.countP_pos_iff.2 ⟨_, hmem, rfl⟩

end grant

/-- Settles O32: by the free count and the reserve. -/
theorem storeGrants : Obligations.StoreGrants := by
  refine fun ss e r => ⟨fun hnone => Ss.grant_of_none hnone e r, fun p f l hsome hfew hr hkey => ?_,
    fun hsome hmay => ?_⟩
  · exact Ss.grant_of_reserved hsome (by simp [hr, Requester.reserved, hkey, hfew])
  · obtain ⟨b, hb⟩ := Ss.exists_firstFree hsome
    obtain ⟨hlt, hfree, hlower⟩ := firstFree_spec hb
    have hres : r.reserved e ss.freeCount = false := by
      obtain hmany | rfl | ⟨p, f, l, rfl, hkey⟩ := hmay
      · cases r with
        | lane p f l => simp [Requester.reserved, show ¬ss.freeCount ≤ 4 by omega]
        | lu => rfl
      · rfl
      · simp [Requester.reserved, hkey]
    exact ⟨b, hlt, hfree, hlower, Ss.grant_of_some hb hres⟩

/-! ## A frame and a line begun -/

section lines
variable {n : Node}

theorem Node.endLine_of_filling {b : Nat} (h : n.lu.line = .filling b) :
    n.endLine = n.dropFilling .broken b .outside := by
  simp only [Node.endLine, h]

/-- A line that holds no buffer ends with no loss. -/
theorem Node.endLine_of_no_buffer (h : ∀ b, n.lu.line ≠ .filling b) :
    n.endLine = { n with lu := { n.lu with line := .outside } } := by
  unfold Node.endLine
  rcases hline : n.lu.line with _ | b | _
  · simp only [← hline]
  · exact absurd hline (h b)
  · rfl

theorem Node.numberLine_of_free {b : Nat} (hb : firstFree n.ss.bufs = some b) :
    n.numberLine = { n with
      ss := n.ss.granted .lu b
      lu := { n.lu with
        lineNo := n.lu.lineCount, lineCount := min 65535 (n.lu.lineCount + 1), line := .filling b } } := by
  simp only [Node.numberLine, Ss.grant_of_some (e := n.se.state) (r := .lu) hb rfl]

theorem Node.numberLine_of_none (h : n.ss.freeCount = 0) :
    n.numberLine = Node.dropLine .overflow { n with
      ss := { n.ss with refusedEmpty := Counter.bump n.ss.refusedEmpty }
      lu := { n.lu with
        lineNo := n.lu.lineCount, lineCount := min 65535 (n.lu.lineCount + 1), line := .discarding } } := by
  simp only [Node.numberLine, Ss.grant_of_none h]

theorem Node.lineBegin_of_latch (h : n.lu.latch ≠ none) : n.lineBegin = n.endLine.numberLine := by
  obtain ⟨l, hl⟩ := Option.ne_none_iff_exists'.1 h
  simp only [Node.lineBegin, hl]

theorem Node.lineBegin_of_no_latch (h : n.lu.latch = none) :
    n.lineBegin = Node.dropLine .noFrame { n with lu := { n.lu with line := .discarding } } := by
  simp only [Node.lineBegin, h]

theorem Node.dropLine_pending (d : LineDrop) (n : Node) : (n.dropLine d).rh.isPending 11 = true :=
  Node.raise_pending _ .segmentLoss

/-- FRAME_BEGIN in a line that holds a buffer. -/
theorem Node.frameBegin_of_filling {b : Nat} (h : n.lu.line = .filling b) :
    n.frameBegin.ss = n.ss.release b ∧ n.frameBegin.lu.brokenLine = Counter.bump n.lu.brokenLine
    ∧ n.frameBegin.rh.isPending 11 = true := by
  unfold Node.frameBegin
  rw [Node.endLine_of_filling h]
  exact ⟨rfl, rfl, (Node.dropFilling_spec .broken b .outside n).2.2⟩

theorem Node.frameBegin_of_no_buffer (h : ∀ b, n.lu.line ≠ .filling b) :
    n.frameBegin.ss = n.ss ∧ n.frameBegin.lu.brokenLine = n.lu.brokenLine ∧ n.frameBegin.rh = n.rh := by
  unfold Node.frameBegin
  rw [Node.endLine_of_no_buffer h]
  exact ⟨rfl, rfl, rfl⟩

/-- What ending a line keeps. -/
theorem Node.endLine_frame (n : Node) :
    n.endLine.lu.line = .outside ∧ n.endLine.lu.queue = n.lu.queue
    ∧ n.endLine = { n with
      lu := n.endLine.lu, ss := n.endLine.ss, rh := { n.rh with notices := n.endLine.rh.notices } } := by
  by_cases h : ∃ b, n.lu.line = .filling b
  · obtain ⟨b, hb⟩ := h
    rw [Node.endLine_of_filling hb]
    exact ⟨rfl, rfl, rfl⟩
  · rw [Node.endLine_of_no_buffer (fun b hb => h ⟨b, hb⟩)]
    exact ⟨rfl, rfl, rfl⟩

theorem Node.frameBegin_frame (n : Node) :
    n.frameBegin.lu.latch = some (n.tb.frameNo.setWidth 8, n.tb.tc) ∧ n.frameBegin.lu.lineCount = 0
    ∧ n.frameBegin.lu.line = .outside ∧ n.frameBegin.lu.queue = n.lu.queue
    ∧ n.frameBegin = { n with
      lu := n.frameBegin.lu, ss := n.frameBegin.ss, rh := { n.rh with notices := n.frameBegin.rh.notices } } := by
  obtain ⟨hline, hqueue, hframe⟩ := n.endLine_frame
  have htb : n.endLine.tb = n.tb := by rw [hframe]
  refine ⟨?_, rfl, hline, hqueue, ?_⟩
  · rw [← htb]
    rfl
  · unfold Node.frameBegin
    dsimp only
    rw [hframe]

end lines

section works
variable {s : State} {c : Settled} (hw : s.node.WorksHead c) {P : Node → Prop}
include hw

theorem yields_frameBegin : Yields .frameBegin s P ↔ P s.node.frameBegin := by
  rw [yields_iff_after, Node.after_frameBegin, Node.awake_of_high hw.1, Node.asHead_of hw.2]

theorem yields_lineBegin : Yields .lineBegin s P ↔ P s.node.lineBegin := by
  rw [yields_iff_after, Node.after_lineBegin, Node.awake_of_high hw.1, Node.asHead_of hw.2]

end works

/-- Settles O33: the line in progress ends, and the new one asks for a buffer, by the free count. -/
theorem linesBegin : Obligations.LinesBegin := by
  intro s c hw
  refine ⟨(yields_frameBegin hw).2 ?_, fun hlatch => (yields_lineBegin hw).2 ?_, fun hlatch hline =>
    ⟨fun hfree => (yields_lineBegin hw).2 ?_, fun hnone => (yields_lineBegin hw).2 ?_⟩,
    fun b hlatch hline hlt => (yields_lineBegin hw).2 ?_⟩
  · obtain ⟨hlatch, hcount, hout, hqueue, hframe⟩ := s.node.frameBegin_frame
    exact ⟨hlatch, hcount, hout, fun b => Node.frameBegin_of_filling, Node.frameBegin_of_no_buffer, hqueue, hframe⟩
  · rw [Node.lineBegin_of_no_latch hlatch]
    exact ⟨rfl, Node.dropLine_pending _ _, rfl⟩
  · obtain ⟨k, hk⟩ := Ss.exists_firstFree hfree
    rw [Node.lineBegin_of_latch hlatch, Node.endLine_of_no_buffer hline,
      Node.numberLine_of_free (n := { s.node with lu := { s.node.lu with line := .outside } }) hk]
    refine ⟨rfl, rfl, ⟨k, rfl, (firstFree_spec hk).2.1, Ss.granted_buf_self hk _⟩, fun j hj => ?_, rfl, rfl⟩
    exact Ss.granted_buf_of_ne (fun h => hj (by rw [h])) _
  · rw [Node.lineBegin_of_latch hlatch, Node.endLine_of_no_buffer hline,
      Node.numberLine_of_none (n := { s.node with lu := { s.node.lu with line := .outside } }) hnone]
    exact ⟨rfl, Node.dropLine_pending _ _, rfl⟩
  · obtain ⟨k, hk⟩ := Ss.exists_firstFree (Ss.freeCount_release hlt)
    rw [Node.lineBegin_of_latch hlatch, Node.endLine_of_filling hline,
      Node.numberLine_of_free (n := s.node.dropFilling .broken b .outside) hk]
    refine ⟨k, rfl, Ss.grant_of_some hk rfl, Ss.granted_buf_self hk _, fun hne => ?_, fun j hj hb => ?_,
      (Node.dropFilling_spec .broken b .outside s.node).2.2, rfl⟩
    · exact (Ss.granted_buf_of_ne hne _).trans (Ss.buf_release_self _ _)
    · exact (Ss.granted_buf_of_ne hj _).trans (Ss.buf_release_of_ne hb)

/-! ## Words of the plane port -/

theorem portCommand_payload {k : BitVec 4} (h4 : 4 ≤ k.toNat) (h7 : k.toNat ≤ 7) (pd : Word32) :
    portCommand k pd = some (.payloadWord k pd) := by
  have hcases : k.toNat = 4 ∨ k.toNat = 5 ∨ k.toNat = 6 ∨ k.toNat = 7 := by omega
  obtain h | h | h | h := hcases <;> simp only [portCommand, h]

theorem portCommand_none {k : BitVec 4} (h : k = 0 ∨ 7 < k.toNat) (pd : Word32) : portCommand k pd = none := by
  obtain rfl | h := h
  · rfl
  · unfold portCommand
    split <;> first | omega | rfl

section payload
variable {n : Node} {bs : List Byte}

theorem Node.payload_of_outside (h : n.lu.line = .outside) : n.payload bs = n.unframedWord := by
  simp only [Node.payload, h]

theorem Node.payload_of_discarding (h : n.lu.line = .discarding) : n.payload bs = n := by
  simp only [Node.payload, h]

theorem Node.payload_of_room {b : Nat} (h : n.lu.line = .filling b) (hroom : (n.ss.buf b).bytes.length + bs.length ≤ 6144) :
    n.payload bs = { n with ss := n.ss.write b bs } := by
  simp only [Node.payload, h, hroom, if_true]

theorem Node.payload_of_full {b : Nat} (h : n.lu.line = .filling b) (hfull : 6144 < (n.ss.buf b).bytes.length + bs.length) :
    n.payload bs = n.dropFilling .overlong b .discarding := by
  simp only [Node.payload, h, Nat.not_le.2 hfull, if_false]

end payload

theorem payloadBytes_of_code {pctl : BitVec 4} (h4 : 4 ≤ pctl.toNat) (h7 : pctl.toNat ≤ 7) (pd : Word32) :
    payloadBytes pctl pd = (u32 pd.toNat).take (pctl.toNat - 3) := by
  simp [payloadBytes, h4, h7]

theorem length_payloadBytes {pctl : BitVec 4} (h4 : 4 ≤ pctl.toNat) (h7 : pctl.toNat ≤ 7) (pd : Word32) :
    (payloadBytes pctl pd).length = pctl.toNat - 3 := by
  have hlen : (u32 pd.toNat).length = 4 := rfl
  rw [payloadBytes_of_code h4 h7, List.length_take, hlen]
  omega

theorem yields_payloadWord {s : State} {c : Settled} (hw : s.node.WorksHead c) {pctl : BitVec 4} (h4 : 4 ≤ pctl.toNat)
    (h7 : pctl.toNat ≤ 7) (pd : Word32) {P : Node → Prop} :
    Yields (.payloadWord pctl pd) s P ↔ P (s.node.payload (payloadBytes pctl pd)) := by
  have hsome : (payloadBytes pctl pd).isEmpty = false := by
    rw [← Bool.not_eq_true, List.isEmpty_iff, ← List.length_eq_zero_iff, length_payloadBytes h4 h7]
    omega
  rw [yields_iff_after, Node.after_payloadWord, Node.awake_of_high hw.1, Node.asHead_of hw.2, hsome]
  rfl

/-- Settles O34: by the line state, and by the room in the filling buffer. -/
theorem payloadWordByLineState : Obligations.PayloadWord := by
  refine ⟨fun pd => ⟨rfl, rfl, rfl, fun k h4 h7 => portCommand_payload h4 h7 pd, fun k h => portCommand_none h pd⟩,
    fun s c pctl pd hw h4 h7 => ⟨fun hline => ?_, fun hline => ?_, fun b hline => ⟨fun hlt hroom => ?_, fun hfull => ?_⟩⟩⟩
  all_goals rw [yields_payloadWord hw h4 h7]
  · exact Node.payload_of_outside hline
  · exact Node.payload_of_discarding hline
  · rw [Node.payload_of_room hline (by rwa [length_payloadBytes h4 h7]), ← payloadBytes_of_code h4 h7]
    exact ⟨Ss.buf_setBuf_self hlt _, fun k hk => Ss.buf_setBuf_of_ne hk _, rfl⟩
  · rw [Node.payload_of_full hline (by rwa [length_payloadBytes h4 h7])]
    obtain ⟨hlu, hss, hpending⟩ := Node.dropFilling_spec .overlong b .discarding s.node
    exact ⟨Ss.buf_release_self _ _, fun k hk => Ss.buf_release_of_ne hk, hlu, hpending, rfl⟩

/-! ## A segment launched -/

/-- Settles O36: the launch of the oldest segment, and what the uplink outputs show. -/
theorem segmentLaunched : Obligations.SegmentLaunched := by
  refine ⟨fun s c g rest hw hqueue hdue => ?_, fun n p => ⟨fun hoff => ?_, fun hplane hcarrier => ⟨fun hqueue => ?_,
    fun g rest hqueue => ?_⟩⟩⟩
  · have htime : launchTime g.length ≤ s.node.launchElapsed := by
      simp only [launchTime, Node.launchElapsed]
      omega
    have hdue' : s.node.launchDue = true := by simp [Node.launchDue, hqueue, htime]
    rw [yields_iff_after, Node.after_segmentLaunched, Node.awake_of_high hw.1, Node.asHead_of hw.2, if_pos hdue']
    have hlaunched : s.node.launched = { s.node with
        ss := s.node.ss.release g.buf
        lu := { s.node.lu.beginNext g.length with
          queue := rest
          carrier := if rest.isEmpty then .idleFill else .sending
          uplink := .startDelimiter :: (s.node.segmentOut g).map .byte ++ [.endDelimiter]
          linesLaunched := Counter.bump s.node.lu.linesLaunched } } := by
      simp only [Node.launched, hqueue]
    rw [hlaunched]
    refine ⟨?_, Ss.buf_release_self _ _, fun k hk => Ss.buf_release_of_ne hk, rfl⟩
    simp only [List.isEmpty_iff, Lu.beginNext, launchTime, Node.segmentOut, segmentBytes]
  · have hcond : (n.lu.carrier != .off && p.val == n.rh.straps.plane.toNat) = false := by
      simp only [Bool.and_eq_false_iff, bne_eq_false_iff_eq, beq_eq_false_iff_ne]
      tauto
    exact if_neg (by simp [hcond])
  · simp [Node.uplinkOutput, hcarrier, hplane, Node.uplinkNow, hqueue]
  · simp [Node.uplinkOutput, hcarrier, hplane, Node.uplinkNow, hqueue, Node.segmentOut, segmentBytes,
      Node.launchElapsed]

end Sys2Proof.Machine
end

section
/-! SUPPORT. What the lanes' own operations make of a node, and the loss of a lane (R97, R106, R107, R112). -/

namespace Sys2Proof.Machine

/-! ## A lane and its buffer -/

@[simp] theorem Four.set_set {α : Type} (q : Four α) (p : Fin 4) (a b : α) : (q.set p a).set p b = q.set p b := by
  fin_cases p <;> rfl

/-- The store with a buffer given back, if there is one. -/
def Ss.giveBack (b : Option Nat) (ss : Ss) : Ss :=
  match b with
  | none => ss
  | some k => ss.release k

@[simp] theorem Ss.giveBack_none (ss : Ss) : ss.giveBack none = ss := rfl

@[simp] theorem Ss.giveBack_some (ss : Ss) (b : Nat) : ss.giveBack (some b) = ss.release b := rfl

theorem Node.giveBack_eq (b : Option Nat) (n : Node) : n.giveBack b = { n with ss := n.ss.giveBack b } := by
  cases b <;> rfl

theorem Ss.buf_giveBack_of_ne {ss : Ss} {o : Option Nat} {b : Nat} (h : o ≠ some b) :
    (ss.giveBack o).buf b = ss.buf b := by
  cases o with
  | none => rfl
  | some k => exact Ss.buf_release_of_ne fun hk => h (by rw [hk])

theorem Ss.buf_giveBack_self {ss : Ss} {o : Option Nat} {b : Nat} (h : o = some b) :
    (ss.giveBack o).buf b = Buf.free := by
  subst h
  exact Ss.buf_release_self ss b

/-- Lane `p` as it stands after an operation of its own that gives back at most one buffer. -/
def Node.laneStep (p : Fin 4) (l : Lane) (b : Option Nat) (n : Node) : Node :=
  { n with rl := n.rl.set p l, ss := n.ss.giveBack b }

section laneStep
variable (p : Fin 4) (l : Lane) (b : Option Nat) (n : Node)

@[simp] theorem Node.laneStep_lane_self : (n.laneStep p l b).lane p = l := Four.get_set_self _ _ _

theorem Node.laneStep_lane_of_ne {q : Fin 4} (h : q ≠ p) : (n.laneStep p l b).lane q = n.lane q :=
  Four.get_set_of_ne _ _ h

theorem Node.onLane_eq (f : Lane → Lane) : n.onLane p f = n.laneStep p (f (n.lane p)) none := rfl

theorem Node.abandon_eq : n.abandon p = n.laneStep p { n.lane p with seg := .none } (n.lane p).seg.buffer := by
  rw [Node.abandon, Node.giveBack_eq]
  rfl

@[simp] theorem Node.laneStep_laneStep_none (l' : Lane) : (n.laneStep p l b).laneStep p l' none = n.laneStep p l' b := by
  simp [Node.laneStep]

/-- An operation of the lane after a lane's step gives back no buffer. -/
theorem Node.onLane_laneStep (f : Lane → Lane) : (n.laneStep p l b).onLane p f = n.laneStep p (f l) b := by
  rw [Node.onLane_eq, Node.laneStep_lane_self, Node.laneStep_laneStep_none]

theorem Node.countLane_laneStep (k : LaneCount) :
    (n.laneStep p l b).countLane p k = (n.laneStep p (l.count k) b).raiseIf k.isSegmentLoss .segmentLoss := by
  rw [Node.countLane, Node.onLane_laneStep]

/-- A notice raised before a lane's step or after it. -/
theorem Node.laneStep_raise (src : Source) : (n.raise src).laneStep p l b = (n.laneStep p l b).raise src := rfl

theorem Node.raise_lane (src : Source) (q : Fin 4) : (n.raise src).lane q = n.lane q := rfl

end laneStep

/-! ## A lane lost -/

/-- The node with lane `p` in DARK, its buffer given back, as it reports to the engine. -/
def Node.laneLost (p : Fin 4) (cause : LaneCount) (n : Node) : Node :=
  (n.laneStep p ((n.lane p).toDark.count cause) (n.lane p).seg.buffer).raise .laneChange

theorem Node.loseLane_eq (c : Settled) (p : Fin 4) {cause : LaneCount} (h : cause.isSegmentLoss = false) (n : Node) :
    n.loseLane c p cause = ((n.laneLost p cause).planeLost c p).settleRefs := by
  unfold Node.loseLane
  dsimp only
  rw [Node.abandon_eq, Node.onLane_laneStep, Node.countLane_laneStep, h]
  rfl

/-! ## What the engine does of a lost plane -/

section planeLost
variable {n : Node} (c : Settled) (p : Fin 4)

/-- The node whose plane `p` has left the locked set. -/
def Node.planeUnlocked (p : Fin 4) (n : Node) : Node :=
  { n with se := { n.se with lockedSet := PlaneSet.remove n.se.lockedSet p } }

theorem Node.planeLost_of_idle (h : n.se.state = .idle) : n.planeLost c p = n.planeUnlocked p := by
  simp only [Node.planeLost, h]
  simp only [Node.planeUnlocked, h]

theorem Node.planeLost_of_flushing {f : FrameCtx} (h : n.se.state = .flushing f) :
    n.planeLost c p = (n.planeUnlocked p).setEngine (.flushing { f with j := PlaneSet.remove f.j p }) := by
  simp only [Node.planeLost, h]
  rfl

theorem Node.planeLost_of_run {f : FrameCtx} (h : n.se.state = .run f) (hj : PlaneSet.remove f.j p ≠ 0) :
    n.planeLost c p = (((n.planeUnlocked p).setEngine (.run { f with j := PlaneSet.remove f.j p })).reevaluate
      (PlaneSet.remove f.j p)).runEngine c := by
  simp only [Node.planeLost, h, hj, if_false]
  rfl

/-- The node as a flush for want of planes begins. -/
def Node.emptied (f : FrameCtx) (p : Fin 4) (n : Node) : Node :=
  Node.enterFlushing { f with j := PlaneSet.remove f.j p }
    { n.planeUnlocked p with se := { (n.planeUnlocked p).se with resyncEmpty := Counter.bump n.se.resyncEmpty } }

theorem Node.planeLost_of_emptied {f : FrameCtx} (h : n.se.state = .run f) (hj : PlaneSet.remove f.j p = 0) :
    n.planeLost c p = (n.emptied f p).runEngine c := by
  simp only [Node.planeLost, h, hj, if_true]
  simp only [Node.emptied, Node.planeUnlocked, hj, h]

theorem Node.planeLost_frame : EngineFrame (n.planeUnlocked p) (n.planeLost c p) := by
  rcases h : n.se.state with _ | f | f
  · rw [Node.planeLost_of_idle c p h]
    exact EngineFrame.refl _
  · by_cases hj : PlaneSet.remove f.j p = 0
    · rw [Node.planeLost_of_emptied c p h hj]
      exact ((EngineFrame.of_se (n.planeUnlocked p) _).trans (Node.enterFlushing_frame _ _)).trans
        (Node.runEngine_frame c _)
    · rw [Node.planeLost_of_run c p h hj]
      exact ((EngineFrame.of_se (n.planeUnlocked p) _).trans (Node.reevaluate_frame _ _)).trans (Node.runEngine_frame c _)
  · rw [Node.planeLost_of_flushing c p h]
    exact EngineFrame.of_se (n.planeUnlocked p) _

end planeLost

/-- What a plane's loss and the count of references after it make of a node. -/
structure Node.PlaneGone (p : Fin 4) (m t : Node) : Prop where
  frame : t = { m with ss := t.ss, se := t.se, ou := t.ou, rh := { m.rh with notices := t.rh.notices } }
  locked : t.se.lockedSet = PlaneSet.remove m.se.lockedSet p
  idle : m.se.state = .idle → t.se = { m.se with lockedSet := t.se.lockedSet } ∧ t.ou = m.ou
  buf : ∀ b, (∀ k, (m.ss.buf b).state ≠ .referenced k) → t.ss.buf b = m.ss.buf b
  pending : ∀ k, m.rh.isPending k = true → t.rh.isPending k = true

theorem Node.PlaneGone.of_planeLost (c : Settled) (p : Fin 4) (m : Node) :
    m.PlaneGone p (m.planeLost c p).settleRefs := by
  have h := Node.planeLost_frame (n := m) c p
  have hss : (m.planeLost c p).ss = m.ss := by rw [h.frame]; rfl
  refine ⟨?_, h.locked, fun hidle => ?_, fun b hb => ?_, h.notices⟩
  · rw [Node.settleRefs, h.frame]
    rfl
  · rw [Node.planeLost_of_idle c p hidle]
    exact ⟨rfl, rfl⟩
  · rw [Node.settleRefs_buf, hss, Buf.recount_of_not_referenced hb]

namespace Node.PlaneGone

variable {p : Fin 4} {m t : Node} (h : m.PlaneGone p t)
include h

theorem rl : t.rl = m.rl := by rw [h.frame]

theorem pins : t.pins = m.pins := by rw [h.frame]

theorem lane (q : Fin 4) : t.lane q = m.lane q := by rw [Node.lane, h.rl]; rfl

end Node.PlaneGone

/-- What a lane's loss leaves of the node, `l` the lane as it stands afterwards and `o` the buffer it gives back. -/
theorem Node.laneLost_spec {n m t : Node} {p : Fin 4} {l : Lane} {o : Option Nat} (hm : m.PlaneGone p t)
    (hrl : m.rl = n.rl.set p l) (hss : m.ss = n.ss.giveBack o) :
    t.lane p = l ∧ (∀ q, q ≠ p → t.lane q = n.lane q)
    ∧ (∀ b, o = some b → t.ss.buf b = Buf.free)
    ∧ (∀ b, o ≠ some b → (∀ k, (n.ss.buf b).state ≠ .referenced k) → t.ss.buf b = n.ss.buf b)
    ∧ (∀ b, o = some b → m.ss = n.ss.release b) ∧ (o = none → m.ss = n.ss) := by
  refine ⟨?_, fun q hq => ?_, fun b hb => ?_, fun b hb hk => ?_, fun b hb => ?_, fun hnone => ?_⟩
  · rw [hm.lane, Node.lane, hrl, Four.get_set_self]
  · rw [hm.lane, Node.lane, hrl, Four.get_set_of_ne _ _ hq]
    rfl
  · have hfree : m.ss.buf b = Buf.free := by rw [hss, Ss.buf_giveBack_self hb]
    exact (hm.buf b (by rw [hfree]; nofun)).trans hfree
  · have hkept : m.ss.buf b = n.ss.buf b := by rw [hss, Ss.buf_giveBack_of_ne hb]
    exact (hm.buf b (by rwa [hkept])).trans hkept
  · rw [hss, hb, Ss.giveBack_some]
  · rw [hss, hnone, Ss.giveBack_none]

/-- The contributions of a table discarded, with their count and notice. -/
theorem Node.emptied_spec (n : Node) (f : FrameCtx) (p : Fin 4) :
    n.emptied f p = { n with
      se := { n.se with
        lockedSet := PlaneSet.remove n.se.lockedSet p, state := .flushing { f with j := PlaneSet.remove f.j p }
        table := [], strayRun := 0, resyncEmpty := Counter.bump n.se.resyncEmpty
        contribDiscarded :=
          Counter.bumps (n.se.table.map fun r => contribCount r.contribs).sum n.se.contribDiscarded }
      rh := { n.rh with notices := (n.emptied f p).rh.notices } }
    ∧ (n.emptied f p).rh.isPending 10 = true
    ∧ (0 < (n.se.table.map fun r => contribCount r.contribs).sum → (n.emptied f p).rh.isPending 11 = true) := by
  refine ⟨?_, Node.raise_pending _ .stitchResync, fun hk => Node.raise_keeps _ _ _ ?_⟩
  · unfold Node.emptied Node.enterFlushing Node.discardTable Node.raiseIf
    dsimp only
    split <;> rfl
  · have hcond : ((n.se.table.map fun r => contribCount r.contribs).sum != 0) = true :=
      bne_iff_ne.2 (Nat.pos_iff_ne_zero.1 hk)
    simp only [Node.discardTable, Node.planeUnlocked, hcond]
    exact Node.raise_pending _ .segmentLoss

section works
variable {s : State} {c : Settled} (hw : s.node.WorksBase c) {P : Node → Prop} (p : Fin 4)
include hw

theorem yields_carrierLoss : Yields (.carrierLoss p) s P ↔ P (s.node.carrierLoss c p) := by
  rw [yields_iff_after, Node.after_carrierLoss, Node.awake_of_high hw.1, Node.asBase_of hw.2]

theorem yields_silenceTimeout : Yields (.silenceTimeout p) s P ↔ P (s.node.silenceTimeout c p) := by
  rw [yields_iff_after, Node.after_silenceTimeout, Node.awake_of_high hw.1, Node.asBase_of hw.2]

end works

section carrier
variable {n : Node} {c : Settled} {p : Fin 4}

theorem Node.carrierLoss_of_dark (h : (n.lane p).state = .dark) : n.carrierLoss c p = n.seeCarrier p false := by
  have hl : ((n.seeCarrier p false).lane p).state = .dark := h
  simp only [Node.carrierLoss, hl]

theorem Node.carrierLoss_of_locking (h : (n.lane p).state = .locking) :
    n.carrierLoss c p =
      (n.seeCarrier p false).laneStep p (n.lane p).toDark (n.lane p).seg.buffer := by
  have hl : ((n.seeCarrier p false).lane p).state = .locking := h
  simp only [Node.carrierLoss, hl]
  rw [Node.abandon_eq, Node.onLane_laneStep]
  rfl

theorem Node.carrierLoss_of_locked (h : (n.lane p).state = .locked) :
    n.carrierLoss c p = (((n.seeCarrier p false).laneLost p .lossCarrier).planeLost c p).settleRefs := by
  have hl : ((n.seeCarrier p false).lane p).state = .locked := h
  simp only [Node.carrierLoss, hl]
  exact Node.loseLane_eq c p rfl _

theorem Node.silenceTimeout_of_locking (hs : (n.lane p).isSilent n.tb.e = true) (h : (n.lane p).state = .locking) :
    n.silenceTimeout c p = n.laneStep p { n.lane p with goodRun := 0, deadline := none } none := by
  unfold Node.silenceTimeout
  rw [if_pos hs]
  split
  · next hdark => cases h.symm.trans hdark
  · rfl
  · next hlocked => cases h.symm.trans hlocked

theorem Node.silenceTimeout_of_locked (hs : (n.lane p).isSilent n.tb.e = true) (h : (n.lane p).state = .locked) :
    n.silenceTimeout c p = ((n.laneLost p .lossSilence).planeLost c p).settleRefs := by
  simp only [Node.silenceTimeout, hs, h, if_true]
  exact Node.loseLane_eq c p rfl _

theorem Node.seeCarrier_get (n : Node) (p : Fin 4) (v : Bool) : (n.seeCarrier p v).pins.cp.get p = v :=
  Four.get_set_self _ _ _

end carrier

/-- Settles O37: the engine's part by its state, and the two losses by the lane's state. -/
theorem laneLosses : Obligations.LaneLosses := by
  refine ⟨fun n c p => ⟨Node.planeLost_of_idle c p, fun f => Node.planeLost_of_flushing c p, fun f =>
    Node.planeLost_of_run c p, fun f hf hj => ?_⟩, fun s c p hw => ⟨fun hdark => ?_, fun hlocking => ?_, fun hlocked =>
    ?_, fun hs hlocking => ?_, fun hs hlocked => ?_⟩⟩
  · obtain ⟨hframe, hresync, hloss⟩ := n.emptied_spec f p
    rw [hj] at hframe
    exact ⟨n.emptied f p, _, Node.planeLost_of_emptied c p hf hj, rfl, hframe, hresync, hloss⟩
  · rw [yields_carrierLoss hw]
    exact Node.carrierLoss_of_dark hdark
  · rw [yields_carrierLoss hw, Node.carrierLoss_of_locking hlocking]
    refine ⟨Node.laneStep_lane_self _ _ _ _, fun b hb => ?_, fun hnone => ?_,
      fun q hq => Node.laneStep_lane_of_ne _ _ _ _ hq, s.node.seeCarrier_get p false, rfl⟩
    · rw [hb]
      rfl
    · rw [hnone]
      rfl
  · rw [yields_carrierLoss hw, Node.carrierLoss_of_locked hlocked]
    have hgone := Node.PlaneGone.of_planeLost c p ((s.node.seeCarrier p false).laneLost p .lossCarrier)
    have hpending := hgone.pending 9 (Node.raise_pending _ .laneChange)
    obtain ⟨hlane, hothers, hfree, hkept, hback, hnone⟩ :=
      Node.laneLost_spec (n := s.node) (o := (s.node.lane p).seg.buffer) hgone rfl rfl
    have hframe := hgone.frame
    have hrl := hgone.rl
    have hpins := hgone.pins
    refine ⟨hlane, hothers, ?_, hpending, hgone.locked, hgone.idle, hfree, hkept, ⟨_, rfl, hback, hnone, ?_⟩, ?_⟩
    · rw [hpins]
      exact s.node.seeCarrier_get p false
    · rw [hrl, hpins]
      rfl
    · rw [hrl, hpins]
      exact hframe
  · rw [yields_silenceTimeout hw, Node.silenceTimeout_of_locking hs hlocking]
    exact ⟨Node.laneStep_lane_self _ _ _ _, fun q hq => Node.laneStep_lane_of_ne _ _ _ _ hq, rfl⟩
  · rw [yields_silenceTimeout hw, Node.silenceTimeout_of_locked hs hlocked]
    have hgone := Node.PlaneGone.of_planeLost c p (s.node.laneLost p .lossSilence)
    have hpending := hgone.pending 9 (Node.raise_pending _ .laneChange)
    obtain ⟨hlane, hothers, hfree, hkept, hback, hnone⟩ :=
      Node.laneLost_spec (n := s.node) (o := (s.node.lane p).seg.buffer) hgone rfl rfl
    have hframe := hgone.frame
    have hrl := hgone.rl
    have hpins := hgone.pins
    refine ⟨hlane, hothers, hpins, hpending, hgone.locked, hgone.idle, hfree, hkept, ⟨_, rfl, hback, hnone, ?_⟩, ?_⟩
    · rw [hrl, hpins]
      rfl
    · rw [hrl]
      exact hframe

end Sys2Proof.Machine
end

section
/-! SUPPORT. Bad segments (R102), the starts of segments (R96, R98) and their headers (R99, R100). -/

namespace Sys2Proof.Machine

/-! ## A bad segment -/

/-- A lane without its segment, which is counted under its cause. -/
def Lane.badCounted (cause : LaneCount) (l : Lane) : Lane := Lane.count cause { l with seg := .none }

/-- A lane after a bad segment (the table of R102). -/
def Lane.afterBad (cause : LaneCount) (l : Lane) : Lane :=
  match l.state with
  | .dark => l.badCounted cause
  | .locking => { l.badCounted cause with goodRun := 0 }
  | .locked =>
    if 3 ≤ l.badRun then Lane.count .lossBad (Lane.toDark { l.badCounted cause with badRun := l.badRun + 1 })
    else { l.badCounted cause with badRun := l.badRun + 1 }

section afterBad
variable {l : Lane} {cause : LaneCount}

theorem Lane.afterBad_of_locking (h : l.state = .locking) :
    l.afterBad cause = { l.badCounted cause with goodRun := 0 } := by
  simp only [Lane.afterBad, h]

theorem Lane.afterBad_of_few (h : l.state = .locked) (hfew : l.badRun < 3) :
    l.afterBad cause = { l.badCounted cause with badRun := l.badRun + 1 } := by
  simp only [Lane.afterBad, h, Nat.not_le.2 hfew, if_false]

theorem Lane.afterBad_of_fourth (h : l.state = .locked) (hfourth : 3 ≤ l.badRun) :
    l.afterBad cause = Lane.count .lossBad (Lane.toDark { l.badCounted cause with badRun := l.badRun + 1 }) := by
  simp only [Lane.afterBad, h, hfourth, if_true]

/-- What a bad segment leaves of its lane whatever its state. -/
theorem Lane.afterBad_frame (l : Lane) (cause : LaneCount) :
    (l.afterBad cause).seg = .none ∧ (l.afterBad cause).good = (l.badCounted cause).good
    ∧ (l.afterBad cause).checkFail = (l.badCounted cause).checkFail
    ∧ (l.afterBad cause).malformed = (l.badCounted cause).malformed := by
  have hseg : (l.badCounted cause).seg = .none := by cases cause <;> rfl
  unfold Lane.afterBad
  split
  · exact ⟨hseg, rfl, rfl, rfl⟩
  · exact ⟨hseg, rfl, rfl, rfl⟩
  · split
    · exact ⟨rfl, rfl, rfl, rfl⟩
    · exact ⟨hseg, rfl, rfl, rfl⟩

@[simp] theorem Lane.badCounted_state (l : Lane) (cause : LaneCount) : (l.badCounted cause).state = l.state := by
  cases cause <;> rfl

@[simp] theorem Lane.badCounted_badRun (l : Lane) (cause : LaneCount) : (l.badCounted cause).badRun = l.badRun := by
  cases cause <;> rfl

theorem Lane.badCounted_deadline (l : Lane) (cause : LaneCount) : (l.badCounted cause).deadline = l.deadline := by
  cases cause <;> rfl

theorem Lane.badCounted_lossBad (l : Lane) {cause : LaneCount} (h : cause.isSegmentLoss = true) :
    (l.badCounted cause).lossBad = l.lossBad := by
  cases cause <;> first | rfl | cases h

end afterBad

/-- The node with lane `p` after a bad segment that does not lose it. -/
def Node.badEnded (p : Fin 4) (cause : LaneCount) (n : Node) : Node :=
  (n.laneStep p ((n.lane p).afterBad cause) (n.lane p).seg.buffer).raise .segmentLoss

/-- The node with a bad segment of lane `p` ended and counted, before the lane's run follows. -/
def Node.badStep (p : Fin 4) (cause : LaneCount) (n : Node) : Node :=
  (n.laneStep p ((n.lane p).badCounted cause) (n.lane p).seg.buffer).raise .segmentLoss

section bad
variable {n : Node} {c : Settled} {p : Fin 4} {cause : LaneCount}

theorem Node.badStep_lane : (n.badStep p cause).lane p = (n.lane p).badCounted cause := Four.get_set_self _ _ _

theorem Node.onLane_badStep (f : Lane → Lane) :
    (n.badStep p cause).onLane p f =
      (n.laneStep p (f ((n.lane p).badCounted cause)) (n.lane p).seg.buffer).raise .segmentLoss := by
  rw [Node.onLane_eq, Node.badStep_lane, Node.badStep, Node.laneStep_raise, Node.laneStep_laneStep_none]

variable (hk : cause.isSegmentLoss = true)
include hk

theorem Node.countLane_abandon : (n.abandon p).countLane p cause = n.badStep p cause := by
  rw [Node.abandon_eq, Node.countLane_laneStep, hk]
  rfl

theorem Node.badSegment_of_kept (h : (n.lane p).state ≠ .locked ∨ (n.lane p).badRun < 3) :
    n.badSegment c p cause = n.badEnded p cause := by
  unfold Node.badSegment
  dsimp only
  rw [Node.countLane_abandon hk, Node.badStep_lane, Lane.badCounted_state, Node.badEnded]
  rcases hs : (n.lane p).state with _ | _ | _
  · simp only [Lane.afterBad, hs]
    rfl
  · rw [Lane.afterBad_of_locking hs]
    exact Node.onLane_badStep _
  · have hfew : (n.lane p).badRun < 3 := h.resolve_left (absurd hs)
    rw [Lane.afterBad_of_few hs hfew]
    dsimp only
    rw [Node.onLane_badStep, if_neg, Lane.badCounted_badRun]
    rw [Node.raise_lane, Node.laneStep_lane_self, Lane.badCounted_badRun]
    exact Nat.not_le.2 (Nat.succ_lt_succ hfew)

theorem Node.badSegment_of_lost (h : (n.lane p).state = .locked) (hfourth : 3 ≤ (n.lane p).badRun) :
    n.badSegment c p cause = (((n.badEnded p cause).raise .laneChange).planeLost c p).settleRefs := by
  have hseg : ((n.lane p).badCounted cause).seg.buffer = none := by cases cause <;> rfl
  unfold Node.badSegment
  dsimp only
  rw [Node.countLane_abandon hk, Node.badStep_lane, Lane.badCounted_state, h]
  dsimp only
  rw [Node.onLane_badStep, if_pos, Node.loseLane_eq c p rfl, Node.laneLost, Node.raise_lane,
    Node.laneStep_lane_self, Node.badEnded, Lane.afterBad_of_fourth h hfourth]
  · dsimp only
    rw [hseg, Node.laneStep_raise, Node.laneStep_laneStep_none, Lane.badCounted_badRun]
  · rw [Node.raise_lane, Node.laneStep_lane_self, Lane.badCounted_badRun]
    exact Nat.succ_le_succ hfourth

end bad

/-- What a bad segment makes of the node. -/
structure Node.BadEnd (p : Fin 4) (cause : LaneCount) (n t : Node) : Prop where
  lane : t.lane p = (n.lane p).afterBad cause
  others : ∀ q, q ≠ p → t.lane q = n.lane q
  freed : ∀ b, (n.lane p).seg.buffer = some b → t.ss.buf b = Buf.free
  kept : ∀ b, (n.lane p).seg.buffer ≠ some b → (∀ k, (n.ss.buf b).state ≠ .referenced k) → t.ss.buf b = n.ss.buf b
  pending : t.rh.isPending 11 = true

theorem Node.badSegment_badEnd (n : Node) (c : Settled) (p : Fin 4) {cause : LaneCount}
    (hk : cause.isSegmentLoss = true) : n.BadEnd p cause (n.badSegment c p cause) := by
  by_cases h : (n.lane p).state = .locked ∧ 3 ≤ (n.lane p).badRun
  · rw [Node.badSegment_of_lost hk h.1 h.2]
    have hgone := Node.PlaneGone.of_planeLost c p ((n.badEnded p cause).raise .laneChange)
    obtain ⟨hlane, hothers, hfree, hkept, -, -⟩ :=
      Node.laneLost_spec (n := n) (o := (n.lane p).seg.buffer) hgone rfl rfl
    exact ⟨hlane, hothers, hfree, hkept,
      hgone.pending 11 (Node.raise_keeps _ _ _ (Node.raise_pending _ .segmentLoss))⟩
  · have hkept : (n.lane p).state ≠ .locked ∨ (n.lane p).badRun < 3 :=
      (Classical.not_and_iff_not_or_not.1 h).imp_right Nat.not_le.1
    rw [Node.badSegment_of_kept hk hkept]
    exact ⟨Four.get_set_self _ _ _, fun q hq => Four.get_set_of_ne _ _ hq,
      fun b hb => Ss.buf_giveBack_self hb, fun b hb _ => Ss.buf_giveBack_of_ne hb,
      Node.raise_pending _ .segmentLoss⟩

/-! ## A start delimiter -/

theorem segmentGood_truncation (c : Settled) (p : Fin 4) (v : Bool) (bytes : List Byte) (h : SegHeader)
    (rest : List Byte) : segmentGood c p .truncation v bytes h rest = false := by
  simp [segmentGood, segmentCheck]

theorem segmentCheck_truncation (v : Bool) (bytes rest : List Byte) : segmentCheck .truncation v bytes rest = false := by
  simp [segmentCheck]

theorem Node.segmentEnd_truncation {n : Node} {p : Fin 4} (h : (n.lane p).seg ≠ .none) (c : Settled) :
    n.segmentEnd c p .truncation false [] = n.badSegment c p .checkFail := by
  unfold Node.segmentEnd
  split
  · next hs => exact absurd hs h
  · rfl
  · simp only [segmentGood_truncation, segmentCheck_truncation, Bool.false_eq_true, if_false]

theorem Lane.start_eq (l : Lane) :
    l.start = if l.state = .dark then { l with state := .locking, goodRun := 0, seg := .started }
      else { l with seg := .started } := by
  rcases h : l.state with _ | _ | _ <;> simp [Lane.start, h]

section works
variable {s : State} {c : Settled} (hw : s.node.WorksBase c) {P : Node → Prop} (p : Fin 4)
include hw

theorem yields_startDelimiter (cp : Bool) :
    Yields (.startDelimiter p cp) s P ↔ P (s.node.startDelimiter c p cp) := by
  rw [yields_iff_after, Node.after_startDelimiter, Node.awake_of_high hw.1, Node.asBase_of hw.2]

theorem yields_segmentHeader (bytes : List Byte) :
    Yields (.segmentHeader p bytes) s P ↔ P (s.node.segmentHeader c p bytes) := by
  rw [yields_iff_after, Node.after_segmentHeader, Node.awake_of_high hw.1, Node.asBase_of hw.2]

theorem yields_segmentEnd (how : SegEnd) (v : Bool) (rest : List Byte) :
    Yields (.segmentEnd p how v rest) s P ↔ P (s.node.segmentEnd c p how v rest) := by
  rw [yields_iff_after, Node.after_segmentEnd, Node.awake_of_high hw.1, Node.asBase_of hw.2]

end works

section start
variable {n : Node} {c : Settled} {p : Fin 4}

theorem Node.startDelimiter_of_none (h : (n.lane p).seg = .none) :
    n.startDelimiter c p true = (n.seeCarrier p true).laneStep p (n.lane p).start none := by
  have hseg : ((n.seeCarrier p true).lane p).seg = .none := h
  have hend : (n.seeCarrier p true).segmentEnd c p .truncation false [] = n.seeCarrier p true := by
    simp only [Node.segmentEnd, hseg]
  unfold Node.startDelimiter
  rw [if_pos rfl, hend]
  rfl

theorem Node.startDelimiter_of_some (h : (n.lane p).seg ≠ .none) :
    n.startDelimiter c p true = ((n.seeCarrier p true).badSegment c p .checkFail).onLane p Lane.start := by
  rw [← Node.segmentEnd_truncation (n := n.seeCarrier p true) h]
  rfl

end start

/-! ## A header -/

section header
variable {n : Node} {c : Settled} {p : Fin 4} {bytes : List Byte} {h : SegHeader}
variable (hh : h = SegHeader.ofBytes bytes) (hlen : bytes.length = 16) (hseg : (n.lane p).seg = .started)
include hh hlen hseg

theorem Node.segmentHeader_of_checkOnly
    (hbad : headerGood c p h = false ∨ (n.lane p).asks = false ∨ n.judge p h.frame h.line ≠ .accept) :
    n.segmentHeader c p bytes = n.laneStep p { n.lane p with seg := .body bytes h .checkOnly } none := by
  subst hh
  have hcond : ¬(headerGood c p (SegHeader.ofBytes bytes) && (n.lane p).asks
      && n.judge p (SegHeader.ofBytes bytes).frame (SegHeader.ofBytes bytes).line == .accept) = true := by
    simp only [Bool.and_eq_true, beq_iff_eq]
    obtain hbad | hbad | hbad := hbad <;> simp [hbad]
  unfold Node.segmentHeader
  dsimp only
  rw [if_pos (by simp [hseg, hlen]), if_neg hcond, Node.onLane_eq]

theorem Node.segmentHeader_of_asked (hgood : headerGood c p h = true) (hasks : (n.lane p).asks = true)
    (hjudge : n.judge p h.frame h.line = .accept) : n.segmentHeader c p bytes = n.askGrant p bytes h := by
  subst hh
  unfold Node.segmentHeader
  dsimp only
  rw [if_pos (by simp [hseg, hlen]), if_pos (by simp [hgood, hasks, hjudge])]

end header

section askGrant
variable {n : Node} {p : Fin 4} {bytes : List Byte} {h : SegHeader}

theorem Node.askGrant_of_some {b : Nat} (hb : firstFree n.ss.bufs = some b)
    (hres : (Requester.lane p h.frame h.line).reserved n.se.state n.ss.freeCount = false) :
    n.askGrant p bytes h = { n with
      ss := n.ss.granted (.lane p h.frame h.line) b
      rl := n.rl.set p { n.lane p with seg := .body bytes h (.filling b) } } := by
  simp only [Node.askGrant, Ss.grant_of_some hb hres]
  rfl

theorem Node.askGrant_of_none {ss : Ss} (hg : n.ss.grant n.se.state (.lane p h.frame h.line) = (ss, none)) :
    n.askGrant p bytes h = Node.raise { n with
      ss := ss
      rl := n.rl.set p { n.lane p with
        seg := .body bytes h .refused, noBuffer := Counter.bump (n.lane p).noBuffer } } .segmentLoss := by
  simp only [Node.askGrant, hg]
  rw [Node.onLane_eq, Node.countLane_laneStep]
  rfl

end askGrant

/-- Settles O38: a start by the segment in progress and the lane's state, a header by what is granted. -/
theorem segmentStarts : Obligations.SegmentStarts := by
  intro s c p hw
  refine ⟨?_, fun hnone => ?_, fun hsome hdark hruns => ?_, fun hsome hlocked hfourth => ?_,
    fun bytes h hh hlen hseg => ⟨fun hbad => ?_, fun hgood hasks hjudge => ⟨fun hroom => ?_, fun hfull => ?_⟩⟩⟩
  · rw [exec_eq_next, exec_eq_next, Node.after_startDelimiter, Node.after_carrierLoss]
    rfl
  · rw [yields_startDelimiter hw, Node.startDelimiter_of_none hnone]
    exact ⟨(Node.laneStep_lane_self _ _ _ _).trans (Lane.start_eq _),
      fun q hq => Node.laneStep_lane_of_ne _ _ _ _ hq, s.node.seeCarrier_get p true, rfl⟩
  · have hkept : (s.node.lane p).state ≠ .locked ∨ (s.node.lane p).badRun < 3 :=
      hruns.imp_left fun hlocking => by rw [hlocking]; nofun
    rw [yields_startDelimiter hw, Node.startDelimiter_of_some hsome,
      Node.badSegment_of_kept (n := s.node.seeCarrier p true) rfl hkept, Node.badEnded, Node.onLane_eq,
      Node.raise_lane, Node.laneStep_lane_self, Node.laneStep_raise, Node.laneStep_laneStep_none]
    refine ⟨?_, fun q hq => Four.get_set_of_ne _ _ hq,
      s.node.seeCarrier_get p true, Node.raise_pending _ .segmentLoss, fun b hb => ?_, fun hb => ?_, rfl⟩
    · rw [Node.laneStep_lane_self]
      show ((s.node.lane p).afterBad .checkFail).start = _
      rcases hs : (s.node.lane p).state with _ | _ | _
      · exact absurd hs hdark
      · rw [Lane.afterBad_of_locking hs, if_pos rfl, Lane.start_eq, if_neg (by
          rw [Lane.badCounted_state, hs]
          nofun)]
        rfl
      · rw [Lane.afterBad_of_few hs (hkept.resolve_left (absurd hs)), if_neg nofun, Lane.start_eq, if_neg (by
          rw [Lane.badCounted_state, hs]
          nofun)]
        rfl
    · exact congrArg (fun o => Ss.giveBack o s.node.ss) hb
    · exact congrArg (fun o => Ss.giveBack o s.node.ss) hb
  · rw [yields_startDelimiter hw, Node.startDelimiter_of_some hsome,
      Node.badSegment_of_lost (n := s.node.seeCarrier p true) rfl hlocked hfourth]
    have hgone := Node.PlaneGone.of_planeLost c p
      (((s.node.seeCarrier p true).badEnded p .checkFail).raise .laneChange)
    obtain ⟨hlane, hothers, hfree, hkept, hback, hnone⟩ :=
      Node.laneLost_spec (n := s.node) (o := (s.node.lane p).seg.buffer) hgone rfl rfl
    refine ⟨?_, fun q hq => ?_, hgone.pending 9 (Node.raise_pending _ .laneChange),
      hgone.pending 11 (Node.raise_keeps _ _ _ (Node.raise_pending _ .segmentLoss)), hgone.locked, hfree,
      ⟨_, rfl, hback, hnone, rfl⟩⟩
    · rw [Node.onLane_lane_self, hlane]
      show ((s.node.lane p).afterBad .checkFail).start = _
      rw [Lane.afterBad_of_fourth hlocked hfourth]
      rfl
    · rw [Node.onLane_lane_of_ne _ _ hq]
      exact hothers q hq
  · rw [yields_segmentHeader hw, Node.segmentHeader_of_checkOnly hh hlen hseg hbad]
    exact ⟨Node.laneStep_lane_self _ _ _ _, fun q hq => Node.laneStep_lane_of_ne _ _ _ _ hq, rfl⟩
  · have hfree : 1 ≤ s.node.ss.freeCount := by omega
    have hres : (Requester.lane p h.frame h.line).reserved s.node.se.state s.node.ss.freeCount = false := by
      obtain hmany | ⟨-, hkey⟩ := hroom
      · simp [Requester.reserved, show ¬s.node.ss.freeCount ≤ 4 by omega]
      · simp [Requester.reserved, hkey]
    obtain ⟨b, hb⟩ := Ss.exists_firstFree hfree
    rw [yields_segmentHeader hw, Node.segmentHeader_of_asked hh hlen hseg hgood hasks hjudge,
      Node.askGrant_of_some hb hres]
    exact ⟨⟨b, Four.get_set_self _ _ _, (firstFree_spec hb).2.1, Ss.granted_buf_self hb _,
      fun k hk => Ss.granted_buf_of_ne hk _⟩, fun q hq => Four.get_set_of_ne _ _ hq, rfl⟩
  · have hgrant : s.node.ss.grant s.node.se.state (.lane p h.frame h.line) =
        (if s.node.ss.freeCount = 0
          then { s.node.ss with refusedEmpty := Counter.bump s.node.ss.refusedEmpty }
          else { s.node.ss with refusedReserve := Counter.bump s.node.ss.refusedReserve }, none) := by
      by_cases hnone : s.node.ss.freeCount = 0
      · rw [Ss.grant_of_none hnone, if_pos hnone]
      · obtain ⟨hfew, hkey⟩ := hfull.resolve_left hnone
        rw [Ss.grant_of_reserved (Nat.pos_of_ne_zero hnone) (by simp [Requester.reserved, hfew, hkey]), if_neg hnone]
    rw [yields_segmentHeader hw, Node.segmentHeader_of_asked hh hlen hseg hgood hasks hjudge,
      Node.askGrant_of_none hgrant]
    exact ⟨Four.get_set_self _ _ _, rfl, Node.raise_pending _ .segmentLoss, fun q hq => Four.get_set_of_ne _ _ hq, rfl⟩

end Sys2Proof.Machine
end

section
/-! SUPPORT. What a delivery keeps, and the ends of segments (R98, R102 to R106, R199). -/

namespace Sys2Proof.Machine

/-! ## What a delivery keeps -/

theorem EngineFrame.with_ss {n t : Node} (h : EngineFrame n t) (ss : Ss) :
    EngineFrame { n with ss := ss } { t with ss := ss } :=
  ⟨by rw [h.frame], h.locked, h.queue, h.port, h.notices⟩

/-- The engine's frame, but for the store, in which a delivery marks its buffer. -/
def HandFrame (n t : Node) : Prop := EngineFrame { n with ss := t.ss } t

theorem HandFrame.of_engine {n t : Node} (h : EngineFrame n t) : HandFrame n t := by
  have hss : t.ss = n.ss := by rw [h.frame]
  unfold HandFrame
  rw [hss]
  exact h

theorem HandFrame.before {n m t : Node} (h : EngineFrame n m) (ht : HandFrame m t) : HandFrame n t :=
  (h.with_ss t.ss).trans ht

section
variable (c : Settled) (n : Node)

theorem Node.accept_hand (f : FrameCtx) (d : Delivery) : HandFrame n (n.accept c f d) := by
  have hrun := Node.runEngine_frame c { n with
    ss := n.ss.mark d.buf (.referenced 1)
    se := { n.se with table := tableWith f.j n.tb.e n.rh.runtime.w d n.se.table, strayRun := 0 } }
  have hss : (n.accept c f d).ss = n.ss.mark d.buf (.referenced 1) := by
    unfold Node.accept
    rw [hrun.frame]
  unfold HandFrame
  rw [hss]
  exact (EngineFrame.of_se { n with ss := n.ss.mark d.buf (.referenced 1) } _).trans hrun

theorem Node.deliverIdle_hand (d : Delivery) : HandFrame n (n.deliverIdle c d).1 := by
  unfold Node.deliverIdle
  split
  · exact .of_engine (.refl n)
  · split
    · exact .before (.of_se n _) (Node.accept_hand c _ _ d)
    · exact .of_engine (.refl n)

theorem Node.ownLine_hand (f : FrameCtx) (d : Delivery) : HandFrame n (n.ownLine c f d) := by
  unfold Node.ownLine
  generalize hm : ({ n with
    ss := n.ss.mark d.buf (.referenced 1), se := { n.se with strayRun := 0 } } : Node) = m
  have hrun := (m.releaseLine_frame f d.contribs d.timecode 0 .forced).trans (Node.runEngine_frame c _)
  have hstart : EngineFrame { n with ss := m.ss } m := by
    rw [← hm]
    exact .of_se { n with ss := n.ss.mark d.buf (.referenced 1) } _
  have hss : (Node.runEngine c (m.releaseLine f d.contribs d.timecode 0 .forced)).ss = m.ss := by rw [hrun.frame]
  unfold HandFrame
  rw [hss]
  exact hstart.trans hrun

theorem Node.deliverFull_hand (f : FrameCtx) (r : Record) (d : Delivery) : HandFrame n (n.deliverFull c f r d).1 := by
  unfold Node.deliverFull
  split
  · split
    · exact .of_engine (.refl n)
    · refine .before (n.walkTo_frame c d.frame d.line 4) ?_
      dsimp only
      split
      · exact Node.ownLine_hand c _ _ d
      · exact Node.deliverIdle_hand c _ d
  · split
    · exact .of_engine (.refl n)
    · refine .before (n.force_frame c 4) ?_
      dsimp only
      split
      · split
        · exact Node.accept_hand c _ _ d
        · exact .of_engine (.refl _)
      · exact Node.deliverIdle_hand c _ d

/-- Every delivery. -/
theorem Node.deliver_hand (d : Delivery) : HandFrame n (n.deliver c d).1 := by
  unfold Node.deliver
  split
  · exact n.deliverIdle_hand c d
  · split
    · unfold Node.deliverRun
      split
      · split
        · exact n.deliverFull_hand c _ _ d
        · exact n.accept_hand c _ d
      · exact n.accept_hand c _ d
    · exact .of_engine (n.raiseStray_frame c)
    · exact .of_engine (.refl n)
  · exact .of_engine (.refl n)

theorem Node.present_frame (p : Fin 4) (frame : BitVec 8) (line : Nat) :
    EngineFrame n (n.present c p frame line).1 := by
  unfold Node.present
  dsimp only
  split
  · exact n.raiseStray_frame c
  · exact .refl n

end

/-! ## A good segment handed on -/

/-- An answer counted leaves the lane's state and its good segments. -/
theorem Lane.count_answer (l : Lane) (a : Answer) :
    (l.count a.count).state = l.state ∧ (l.count a.count).seg = l.seg ∧ (l.count a.count).good = l.good
    ∧ (l.count a.count).goodRun = l.goodRun ∧ (l.count a.count).badRun = l.badRun
    ∧ (l.count a.count).deadline = l.deadline := by
  cases a <;> exact ⟨rfl, rfl, rfl, rfl, rfl, rfl⟩

/-- What handing a good segment on keeps of the node. -/
structure Node.Handed (p : Fin 4) (n t : Node) : Prop where
  lane : t.lane p = n.lane p ∨ ∃ a : Answer, t.lane p = (n.lane p).count a.count
  others : ∀ q, q ≠ p → t.lane q = n.lane q
  locked : t.se.lockedSet = n.se.lockedSet
  pending : ∀ k, n.rh.isPending k = true → t.rh.isPending k = true

namespace Node.Handed

variable {p : Fin 4} {n t : Node}

theorem of_hand (h : HandFrame n t) : n.Handed p t := by
  have hrl : t.rl = n.rl := by rw [h.frame]
  have hlane (q : Fin 4) : t.lane q = n.lane q := by rw [Node.lane, hrl]; rfl
  exact ⟨.inl (hlane p), fun q _ => hlane q, h.locked, h.notices⟩

theorem settleRefs (h : n.Handed p t) : n.Handed p t.settleRefs := ⟨h.lane, h.others, h.locked, h.pending⟩

/-- The answer counted. -/
theorem count (h : HandFrame n t) (ss : Ss) (a : Answer) : n.Handed p (Node.countLane p a.count { t with ss := ss }) := by
  have hrl : t.rl = n.rl := by rw [h.frame]
  have hcount : (Node.countLane p a.count { t with ss := ss }).rl = n.rl.set p ((n.lane p).count a.count) := by
    rw [Node.countLane, Node.raiseIf_rl, Node.onLane_rl]
    simp only [Node.lane, hrl]
  refine ⟨.inr ⟨a, ?_⟩, fun q hq => ?_, ?_, fun k hk => Node.raiseIf_keeps _ _ _ _ (h.notices k hk)⟩
  · rw [Node.lane, hcount, Four.get_set_self]
  · rw [Node.lane, hcount, Four.get_set_of_ne _ _ hq]
    rfl
  · rw [Node.countLane_se]
    exact h.locked

/-- What the lane keeps of its state, its runs and its count of good segments. -/
theorem lane_frame (h : n.Handed p t) :
    (t.lane p).state = (n.lane p).state ∧ (t.lane p).seg = (n.lane p).seg ∧ (t.lane p).good = (n.lane p).good
    ∧ (t.lane p).goodRun = (n.lane p).goodRun ∧ (t.lane p).badRun = (n.lane p).badRun
    ∧ (t.lane p).deadline = (n.lane p).deadline := by
  obtain heq | ⟨a, heq⟩ := h.lane
  · rw [heq]
    exact ⟨rfl, rfl, rfl, rfl, rfl, rfl⟩
  · rw [heq]
    exact (n.lane p).count_answer a

end Node.Handed

section handOn
variable {n : Node} {c : Settled} {p : Fin 4} {h : SegHeader} {b : Nat} {payload : List Byte}

/-- The node with the segment's payload in its buffer, and the delivery that goes with it. -/
def Node.delivered (c : Settled) (p : Fin 4) (h : SegHeader) (b : Nat) (payload : List Byte) (n : Node) :
    Node × Answer :=
  Node.deliver c ⟨p, h.frame, h.line, h.length, h.timecode, b, n.tb.e⟩ { n with ss := n.ss.write b payload }

theorem Node.handBuffer_of_accept (ha : (n.delivered c p h b payload).2 = .accept) :
    n.handBuffer c p h b payload = (n.delivered c p h b payload).1 := by
  unfold Node.handBuffer
  dsimp only
  split
  · next heq => exact (congrArg Prod.fst heq).symm
  · next hne heq => exact absurd ((congrArg Prod.snd heq).symm.trans ha) hne

theorem Node.handBuffer_of_refused (ha : (n.delivered c p h b payload).2 ≠ .accept) :
    n.handBuffer c p h b payload =
      Node.countLane p (n.delivered c p h b payload).2.count
        { (n.delivered c p h b payload).1 with ss := (n.delivered c p h b payload).1.ss.release b } := by
  unfold Node.handBuffer
  dsimp only
  split
  · next heq => exact absurd (congrArg Prod.snd heq) ha
  · next heq =>
    have hpair : n.delivered c p h b payload = _ := heq
    rw [hpair]

variable (c p h payload)

theorem Node.handOn_handed (n : Node) (disp : Disposition) : n.Handed p (n.handOn c p h disp payload) := by
  have hpresent := n.present_frame c p h.frame h.line
  cases disp with
  | filling b =>
    have hdeliver : HandFrame n (n.delivered c p h b payload).1 :=
      Node.deliver_hand c { n with ss := n.ss.write b payload } ⟨p, h.frame, h.line, h.length, h.timecode, b, n.tb.e⟩
    refine Node.Handed.settleRefs ?_
    by_cases ha : (n.delivered c p h b payload).2 = .accept
    · rw [Node.handBuffer_of_accept ha]
      exact .of_hand hdeliver
    · rw [Node.handBuffer_of_refused ha]
      exact .count hdeliver _ _
  | refused => exact (Node.Handed.of_hand (.of_engine hpresent)).settleRefs
  | checkOnly => exact (Node.Handed.count (.of_engine hpresent) _ _).settleRefs

end handOn

/-! ## A good segment -/

/-- A lane with a good segment counted and its silence timer restarted. -/
def Lane.goodCounted (e : Word32) (c : Settled) (line : Nat) (l : Lane) : Lane :=
  { l with seg := .none, good := Counter.bump l.good, deadline := some (eAdd e (c.silenceLimit line)) }

section good
variable {n : Node} {c : Settled} {p : Fin 4} {h : SegHeader} (disp : Disposition) (payload : List Byte)

theorem Node.laneStep_none_laneStep (l l' : Lane) (b : Option Nat) :
    (n.laneStep p l none).laneStep p l' b = n.laneStep p l' b := by
  simp [Node.laneStep]

/-- The lane as a good segment counts it, its segment still in progress. -/
theorem Node.countGood_eq :
    (n.countLane p .good).onLane p (fun l => { l with deadline := some (eAdd n.tb.e (c.silenceLimit h.line)) }) =
      n.laneStep p { (n.lane p).goodCounted n.tb.e c h.line with seg := (n.lane p).seg } none := by
  have hcount : n.countLane p .good = n.laneStep p ((n.lane p).count .good) none := rfl
  rw [hcount, Node.onLane_laneStep]
  rfl

theorem Node.goodSegment_of_first (hstate : (n.lane p).state = .locking) (hrun : (n.lane p).goodRun = 0) :
    n.goodSegment c p h disp payload =
      n.laneStep p { (n.lane p).goodCounted n.tb.e c h.line with goodRun := 1 } (n.lane p).seg.buffer := by
  unfold Node.goodSegment
  dsimp only
  rw [Node.countGood_eq, Node.laneStep_lane_self]
  split
  · next hdark => cases hstate.symm.trans hdark
  · refine (if_pos hrun).trans ?_
    rw [Node.abandon_eq, Node.laneStep_lane_self, Node.laneStep_none_laneStep, Node.onLane_laneStep]
    rfl
  · next hlocked => cases hstate.symm.trans hlocked

/-- The node whose lane `p` has locked on its second good segment. -/
def Node.goodLocking (c : Settled) (p : Fin 4) (h : SegHeader) (n : Node) : Node :=
  Node.raise { n with
    rl := n.rl.set p { (n.lane p).goodCounted n.tb.e c h.line with state := .locked, goodRun := 0, badRun := 0 }
    se := { n.se with lockedSet := PlaneSet.add n.se.lockedSet p } } .laneChange

/-- The node whose locked lane `p` has a good segment. -/
def Node.goodLocked (c : Settled) (p : Fin 4) (h : SegHeader) (n : Node) : Node :=
  { n with rl := n.rl.set p { (n.lane p).goodCounted n.tb.e c h.line with badRun := 0 } }

theorem Node.goodSegment_of_second (hstate : (n.lane p).state = .locking) (hrun : (n.lane p).goodRun ≠ 0) :
    n.goodSegment c p h disp payload = (n.goodLocking c p h).handOn c p h disp payload := by
  unfold Node.goodSegment
  dsimp only
  rw [Node.countGood_eq, Node.laneStep_lane_self]
  split
  · next hdark => cases hstate.symm.trans hdark
  · refine (if_neg hrun).trans ?_
    rw [Node.onLane_laneStep, Node.lockLane, Node.onLane_laneStep]
    rfl
  · next hlocked => cases hstate.symm.trans hlocked

theorem Node.goodSegment_of_locked (hstate : (n.lane p).state = .locked) :
    n.goodSegment c p h disp payload = (n.goodLocked c p h).handOn c p h disp payload := by
  unfold Node.goodSegment
  dsimp only
  rw [Node.countGood_eq, Node.laneStep_lane_self]
  split
  · next hdark => cases hstate.symm.trans hdark
  · next hlocking => cases hstate.symm.trans hlocking
  · rw [Node.onLane_laneStep]
    rfl

end good

/-! ## The conditions of a good segment -/

theorem headerGood_iff (c : Settled) (p : Fin 4) (h : SegHeader) :
    headerGood c p h = true ↔ h.plane.toNat = p.val ∧ h.line < c.aLines ∧ 1 ≤ h.length ∧ h.length ≤ 6144
      ∧ (h.timecode.isSome = true ↔ h.line = 0) := by
  have htc : (h.timecode.isSome == (h.line == 0)) = true ↔ (h.timecode.isSome = true ↔ h.line = 0) := by
    rw [beq_iff_eq, Bool.eq_iff_iff, beq_iff_eq]
  simp only [headerGood, Bool.and_eq_true, beq_iff_eq, decide_eq_true_eq, htc, and_assoc]

theorem segmentCheck_delimiter {v : Bool} {bytes rest : List Byte} (h : rest.length ≤ 6148) :
    segmentCheck .delimiter v bytes rest = true ↔ v = false ∧ 4 ≤ rest.length
      ∧ crc32Bytes (bytes ++ rest.take (rest.length - 4)) = rest.drop (rest.length - 4) := by
  have hover : isOverlong .delimiter rest = false := decide_eq_false (Nat.not_lt.2 h)
  cases v <;> simp [segmentCheck, hover, checkMatches, payloadOf]

theorem segmentCheck_of_bad {v : Bool} {how : SegEnd} (h : v = true ∨ how = .truncation) (bytes rest : List Byte) :
    segmentCheck how v bytes rest = false := by
  obtain rfl | rfl := h
  · simp [segmentCheck]
  · exact segmentCheck_truncation v bytes rest

theorem segmentGood_iff (c : Settled) (p : Fin 4) (how : SegEnd) (v : Bool) (bytes rest : List Byte) (h : SegHeader) :
    segmentGood c p how v bytes h rest = true ↔ headerGood c p h = true ∧ how = .delimiter ∧ v = false
      ∧ rest.length = h.length + 4 ∧ crc32Bytes (bytes ++ rest.take h.length) = rest.drop h.length := by
  have hparts : segmentGood c p how v bytes h rest = true ↔ segmentCheck how v bytes rest = true
      ∧ isOverlong how rest = false ∧ headerGood c p h = true ∧ (payloadOf rest).length = h.length := by
    simp only [segmentGood, Bool.and_eq_true, Bool.not_eq_true', beq_iff_eq, and_assoc]
  have hpayload : (payloadOf rest).length = rest.length - 4 := by
    rw [payloadOf, List.length_take]
    omega
  rw [hparts, hpayload]
  cases how with
  | delimiter =>
    have hover : isOverlong .delimiter rest = false ↔ rest.length ≤ 6148 := by simp [isOverlong]
    rw [hover]
    constructor
    · rintro ⟨hcheck, hlen, hgood, hlength⟩
      obtain ⟨hv, hfour, hcrc⟩ := (segmentCheck_delimiter hlen).1 hcheck
      rw [hlength] at hcrc
      exact ⟨hgood, rfl, hv, by omega, hcrc⟩
    · rintro ⟨hgood, -, hv, hlength, hcrc⟩
      obtain ⟨-, -, -, hlong, -⟩ := (headerGood_iff c p h).1 hgood
      have hlen : rest.length ≤ 6148 := by omega
      have hpay : rest.length - 4 = h.length := by omega
      refine ⟨(segmentCheck_delimiter hlen).2 ⟨hv, by omega, ?_⟩, hlen, hgood, hpay⟩
      rw [hpay]
      exact hcrc
  | overrun => simp [isOverlong]
  | truncation => simp [segmentCheck_truncation]

/-! ## The end of a segment by what was received -/

section ends
variable {n : Node} {c : Settled} {p : Fin 4} {how : SegEnd} {v : Bool} {rest : List Byte}

theorem Node.segmentEnd_of_started (h : (n.lane p).seg = .started) :
    n.segmentEnd c p how v rest = n.badSegment c p .checkFail := by
  simp only [Node.segmentEnd, h]

variable {bytes : List Byte} {h : SegHeader} {disp : Disposition} (hseg : (n.lane p).seg = .body bytes h disp)
include hseg

theorem Node.segmentEnd_of_good (hg : segmentGood c p how v bytes h rest = true) :
    n.segmentEnd c p how v rest = n.goodSegment c p h disp (payloadOf rest) := by
  simp only [Node.segmentEnd, hseg, hg, if_true]

/-- The count of a bad segment whose header was read. -/
theorem Node.segmentEnd_of_bad (hg : segmentGood c p how v bytes h rest = false) :
    n.segmentEnd c p how v rest =
      n.badSegment c p (if segmentCheck how v bytes rest = true then .malformed else .checkFail) := by
  simp only [Node.segmentEnd, hseg, hg, Bool.false_eq_true, if_false]
  split <;> rfl

theorem InProgress.buffer_of_body (b : Nat) : (n.lane p).seg.buffer = some b ↔ disp = .filling b := by
  rw [hseg]
  cases disp <;> simp [InProgress.buffer]

theorem Ss.giveBack_of_body (ss : Ss) :
    (∀ b, disp = .filling b → ss.giveBack (n.lane p).seg.buffer = ss.release b)
    ∧ ((∀ b, disp ≠ .filling b) → ss.giveBack (n.lane p).seg.buffer = ss) := by
  rw [hseg]
  cases disp with
  | filling k =>
    refine ⟨fun b hb => ?_, fun hb => absurd rfl (hb k)⟩
    cases hb
    rfl
  | refused => exact ⟨fun b => nofun, fun _ => rfl⟩
  | checkOnly => exact ⟨fun b => nofun, fun _ => rfl⟩

end ends

theorem silenceLimit_cast (c : Settled) (line : Nat) :
    ((c.silenceLimit line : Nat) : Int) = if line + 4 < c.aLines then ((4 * c.tpl : Nat) : Int)
      else (((c.lTot - c.aLines + 4) * c.tpl : Nat) : Int) := by
  unfold Settled.silenceLimit
  split <;> rfl

/-- Settles O39: the conditions, a bad end by the lane's state, and a good one by state and disposition. -/
theorem segmentEnds : Obligations.SegmentEnds := by
  refine ⟨fun c p how v bytes rest h => ⟨headerGood_iff c p h, segmentGood_iff c p how v bytes rest h,
    fun hbad => segmentCheck_of_bad hbad bytes rest, fun hhow hlen => ?_⟩, fun s c p how v rest hw =>
    ⟨fun hseg => ?_, fun bytes h disp hseg => ⟨fun hgood => ?_, fun hgood hdark => ?_⟩⟩⟩
  · subst hhow
    exact segmentCheck_delimiter hlen
  · rw [yields_segmentEnd hw, Node.segmentEnd_of_started hseg]
    obtain ⟨hlane, -, -, -, hpending⟩ := s.node.badSegment_badEnd c p (cause := .checkFail) rfl
    obtain ⟨hnone, hg, hcheck, hmal⟩ := (s.node.lane p).afterBad_frame .checkFail
    rw [hlane]
    refine ⟨hnone, hcheck, hmal, hg, hpending, fun hs => ?_, fun hs hfew => ?_, fun hs hfourth => ?_⟩
    · rw [Lane.afterBad_of_locking hs]
      exact ⟨hs, rfl⟩
    · rw [Lane.afterBad_of_few hs hfew]
      exact ⟨hs, rfl⟩
    · rw [Lane.afterBad_of_fourth hs hfourth]
      exact ⟨rfl, rfl⟩
  · obtain ⟨cause, hcause, hk, hcheckFail, hmalformed⟩ : ∃ cause : LaneCount,
        cause = (if segmentCheck how v bytes rest = true then .malformed else .checkFail)
        ∧ cause.isSegmentLoss = true
        ∧ (segmentCheck how v bytes rest = false → cause = .checkFail)
        ∧ (segmentCheck how v bytes rest = true → cause = .malformed) := by
      cases segmentCheck how v bytes rest <;> exact ⟨_, rfl, rfl, by simp, by simp⟩
    obtain ⟨hlane, hothers, hfreed, hkept, hpending⟩ := s.node.badSegment_badEnd c p hk
    obtain ⟨hnone, hg, hcheck, hmal⟩ := (s.node.lane p).afterBad_frame cause
    have hbuf := InProgress.buffer_of_body (n := s.node) hseg
    have hgood' : ((s.node.lane p).badCounted cause).good = (s.node.lane p).good := by
      cases cause <;> first | rfl | cases hk
    refine ⟨fun hs => ?_, fun hs hfew => ?_, fun hs hthree => ?_, ?_⟩
    all_goals rw [yields_segmentEnd hw, Node.segmentEnd_of_bad hseg hgood, ← hcause]
    · rw [hlane]
      refine ⟨hnone, ?_⟩
      rw [Lane.afterBad_of_locking hs]
      exact ⟨(Lane.badCounted_state _ _).trans hs, rfl, Lane.badCounted_deadline _ _⟩
    · rw [hlane]
      refine ⟨hnone, ?_⟩
      rw [Lane.afterBad_of_few hs hfew, Node.badSegment_of_kept hk (.inr hfew)]
      exact ⟨(Lane.badCounted_state _ _).trans hs, rfl, Lane.badCounted_deadline _ _, rfl⟩
    · rw [hlane]
      refine ⟨hnone, ?_⟩
      rw [Lane.afterBad_of_fourth hs hthree.ge, Node.badSegment_of_lost hk hs hthree.ge]
      have hgone := Node.PlaneGone.of_planeLost c p ((s.node.badEnded p cause).raise .laneChange)
      have hrl := hgone.rl
      obtain ⟨hback, hstand⟩ := Ss.giveBack_of_body (n := s.node) hseg s.node.ss
      refine ⟨rfl, congrArg Counter.bump (Lane.badCounted_lossBad _ hk), hgone.pending 9 (Node.raise_pending _ .laneChange),
        hgone.locked, _, rfl, hback, hstand, ?_⟩
      rw [hrl]
      rfl
    · refine ⟨hpending, ?_, hothers, fun b hb => hfreed b ((hbuf b).2 hb),
        fun b hb => hkept b fun hsome => hb ((hbuf b).1 hsome), fun hc => ?_, fun hc => ?_⟩
      · rw [hlane, hg, hgood']
      · rw [hlane, hcheck, hmal, hcheckFail hc]
        exact ⟨rfl, rfl⟩
      · rw [hlane, hcheck, hmal, hmalformed hc]
        exact ⟨rfl, rfl⟩
  · obtain ⟨hback, hstand⟩ := Ss.giveBack_of_body (n := s.node) hseg s.node.ss
    refine ⟨?_, fun hs hrun => ?_, fun hs hrun => ?_, fun n hn => ?_⟩
    · rw [yields_segmentEnd hw, Node.segmentEnd_of_good hseg hgood, ← silenceLimit_cast]
      rcases hs : (s.node.lane p).state with _ | _ | _
      · exact absurd hs hdark
      · by_cases hrun : (s.node.lane p).goodRun = 0
        · rw [Node.goodSegment_of_first _ _ hs hrun]
          exact ⟨by rw [Node.laneStep_lane_self]; rfl, by rw [Node.laneStep_lane_self]; rfl,
            fun q hq => Node.laneStep_lane_of_ne _ _ _ _ hq, by rw [Node.laneStep_lane_self]; rfl⟩
        · rw [Node.goodSegment_of_second _ _ hs hrun]
          have hhand := Node.handOn_handed c p h (payloadOf rest) (s.node.goodLocking c p h) disp
          obtain ⟨-, hnone, hg, -, -, hd⟩ := hhand.lane_frame
          have hl : (s.node.goodLocking c p h).lane p = _ := Four.get_set_self _ _ _
          rw [hl] at hnone hg hd
          exact ⟨hg, hnone, fun q hq => (hhand.others q hq).trans (Four.get_set_of_ne _ _ hq), hd⟩
      · rw [Node.goodSegment_of_locked _ _ hs]
        have hhand := Node.handOn_handed c p h (payloadOf rest) (s.node.goodLocked c p h) disp
        obtain ⟨-, hnone, hg, -, -, hd⟩ := hhand.lane_frame
        have hl : (s.node.goodLocked c p h).lane p = _ := Four.get_set_self _ _ _
        rw [hl] at hnone hg hd
        exact ⟨hg, hnone, fun q hq => (hhand.others q hq).trans (Four.get_set_of_ne _ _ hq), hd⟩
    · rw [yields_segmentEnd hw, Node.segmentEnd_of_good hseg hgood, Node.goodSegment_of_first _ _ hs hrun,
        Node.laneStep_lane_self]
      exact ⟨hs, rfl, hback, hstand, rfl⟩
    · rw [yields_segmentEnd hw, Node.segmentEnd_of_good hseg hgood, Node.goodSegment_of_second _ _ hs hrun]
      have hhand := Node.handOn_handed c p h (payloadOf rest) (s.node.goodLocking c p h) disp
      obtain ⟨hstate, -, -, hgr, hbr, -⟩ := hhand.lane_frame
      have hl : (s.node.goodLocking c p h).lane p = _ := Four.get_set_self _ _ _
      rw [hl] at hstate hgr hbr
      exact ⟨hstate, hgr, hbr, hhand.pending 9 (Node.raise_pending _ .laneChange), hhand.locked⟩
    · have hhands : s.node.segmentEnd c p how v rest = n.handOn c p h disp (payloadOf rest) := by
        rw [Node.segmentEnd_of_good hseg hgood]
        obtain ⟨hs, rfl⟩ | ⟨hs, hrun, rfl⟩ := hn
        · exact Node.goodSegment_of_locked _ _ hs
        · exact Node.goodSegment_of_second _ _ hs hrun
      have he : n.tb.e = s.node.tb.e := by obtain ⟨-, rfl⟩ | ⟨-, -, rfl⟩ := hn <;> rfl
      refine ⟨fun b m hdisp hm => ?_, fun hdisp => ?_, fun hdisp => ?_⟩
      · have hm' : m = n.delivered c p h b (payloadOf rest) := by
          rw [hm, Node.delivered, he]
          rfl
        refine ⟨fun ha => ?_, fun ha => ?_⟩
        all_goals
          rw [yields_segmentEnd hw, hhands, hdisp, Node.handOn]
          rw [hm'] at ha ⊢
        · rw [Node.handBuffer_of_accept ha]
        · rw [Node.handBuffer_of_refused ha]
      · rw [yields_segmentEnd hw, hhands, hdisp]
        rfl
      · rw [yields_segmentEnd hw, hhands, hdisp]
        rfl

end Sys2Proof.Machine
end

section
/-! SUPPORT. The engine's classification (R113, R119, R121) and the release of a line (R12, R127 to R130). -/

namespace Sys2Proof.Machine

/-! ## Distances of frames (R8) -/

@[simp] theorem frameDistance_self (f : BitVec 8) : frameDistance f f = 0 := by simp [frameDistance]

theorem frameDistance_succ (f : BitVec 8) : frameDistance f (f + 1) = 1 := by
  unfold frameDistance
  rw [add_sub_cancel_left]
  rfl

theorem succ_ne_self (f : BitVec 8) : f + 1 ≠ f := by
  intro h
  have hdist := frameDistance_succ f
  rw [h, frameDistance_self] at hdist
  cases hdist

/-- A frame at distance 0 or 1 is F_cur or the next. -/
theorem frameDistance_le_one {f g : BitVec 8} (h : frameDistance f g ≤ 1) : g = f ∨ g = f + 1 := by
  have hg : g = f + (g - f) := (add_sub_cancel f g).symm
  have hcases : (g - f).toNat = 0 ∨ (g - f).toNat = 1 := by
    unfold frameDistance at h
    omega
  obtain hzero | hone := hcases
  · left
    rw [hg, show g - f = 0 from BitVec.eq_of_toNat_eq hzero, add_zero]
  · right
    rw [hg, show g - f = 1 from BitVec.eq_of_toNat_eq hone]

/-! ## Classification -/

section judge
variable {n : Node} {p : Fin 4} {frame : BitVec 8} {line : Nat}

theorem Node.judge_of_idle (h : n.se.state = .idle) :
    n.judge p frame line = (if PlaneSet.has n.rh.runtime.mask p = false then .unexpectedPlane
      else if line = 0 then .accept else .stray) := by
  simp only [Node.judge, h, Bool.not_eq_true']

theorem Node.judge_of_flushing {f : FrameCtx} (h : n.se.state = .flushing f) : n.judge p frame line = .flushing := by
  simp only [Node.judge, h]

theorem Node.judge_of_run {f : FrameCtx} (h : n.se.state = .run f) :
    n.judge p frame line = n.judgeRun f p frame line := by
  simp only [Node.judge, h]

theorem holdsPlane_of_held {l : List Record} {r : Record} (hr : findRecord frame line l = some r)
    (hp : (r.contribs.get p).isSome = true) : holdsPlane frame line p l = true := by
  simp only [holdsPlane, hr, hp]

theorem holdsPlane_of_free {l : List Record}
    (h : ∀ r, findRecord frame line l = some r → (r.contribs.get p).isSome = false) :
    holdsPlane frame line p l = false := by
  unfold holdsPlane
  rcases hr : findRecord frame line l with _ | r
  · rfl
  · exact h r hr

variable {f : FrameCtx}

theorem Node.judgeRun_of_unmasked
    (h : PlaneSet.has (if frame = f.fCur then f.mask else n.rh.runtime.mask) p = false) :
    n.judgeRun f p frame line = .unexpectedPlane := by
  have hmask : PlaneSet.has (governingMask n.rh.runtime.mask f frame) p = false := h
  simp [Node.judgeRun, hmask]

section masked
variable (h : PlaneSet.has (if frame = f.fCur then f.mask else n.rh.runtime.mask) p = true)
include h

theorem Node.judgeRun_of_far (hcur : frame ≠ f.fCur) (hnext : frame ≠ f.fCur + 1) :
    n.judgeRun f p frame line = .stray := by
  have hmask : PlaneSet.has (governingMask n.rh.runtime.mask f frame) p = true := h
  have hfar : 1 < frameDistance f.fCur frame := by
    by_contra hnear
    obtain heq | heq := frameDistance_le_one (Nat.not_lt.1 hnear)
    · exact hcur heq
    · exact hnext heq
  simp [Node.judgeRun, hmask, hfar]

theorem Node.judgeRun_of_late (hcur : frame = f.fCur) (hline : line < f.nNext) :
    n.judgeRun f p frame line = .late := by
  have hmask : PlaneSet.has (governingMask n.rh.runtime.mask f frame) p = true := h
  subst hcur
  simp [Node.judgeRun, hmask, hline]

/-- A segment of the frame in progress or the next that is not late is judged by its record. -/
theorem Node.judgeRun_of_near (hnear : (frame = f.fCur ∧ f.nNext ≤ line) ∨ frame = f.fCur + 1) :
    n.judgeRun f p frame line = if holdsPlane frame line p n.se.table = true then .duplicate else .accept := by
  have hmask : PlaneSet.has (governingMask n.rh.runtime.mask f frame) p = true := h
  obtain ⟨rfl, hline⟩ | hnext := hnear
  · simp [Node.judgeRun, hmask, Nat.not_lt.2 hline]
  · have hdist : frameDistance f.fCur frame = 1 := by rw [hnext, frameDistance_succ]
    have hne : frame ≠ f.fCur := by rw [hnext]; exact succ_ne_self _
    simp [Node.judgeRun, hmask, hdist, hne]

end masked

end judge

/-- Settles O40: the tests of each engine state in their order. -/
theorem classification : Obligations.Classification := by
  refine fun n p frame line => ⟨Node.judge_of_idle, fun f => Node.judge_of_flushing, fun f hf => ?_⟩
  rw [Node.judge_of_run hf]
  refine ⟨Node.judgeRun_of_unmasked, fun hmask => ⟨Node.judgeRun_of_far hmask, Node.judgeRun_of_late hmask,
    fun hnear => ?_⟩⟩
  rw [Node.judgeRun_of_near hmask hnear]
  exact ⟨fun r hr hp => if_pos (holdsPlane_of_held hr hp),
    fun hfree => if_neg (by simp [holdsPlane_of_free hfree])⟩

/-! ## Planes of a released line -/

section planes
variable {mode : ConcealMode} {mask : PlaneSet} {holds : Four (Option Hold)} {q : Four (Option Contribution)}
  {p : Fin 4}

theorem planeOut_of_some {k : Contribution} (h : q.get p = some k) :
    planeOut mode mask holds q p = .present k.buf k.length := by
  simp only [planeOut, h]

theorem planeOut_of_none (h : q.get p = none) : planeOut mode mask holds q p = concealed mode mask holds p := by
  simp only [planeOut, h]

theorem concealed_of_unmasked (h : PlaneSet.has mask p = false) : concealed mode mask holds p = .absent := by
  simp [concealed, h]

theorem concealed_of_fill (h : PlaneSet.has mask p = true) (hf : mode = .fill ∨ holds.get p = none) :
    concealed mode mask holds p = .filled := by
  cases mode with
  | fill => simp [concealed, h]
  | repeatLast => simp [concealed, h, hf.resolve_left nofun]

theorem concealed_of_repeat {k : Hold} (h : PlaneSet.has mask p = true) (hmode : mode = .repeatLast)
    (hk : holds.get p = some k) : concealed mode mask holds p = .repeated k.buf k.length := by
  simp [concealed, h, hmode, hk]

theorem concealed_isPresent (mode : ConcealMode) (mask : PlaneSet) (holds : Four (Option Hold)) (p : Fin 4) :
    (concealed mode mask holds p).isPresent = false := by
  unfold concealed
  split
  · split <;> rfl
  · rfl

/-- A plane is PRESENT on a released line just when it contributes. -/
theorem planeOut_isPresent (mode : ConcealMode) (mask : PlaneSet) (holds : Four (Option Hold))
    (q : Four (Option Contribution)) (p : Fin 4) :
    (planeOut mode mask holds q p).isPresent = (q.get p).isSome := by
  rcases h : q.get p with _ | k
  · rw [planeOut_of_none h, concealed_isPresent]
    rfl
  · rw [planeOut_of_some h]
    rfl

theorem presentSet_planeOut (mode : ConcealMode) (mask : PlaneSet) (holds : Four (Option Hold))
    (q : Four (Option Contribution)) :
    presentSet (Four.build (planeOut mode mask holds q)) = contribPlanes q := by
  have hp (p : Fin 4) := planeOut_isPresent mode mask holds q p
  simp only [presentSet, contribPlanes, Four.build, hp]
  rfl

end planes

/-! ## A line released -/

section release
variable (n : Node) (f : FrameCtx) (q : Four (Option Contribution)) (tc : Option Timecode) (skew : Nat)
  (cause : Cause)

/-- The planes of the line descriptor of these contributions that are PRESENT. -/
theorem presentSet_lineDesc : presentSet (n.lineDesc f q tc skew cause).planes = contribPlanes q :=
  presentSet_planeOut _ _ _ _

theorem Node.releaseLine_holds (p : Fin 4) :
    (n.releaseLine f q tc skew cause).se.holds.get p = holdAfter f.fCur f.nNext (q.get p) (n.se.holds.get p) :=
  Four.get_build _ p

theorem Node.releaseLine_frame_eq :
    n.releaseLine f q tc skew cause = { n with
      ou := n.ou.enqueue (.line (n.lineDesc f q tc skew cause)), se := (n.releaseLine f q tc skew cause).se } := rfl

end release

/-- The tallies of a line with these planes PRESENT. -/
theorem Tallies.take_spec {t : Tallies} {mask : PlaneSet} {d : LineDesc} {s : PlaneSet}
    (hs : presentSet d.planes = s) :
    (t.take mask d).complete = (if mask &&& ~~~ s = 0 then t.complete + 1 else t.complete)
    ∧ (t.take mask d).gap = (if mask &&& ~~~ s ≠ 0 ∧ s = 0 then t.gap + 1 else t.gap)
    ∧ (t.take mask d).concealed = (if mask &&& ~~~ s ≠ 0 ∧ s ≠ 0 then t.concealed + 1 else t.concealed)
    ∧ (t.take mask d).contributing = t.contributing ||| s := by
  subst hs
  by_cases hcomplete : mask &&& ~~~ presentSet d.planes = 0#4 <;> by_cases hgap : presentSet d.planes = 0#4 <;>
    simp [Tallies.take, isCompleteLine, isGapLine, hcomplete, hgap]

/-- Settles O41: plane by plane, then the tallies. -/
theorem lineRelease : Obligations.LineRelease := by
  intro n f r cause
  refine ⟨rfl, fun p k hk => ⟨planeOut_of_some hk, ?_⟩, fun p hp => ⟨?_, fun hmask => ?_, fun hmask hfill => ?_,
    fun h hmask hmode hh => ?_⟩, rfl, ?_, rfl⟩
  · rw [Node.releaseRecord, Node.releaseLine_holds, hk]
    rfl
  · rw [Node.releaseRecord, Node.releaseLine_holds, hp]
    rfl
  · exact (planeOut_of_none hp).trans (concealed_of_unmasked hmask)
  · exact (planeOut_of_none hp).trans (concealed_of_fill hmask hfill)
  · exact (planeOut_of_none hp).trans (concealed_of_repeat hmask hmode hh)
  · obtain ⟨hcomplete, hgap, hconcealed, hcontributing⟩ := Tallies.take_spec (t := f.tallies) (mask := f.mask)
      (presentSet_lineDesc n f r.contribs r.timecode r.skew cause)
    exact ⟨f.took (n.lineDesc f r.contribs r.timecode r.skew cause), rfl, rfl, rfl, rfl, rfl, rfl, rfl, rfl, hcomplete,
      hgap, hconcealed, hcontributing, rfl⟩

end Sys2Proof.Machine
end

section
/-! SUPPORT. Records against J (R117), and the end of a frame (R114, R131). -/

namespace Sys2Proof.Machine

/-! ## Sets of planes -/

/-- A plane is among the contributing ones just when it contributes. -/
theorem contribPlanes_has (q : Four (Option Contribution)) (p : Fin 4) :
    PlaneSet.has (contribPlanes q) p = (q.get p).isSome := by
  obtain ⟨q0, q1, q2, q3⟩ := q
  fin_cases p <;> simp only [contribPlanes, PlaneSet.has, Four.get] <;>
    cases q0.isSome <;> cases q1.isSome <;> cases q2.isSome <;> cases q3.isSome <;> rfl

/-- A set lies within another just when each of its planes does. -/
theorem PlaneSet.diff_eq_zero_iff {j s : PlaneSet} :
    j &&& ~~~ s = 0 ↔ ∀ p, PlaneSet.has j p = true → PlaneSet.has s p = true := by
  constructor
  · intro h p hp
    have hbit := congrArg (fun x : BitVec 4 => x.getLsbD p.val) h
    simp only [BitVec.getLsbD_and, BitVec.getLsbD_not, p.isLt, decide_true, Bool.true_and] at hbit
    unfold PlaneSet.has at hp ⊢
    rw [hp] at hbit
    simpa using hbit
  · intro h
    refine BitVec.eq_of_getLsbD_eq fun i hi => ?_
    rcases hj : j.getLsbD i with _ | _
    · simp [hj]
    · have hs : s.getLsbD i = true := h ⟨i, hi⟩ hj
      simp [hj, hs]

theorem Record.covers_iff (j : PlaneSet) (r : Record) :
    r.covers j = true ↔ ∀ p, PlaneSet.has j p = true → (r.contribs.get p).isSome = true := by
  have hzero : r.covers j = true ↔ j &&& ~~~ contribPlanes r.contribs = 0 := beq_iff_eq
  rw [hzero, PlaneSet.diff_eq_zero_iff]
  simp only [contribPlanes_has]

/-! ## A record evaluated -/

section evaluate
variable (r : Record) (j : PlaneSet) (e : Word32)

theorem Record.evaluate_frame : r.evaluate j e = { r with state := (r.evaluate j e).state } := by
  unfold Record.evaluate
  split
  · split <;> rfl
  · split <;> rfl
  · rfl

variable {r}

theorem Record.evaluate_of_expired (h : r.state = .expired) : (r.evaluate j e).state = .expired := by
  simp only [Record.evaluate, h]

theorem Record.evaluate_of_opened (h : r.state = .opened) :
    (r.evaluate j e).state = if r.covers j = true then .complete else .opened := by
  simp only [Record.evaluate, h]
  split
  · rfl
  · exact h

theorem Record.evaluate_of_complete (h : r.state = .complete) :
    (r.evaluate j e).state =
      if r.covers j = true then .complete else if passed e r.deadline = true then .expired else .opened := by
  simp only [Record.evaluate, h]
  split
  · exact h
  · rfl

theorem Record.evaluate_of_covers (h : r.covers j = true) (hs : r.state ≠ .expired) :
    (r.evaluate j e).state = .complete := by
  rcases hr : r.state with _ | _ | _
  · rw [Record.evaluate_of_opened j e hr, if_pos h]
  · rw [Record.evaluate_of_complete j e hr, if_pos h]
  · exact absurd hr hs

end evaluate

/-! ## Contributions withdrawn (R114) -/

/-- How many of a table's contributions lie outside a mask. -/
def withdrawnCount (mask : PlaneSet) (l : List Record) : Nat :=
  (l.map fun r => contribCount (Four.build fun p => if PlaneSet.has mask p then none else r.contribs.get p)).sum

/-- What a table keeps within a mask. -/
def keptTable (mask : PlaneSet) (l : List Record) : List Record :=
  (l.map (Record.withdraw mask)).filter fun r => contribCount r.contribs != 0

theorem contribCount_split (mask : PlaneSet) (q : Four (Option Contribution)) :
    contribCount q = contribCount (keepPlanes mask q)
      + contribCount (Four.build fun p => if PlaneSet.has mask p then none else q.get p) := by
  obtain ⟨q0, q1, q2, q3⟩ := q
  simp only [contribCount, keepPlanes, Four.build, Four.toList, Four.get, List.countP_cons, List.countP_nil]
  cases PlaneSet.has mask 0 <;> cases PlaneSet.has mask 1 <;> cases PlaneSet.has mask 2 <;>
    cases PlaneSet.has mask 3 <;> simp <;> omega

theorem sum_withdraw (mask : PlaneSet) (l : List Record) :
    (l.map fun r => contribCount r.contribs).sum =
      ((l.map (Record.withdraw mask)).map fun r => contribCount r.contribs).sum + withdrawnCount mask l := by
  induction l with
  | nil => rfl
  | cons r l ih =>
    simp only [List.map_cons, List.sum_cons, withdrawnCount] at ih ⊢
    have hr := contribCount_split mask r.contribs
    have hw : (r.withdraw mask).contribs = keepPlanes mask r.contribs := rfl
    rw [hw]
    omega

theorem Node.withdraw_eq (mask : PlaneSet) (n : Node) :
    n.withdraw mask = Node.raiseIf { n with se := { n.se with
        table := keptTable mask n.se.table
        contribWithdrawn := Counter.bumps (withdrawnCount mask n.se.table) n.se.contribWithdrawn } }
      (withdrawnCount mask n.se.table != 0) .segmentLoss := by
  have hk : (n.se.table.map fun r => contribCount r.contribs).sum
      - ((n.se.table.map (Record.withdraw mask)).map fun r => contribCount r.contribs).sum =
        withdrawnCount mask n.se.table := by
    rw [sum_withdraw mask]
    omega
  unfold Node.withdraw
  dsimp only
  rw [hk]
  rfl

/-- A record that a mask keeps has contributions of the mask's planes alone. -/
theorem keptTable_masked {mask : PlaneSet} {l : List Record} {r : Record} {p : Fin 4} (hr : r ∈ keptTable mask l)
    (hp : (r.contribs.get p).isSome = true) : PlaneSet.has mask p = true := by
  obtain ⟨x, -, rfl⟩ := List.mem_map.1 (List.mem_filter.1 hr).1
  by_contra hmask
  simp [Record.withdraw, keepPlanes, hmask] at hp

/-! ## The end of a frame -/

/-- The planes that join the next frame. -/
def Node.nextJoined (n : Node) : PlaneSet := n.rh.runtime.mask &&& n.se.lockedSet

/-- The node at the end of a frame, its FRAME_END queued and its table set to the next frame's planes. -/
def Node.frameEnded (f : FrameCtx) (n : Node) : Node :=
  Node.raiseIf { n with
    ou := n.ou.enqueue (.frameEnd ⟨f.fCur, .normal, f.tallies⟩)
    se := { n.se with
      lastTallies := f.tallies, framesEnded := Counter.bump n.se.framesEnded
      table := (keptTable n.rh.runtime.mask n.se.table).map (Record.evaluate n.nextJoined n.tb.e)
      contribWithdrawn :=
        Counter.bumps (withdrawnCount n.rh.runtime.mask n.se.table) n.se.contribWithdrawn } }
    (withdrawnCount n.rh.runtime.mask n.se.table != 0) .segmentLoss

section advance
variable (n : Node) (f : FrameCtx)

/-- The context of the next frame. -/
def Node.nextFrame : FrameCtx := FrameCtx.begin (f.fCur + 1) n.rh.runtime.mask n.se.lockedSet

theorem Node.frameEnded_eq :
    (Node.withdraw n.rh.runtime.mask { n.putFrameEnd f .normal with
      se := { (n.putFrameEnd f .normal).se with framesEnded := Counter.bump n.se.framesEnded } }).reevaluate
        n.nextJoined = n.frameEnded f := by
  rw [Node.withdraw_eq]
  unfold Node.frameEnded Node.raiseIf
  split <;> split
  · rfl
  · next h1 h2 => exact absurd h1 h2
  · next h1 h2 => exact absurd h2 h1
  · rfl

theorem Node.advanceFrame_of_some (h : n.nextJoined ≠ 0) :
    n.advanceFrame f = { n.frameEnded f with se := { (n.frameEnded f).se with
      state := .run (n.nextFrame f), framesStarted := Counter.bump (n.frameEnded f).se.framesStarted } } := by
  rw [← Node.frameEnded_eq]
  exact if_neg h

theorem Node.advanceFrame_of_none (h : n.nextJoined = 0) :
    n.advanceFrame f = Node.raise { (n.frameEnded f).discardTable with
      se := { (n.frameEnded f).discardTable.se.enterIdle with
        resyncEmpty := Counter.bump (n.frameEnded f).discardTable.se.resyncEmpty } } .stitchResync := by
  rw [← Node.frameEnded_eq]
  exact if_pos h

theorem Node.frameEnded_ou : (n.frameEnded f).ou = n.ou.enqueue (.frameEnd ⟨f.fCur, .normal, f.tallies⟩) :=
  Node.raiseIf_ou _ _ _

theorem Node.frameEnded_se : (n.frameEnded f).se = { n.se with
    lastTallies := f.tallies, framesEnded := Counter.bump n.se.framesEnded
    table := (keptTable n.rh.runtime.mask n.se.table).map (Record.evaluate n.nextJoined n.tb.e)
    contribWithdrawn := Counter.bumps (withdrawnCount n.rh.runtime.mask n.se.table) n.se.contribWithdrawn } :=
  Node.raiseIf_se _ _ _

theorem Node.frameEnded_pending (h : 0 < withdrawnCount n.rh.runtime.mask n.se.table) :
    (n.frameEnded f).rh.isPending 11 = true := by
  unfold Node.frameEnded
  rw [show (withdrawnCount n.rh.runtime.mask n.se.table != 0) = true from bne_iff_ne.2 (Nat.pos_iff_ne_zero.1 h)]
  exact Node.raise_pending _ .segmentLoss

theorem Node.frameEnded_rh (h : withdrawnCount n.rh.runtime.mask n.se.table = 0) : (n.frameEnded f).rh = n.rh := by
  unfold Node.frameEnded
  rw [h]
  rfl

theorem Node.discardTable_eq (m : Node) :
    m.discardTable = Node.raiseIf { m with se := { m.se with
        table := []
        contribDiscarded := Counter.bumps (m.se.table.map fun r => contribCount r.contribs).sum m.se.contribDiscarded } }
      ((m.se.table.map fun r => contribCount r.contribs).sum != 0) .segmentLoss := rfl

theorem Node.discardTable_se (m : Node) : m.discardTable.se = { m.se with
    table := []
    contribDiscarded := Counter.bumps (m.se.table.map fun r => contribCount r.contribs).sum m.se.contribDiscarded } :=
  Node.raiseIf_se _ _ _

theorem Node.discardTable_pending (m : Node) (h : 0 < (m.se.table.map fun r => contribCount r.contribs).sum) :
    m.discardTable.rh.isPending 11 = true := by
  rw [Node.discardTable_eq, show ((m.se.table.map fun r => contribCount r.contribs).sum != 0) = true from
    bne_iff_ne.2 (Nat.pos_iff_ne_zero.1 h)]
  exact Node.raise_pending _ .segmentLoss

theorem map_evaluate_count (j : PlaneSet) (e : Word32) (l : List Record) :
    ((l.map (Record.evaluate j e)).map fun r => contribCount r.contribs) = l.map fun r => contribCount r.contribs := by
  rw [List.map_map]
  exact List.map_congr_left fun r _ => congrArg contribCount (r.evaluate_contribs j e)

end advance

/-- Settles O42: whether a plane joins the next frame, and each record's evaluation by its state. -/
theorem frameAdvance : Obligations.FrameAdvance := by
  refine ⟨fun n f j within outside kept k hj hwithin houtside hkept hk => ?_, fun r j e =>
    ⟨r.evaluate_frame j e, fun hcovers => Record.evaluate_of_covers j e ((Record.covers_iff j r).2 hcovers),
      fun p hp hnone => ?_, Record.evaluate_of_expired j e⟩⟩
  · have hkeptEq : kept = keptTable n.rh.runtime.mask n.se.table := by
      rw [hkept, hwithin]
      unfold keptTable
      congr 1
      funext r
      by_cases hr : contribCount r.contribs = 0 <;> simp [hr]
    have hkEq : k = withdrawnCount n.rh.runtime.mask n.se.table := by
      rw [hk, houtside]
      rfl
    have hjEq : j = n.nextJoined := hj
    clear hkept hk hj hwithin houtside
    subst hkeptEq hkEq hjEq
    have hframe := n.advanceFrame_frame f
    by_cases hnone : n.nextJoined = 0
    · have hadv := n.advanceFrame_of_none f hnone
      have hse := n.frameEnded_se f
      have hdis := (n.frameEnded f).discardTable_se
      have hseAdv : (n.advanceFrame f).se = { (n.frameEnded f).discardTable.se.enterIdle with
          resyncEmpty := Counter.bump (n.frameEnded f).discardTable.se.resyncEmpty } := by rw [hadv]; rfl
      have hkeeps (i : Nat) (hi : (n.frameEnded f).discardTable.rh.isPending i = true) :
          (n.advanceFrame f).rh.isPending i = true := by
        rw [hadv]
        exact Node.raise_keeps _ _ _ hi
      have hcount : ((n.frameEnded f).se.table.map fun r => contribCount r.contribs).sum =
          ((keptTable n.rh.runtime.mask n.se.table).map fun r => contribCount r.contribs).sum := by
        rw [hse, map_evaluate_count]
      refine ⟨?_, ?_, ?_, ?_, fun hk => hkeeps 11 ?_, hframe.frame, fun hsome => absurd hnone hsome, fun _ => ?_⟩
      · rw [hadv]
        show (n.frameEnded f).discardTable.ou.queue = _
        rw [Node.discardTable_eq, Node.raiseIf_ou, Node.frameEnded_ou]
        rfl
      · rw [hseAdv, hdis, hse]
        rfl
      · rw [hseAdv, hdis, hse]
        rfl
      · rw [hseAdv, hdis, hse]
        rfl
      · exact Node.raiseIf_keeps _ _ _ _ (n.frameEnded_pending f hk)
      · refine ⟨?_, ?_, ?_, ?_, ?_, ?_, fun d hd => ⟨?_, fun hpos => hkeeps 11 ?_⟩⟩
        · rw [hseAdv]; rfl
        · rw [hseAdv]; rfl
        · rw [hseAdv]; rfl
        · rw [hseAdv, hdis, hse]
        · rw [hseAdv, hdis, hse]; rfl
        · rw [hadv]
          exact Node.raise_pending _ .stitchResync
        · rw [hseAdv, hdis, hd, ← hcount, hse]
          rfl
        · exact Node.discardTable_pending _ (by rw [hcount, ← hd]; exact hpos)
    · have hadv := n.advanceFrame_of_some f hnone
      have hse := n.frameEnded_se f
      have hseAdv : (n.advanceFrame f).se = { (n.frameEnded f).se with
          state := .run (n.nextFrame f), framesStarted := Counter.bump (n.frameEnded f).se.framesStarted } := by
        rw [hadv]
      have hrh : (n.advanceFrame f).rh = (n.frameEnded f).rh := by rw [hadv]
      rw [hse] at hseAdv
      refine ⟨?_, ?_, ?_, ?_, fun hk => ?_, hframe.frame, fun _ => ⟨n.nextFrame f, ?_, rfl, rfl, rfl, rfl, rfl, ?_, ?_,
        fun r hr p hp => ?_, ?_, ?_, ?_, fun hk => ?_⟩, fun hzero => absurd hzero hnone⟩
      · rw [hadv]
        show (n.frameEnded f).ou.queue = _
        rw [Node.frameEnded_ou]
        rfl
      · rw [hseAdv]
      · rw [hseAdv]
      · rw [hseAdv]
      · rw [hrh]
        exact n.frameEnded_pending f hk
      · rw [hseAdv]
      · rw [hseAdv]
      · rw [hseAdv]
      · rw [hseAdv] at hr
        obtain ⟨x, hx, rfl⟩ := List.mem_map.1 hr
        rw [Record.evaluate_contribs] at hp
        exact keptTable_masked hx hp
      · rw [hseAdv]
      · rw [hseAdv]
      · rw [hseAdv]
      · rw [hrh]
        exact n.frameEnded_rh f hk
  · have hcovers : ¬r.covers j = true := by
      rw [Record.covers_iff]
      intro hall
      have hsome := hall p hp
      rw [hnone] at hsome
      cases hsome
    refine ⟨fun hs => ?_, fun hs => ?_⟩
    · rw [Record.evaluate_of_opened j e hs, if_neg hcovers]
    · rw [Record.evaluate_of_complete j e hs, if_neg hcovers]

end Sys2Proof.Machine
end

section
/-! SUPPORT. Deliveries (R119 to R124), strays (R125) and the engine's next step (R126, R136). -/

namespace Sys2Proof.Machine

/-! ## Records joined and created -/

theorem Record.covers_iff_diff (j : PlaneSet) (r : Record) :
    r.covers j = true ↔ j &&& ~~~ contribPlanes r.contribs = 0 := beq_iff_eq

theorem contribPlanes_single (p : Fin 4) (k : Contribution) :
    contribPlanes ((Four.const none).set p (some k)) = PlaneSet.single p := by
  fin_cases p <;> simp [contribPlanes, Four.set, Four.const, PlaneSet.single]

theorem Delivery.evaluate_record (d : Delivery) (w : Nat) (j : PlaneSet) (e : Word32) :
    (d.record w).evaluate j e =
      ⟨d.frame, d.line, (Four.const none).set d.plane (some ⟨d.buf, d.length⟩), d.arrival, d.arrival,
        d.arrival + BitVec.ofNat 32 w, if d.line = 0 then d.timecode else none,
        if j &&& ~~~ PlaneSet.single d.plane = 0 then .complete else .opened⟩ := by
  rw [Record.evaluate_frame, Record.evaluate_of_opened j e rfl]
  have hcovers : (d.record w).covers j = true ↔ j &&& ~~~ PlaneSet.single d.plane = 0 := by
    rw [Record.covers_iff_diff, show contribPlanes (d.record w).contribs = _ from contribPlanes_single _ _]
  simp only [hcovers]
  rfl

theorem Record.join_timecode (r : Record) (d : Delivery) :
    (r.join d).timecode = if r.timecode = none ∧ d.line = 0 then d.timecode else r.timecode := by
  rcases h : r.timecode with _ | tc
  · by_cases hline : d.line = 0 <;> simp [Record.join, h, hline]
  · simp [Record.join, h]

/-! ## A delivery by the engine's state -/

section deliver
variable {n : Node} {c : Settled} {d : Delivery} {f : FrameCtx}

theorem Node.deliver_of_accept (hf : n.se.state = .run f) (hj : n.judgeRun f d.plane d.frame d.line = .accept) :
    n.deliver c d = n.deliverRun c f d := by
  simp only [Node.deliver, hf, hj]

theorem Node.deliver_of_stray (hf : n.se.state = .run f) (hj : n.judgeRun f d.plane d.frame d.line = .stray) :
    n.deliver c d = (n.raiseStray c, .stray) := by
  simp only [Node.deliver, hf, hj]

theorem Node.deliver_of_other (hf : n.se.state = .run f) (ha : n.judgeRun f d.plane d.frame d.line ≠ .accept)
    (hs : n.judgeRun f d.plane d.frame d.line ≠ .stray) :
    n.deliver c d = (n, n.judgeRun f d.plane d.frame d.line) := by
  unfold Node.deliver
  rw [hf]
  dsimp only
  split
  · next h => exact absurd h ha
  · next h => exact absurd h hs
  · rfl

theorem Node.deliver_of_flushing (hf : n.se.state = .flushing f) : n.deliver c d = (n, .flushing) := by
  simp only [Node.deliver, hf]

theorem Node.deliver_of_idle (hi : n.se.state = .idle) : n.deliver c d = n.deliverIdle c d := by
  simp only [Node.deliver, hi]

theorem Node.deliverRun_of_room (hroom : n.se.table.length < 16) : n.deliverRun c f d = (n.accept c f d, .accept) := by
  unfold Node.deliverRun
  split
  · rw [if_neg (Nat.not_le.2 hroom)]
  · rfl

theorem Node.deliverRun_of_held {r : Record} (hr : findRecord d.frame d.line n.se.table = some r) :
    n.deliverRun c f d = (n.accept c f d, .accept) := by
  unfold Node.deliverRun
  split
  · next h _ => cases hr.symm.trans h
  · rfl

theorem tableWith_of_none {j : PlaneSet} {e : Word32} {w : Nat} {l : List Record}
    (h : findRecord d.frame d.line l = none) : tableWith j e w d l = l ++ [(d.record w).evaluate j e] := by
  simp only [tableWith, h]

theorem tableWith_of_some {j : PlaneSet} {e : Word32} {w : Nat} {l : List Record} {r : Record}
    (h : findRecord d.frame d.line l = some r) :
    tableWith j e w d l = l.map fun x => if x.isAt d.frame d.line = true then (x.join d).evaluate j e else x := by
  simp only [tableWith, h]

/-- The node with a delivery's buffer marked and this table. -/
def Node.accepting (d : Delivery) (table : List Record) (n : Node) : Node :=
  { n with ss := n.ss.mark d.buf (.referenced 1), se := { n.se with strayRun := 0, table := table } }

theorem Node.accept_eq :
    n.accept c f d = (n.accepting d (tableWith f.j n.tb.e n.rh.runtime.w d n.se.table)).runEngine c := rfl

theorem Node.deliverIdle_of_unmasked (h : PlaneSet.has n.rh.runtime.mask d.plane = false) :
    n.deliverIdle c d = (n, .unexpectedPlane) := by
  simp [Node.deliverIdle, h]

theorem Node.deliverIdle_of_line (h : PlaneSet.has n.rh.runtime.mask d.plane = true) (hline : d.line ≠ 0) :
    n.deliverIdle c d = (n, .stray) := by
  simp [Node.deliverIdle, h, hline]

theorem Node.deliverIdle_of_start (h : PlaneSet.has n.rh.runtime.mask d.plane = true) (hline : d.line = 0) :
    n.deliverIdle c d = (n.startEngine c d, .accept) := by
  simp [Node.deliverIdle, h, hline]

theorem Node.raiseStray_of_idle (h : n.se.state = .idle) : n.raiseStray c = n := by
  simp only [Node.raiseStray, h]

end deliver

/-- Settles O43: by the engine's state and the answer. -/
theorem deliveryRecords : Obligations.DeliveryRecords := by
  intro n c d
  refine ⟨fun f hf hj => ⟨fun hnone hroom => ?_, fun r hr => ?_⟩, fun r j e => ⟨⟨rfl, rfl, r.join_timecode d, rfl⟩,
    r.evaluate_frame j e, fun hs => ?_, fun hs => ?_, Record.evaluate_of_expired j e⟩,
    fun hi => ⟨fun h => ?_, fun h hline => ?_, fun h hline f hf => ?_⟩, fun f => Node.deliver_of_flushing,
    fun f => Node.deliver_of_other, rfl, fun h => ?_⟩
  · rw [Node.deliver_of_accept hf hj, Node.deliverRun_of_room hroom, Node.accept_eq, tableWith_of_none hnone,
      Delivery.evaluate_record]
    rfl
  · rw [Node.deliver_of_accept hf hj, Node.deliverRun_of_held hr, Node.accept_eq, tableWith_of_some hr]
    rfl
  · rw [Record.evaluate_of_opened j e hs]
    simp only [Record.covers_iff_diff]
  · rw [Record.evaluate_of_complete j e hs]
    simp only [Record.covers_iff_diff]
  · rw [Node.deliver_of_idle hi, Node.deliverIdle_of_unmasked h]
  · rw [Node.deliver_of_idle hi, Node.deliverIdle_of_line h hline]
  · rw [Node.deliver_of_idle hi, Node.deliverIdle_of_start h hline, hf]
    rfl
  · unfold Node.present
    dsimp only
    split
    · next hs => exact Node.raiseStray_of_idle (h.resolve_left fun hns => hns hs)
    · rfl

/-! ## Strays -/

section stray
variable {n : Node} {c : Settled} {f : FrameCtx} (hf : n.se.state = .run f)
include hf

theorem Node.raiseStray_of_few (h : n.se.strayRun < 7) :
    n.raiseStray c = { n with se := { n.se with strayRun := n.se.strayRun + 1 } } := by
  unfold Node.raiseStray
  split
  · exact if_pos (Nat.succ_lt_succ h)
  · next hother => exact absurd hf (hother f)

/-- The node as the eighth stray in a row leaves it, before the flush steps. -/
def Node.strayFlush (f : FrameCtx) (n : Node) : Node :=
  Node.enterFlushing f { n with se := { n.se with resyncStray := Counter.bump n.se.resyncStray } }

theorem Node.raiseStray_of_eighth (h : 7 ≤ n.se.strayRun) : n.raiseStray c = (n.strayFlush f).runEngine c := by
  unfold Node.raiseStray
  rw [hf]
  exact if_neg (Nat.not_lt.2 (Nat.succ_le_succ h))

end stray

/-- What entering FLUSHING makes of the node. -/
theorem Node.enterFlushing_spec (f : FrameCtx) (n : Node) :
    n.enterFlushing f = { n with
      se := { n.se with
        state := .flushing f, table := [], strayRun := 0
        contribDiscarded :=
          Counter.bumps (n.se.table.map fun r => contribCount r.contribs).sum n.se.contribDiscarded }
      rh := { n.rh with notices := (n.enterFlushing f).rh.notices } }
    ∧ (n.enterFlushing f).rh.isPending 10 = true
    ∧ (0 < (n.se.table.map fun r => contribCount r.contribs).sum → (n.enterFlushing f).rh.isPending 11 = true) := by
  refine ⟨?_, Node.raise_pending _ .stitchResync, fun hk => Node.raise_keeps _ _ _ (n.discardTable_pending hk)⟩
  unfold Node.enterFlushing Node.discardTable Node.raiseIf
  dsimp only
  split <;> rfl

/-! ## The engine's next step -/

theorem Four.build_get {α : Type} (q : Four α) : Four.build q.get = q := rfl

/-- A line of no contributions changes no hold slot. -/
theorem Node.putLine_noContribs (n : Node) {d : LineDesc} (h : d.cause ≠ .forced) :
    n.putLine noContribs d = { n with ou := n.ou.enqueue (.line d) } := by
  have hholds : (Four.build fun p => holdAfter d.frame d.line (noContribs.get p) (n.se.holds.get p)) = n.se.holds := by
    have hnone (p : Fin 4) : (noContribs.get p) = none := Four.get_const none p
    simp only [hnone]
    exact Four.build_get _
  simp only [Node.putLine, hholds, h, if_false]

/-- The descriptor of a line of no contributions. -/
def Node.emptyLine (f : FrameCtx) (cause : Cause) (n : Node) : LineDesc :=
  ⟨f.fCur, f.nNext, Four.build (planeOut n.rh.runtime.mode f.mask n.se.holds noContribs), none, 0, cause⟩

theorem Node.lineDesc_noContribs (n : Node) (f : FrameCtx) (cause : Cause) :
    n.lineDesc f noContribs none 0 cause = n.emptyLine f cause := by
  simp only [Node.lineDesc, Node.emptyLine, ite_self]

theorem Node.releaseGap_eq (n : Node) (f : FrameCtx) :
    n.releaseGap f = { n with
      ou := n.ou.enqueue (.line (n.emptyLine f .gap)), se := { n.se with state := .run (f.took (n.emptyLine f .gap)) } } := by
  unfold Node.releaseGap Node.releaseLine
  dsimp only
  rw [Node.lineDesc_noContribs, Node.putLine_noContribs n (show Cause.gap ≠ .forced by nofun)]
  rfl

theorem Record.releasable_of {r : Record} (hs : r.state ≠ .opened) : r.releasable = true := by
  unfold Record.releasable
  split
  · next ho => exact absurd ho hs
  · rfl
  · rfl

section engine
variable {n : Node} {c : Settled} {f : FrameCtx}

theorem Node.engineStep_of_full (h : n.ou.freePlaces = 0) : n.engineStep c = none := if_pos h

theorem Node.engineStep_of_idle (h : n.se.state = .idle) : n.engineStep c = none := by
  unfold Node.engineStep
  rw [h]
  exact ite_self _

section places
variable (hp : n.ou.freePlaces ≠ 0)
include hp

theorem Node.engineStep_of_flushing (h : n.se.state = .flushing f) : n.engineStep c = some (n.flushStep c f) := by
  unfold Node.engineStep
  rw [if_neg hp, h]

theorem Node.engineStep_of_run (h : n.se.state = .run f) : n.engineStep c = n.releaseStep c f := by
  unfold Node.engineStep
  rw [if_neg hp, h]

end places

theorem Node.flushStep_of_line (h : f.nNext < c.aLines) :
    n.flushStep c f = { n with
      ou := n.ou.enqueue (.line (n.emptyLine f .flush))
      se := { n.se with state := .flushing (f.took (n.emptyLine f .flush)) } } := by
  unfold Node.flushStep
  rw [if_pos h]
  dsimp only
  rw [Node.lineDesc_noContribs, Node.putLine_noContribs n (show Cause.flush ≠ .forced by nofun)]
  rfl

theorem Node.flushStep_of_end (h : c.aLines ≤ f.nNext) :
    n.flushStep c f = { n with
      ou := n.ou.enqueue (.frameEnd ⟨f.fCur, .flush, f.tallies⟩)
      se := { n.se with
        state := .idle, table := [], holds := Four.const none, strayRun := 0, lastTallies := f.tallies
        framesFlushed := Counter.bump n.se.framesFlushed } } := by
  unfold Node.flushStep
  rw [if_neg (Nat.not_lt.2 h)]
  rfl

theorem Node.releaseStep_of_end (h : c.aLines ≤ f.nNext) : n.releaseStep c f = some (n.advanceFrame f) := if_pos h

section head
variable (h : f.nNext < c.aLines)
include h

theorem Node.releaseStep_of_none (hr : headRecord f.fCur n.se.table = none) : n.releaseStep c f = none := by
  unfold Node.releaseStep
  rw [if_neg (Nat.not_le.2 h), hr]

variable {r : Record} (hr : headRecord f.fCur n.se.table = some r)
include hr

theorem Node.releaseStep_of_some :
    n.releaseStep c f = if r.releasable = true then
      if r.isAt f.fCur f.nNext = true then some (n.releaseRecord f r r.cause) else some (n.releaseGap f)
    else none := by
  unfold Node.releaseStep
  rw [if_neg (Nat.not_le.2 h), hr]

theorem Node.releaseStep_of_opened (hs : r.state = .opened) : n.releaseStep c f = none := by
  rw [Node.releaseStep_of_some h hr, if_neg (by simp [Record.releasable, hs])]

theorem Node.releaseStep_of_here (hs : r.state ≠ .opened) (hframe : r.frame = f.fCur) (hline : r.line = f.nNext) :
    n.releaseStep c f = some (n.releaseRecord f r r.cause) := by
  rw [Node.releaseStep_of_some h hr, if_pos (Record.releasable_of hs),
    if_pos (by simp [Record.isAt, hframe, hline])]

theorem Node.releaseStep_of_later (hs : r.state ≠ .opened) (hkey : r.frame ≠ f.fCur ∨ r.line ≠ f.nNext) :
    n.releaseStep c f = some (n.releaseGap f) := by
  rw [Node.releaseStep_of_some h hr, if_pos (Record.releasable_of hs), if_neg]
  simp only [Record.isAt, Bool.and_eq_true, beq_iff_eq]
  tauto

end head

/-! ## The engine takes every step there is -/

theorem Node.advanceFrame_ou (n : Node) (f : FrameCtx) :
    (n.advanceFrame f).ou = n.ou.enqueue (.frameEnd ⟨f.fCur, .normal, f.tallies⟩) := by
  by_cases h : n.nextJoined = 0
  · rw [Node.advanceFrame_of_none n f h]
    show (n.frameEnded f).discardTable.ou = _
    rw [Node.discardTable_eq, Node.raiseIf_ou, Node.frameEnded_ou]
  · rw [Node.advanceFrame_of_some n f h]
    exact n.frameEnded_ou f

/-- A release of RUN takes one place of the queue. -/
theorem Node.releaseStep_queue {m : Node} (h : n.releaseStep c f = some m) : ∃ d, m.ou = n.ou.enqueue d := by
  unfold Node.releaseStep at h
  split at h
  · cases h
    exact ⟨_, n.advanceFrame_ou f⟩
  · split at h
    · cases h
    · split at h
      · split at h <;> cases h <;> exact ⟨_, rfl⟩
      · cases h

theorem Node.engineStep_queue {m : Node} (h : n.engineStep c = some m) : ∃ d, m.ou = n.ou.enqueue d := by
  unfold Node.engineStep at h
  split at h
  · cases h
  · split at h
    · cases h
    · exact Node.releaseStep_queue h
    · next g _ =>
      cases h
      by_cases hline : g.nNext < c.aLines
      · rw [Node.flushStep_of_line hline]
        exact ⟨_, rfl⟩
      · rw [Node.flushStep_of_end (Nat.not_lt.1 hline)]
        exact ⟨_, rfl⟩

theorem Ou.freePlaces_enqueue (ou : Ou) (d : Descriptor) : (ou.enqueue d).freePlaces = ou.freePlaces - 1 := by
  simp only [Ou.freePlaces, Ou.enqueue, List.length_append, List.length_singleton]
  omega

theorem Node.engineSteps_of_none (h : n.engineStep c = none) (k : Nat) : n.engineSteps c k = n := by
  cases k with
  | zero => rfl
  | succ k =>
    unfold Node.engineSteps
    rw [h]

theorem Node.engineSteps_of_some {m : Node} (h : n.engineStep c = some m) (k : Nat) :
    n.engineSteps c (k + 1) = m.engineSteps c k := by
  rw [Node.engineSteps.eq_def]
  dsimp only
  rw [h]

/-- As many steps as there are places are all the steps there are. -/
theorem Node.engineSteps_succ (c : Settled) {k : Nat} (n : Node) (h : n.ou.freePlaces ≤ k) :
    n.engineSteps c (k + 1) = n.engineSteps c k := by
  induction k generalizing n with
  | zero =>
    unfold Node.engineSteps
    rw [Node.engineStep_of_full (Nat.le_zero.1 h)]
  | succ k ih =>
    rcases hstep : n.engineStep c with _ | m
    · rw [Node.engineSteps_of_none hstep, Node.engineSteps_of_none hstep]
    · rw [Node.engineSteps_of_some hstep, Node.engineSteps_of_some hstep]
      obtain ⟨d, hd⟩ := Node.engineStep_queue hstep
      have hfree : m.ou.freePlaces ≤ k := by
        rw [hd, Ou.freePlaces_enqueue]
        omega
      exact ih m hfree

theorem Node.runEngine_of_none (h : n.engineStep c = none) : n.runEngine c = n := Node.engineSteps_of_none h 4

theorem Node.runEngine_of_some {m : Node} (h : n.engineStep c = some m) : n.runEngine c = m.runEngine c := by
  obtain ⟨d, hd⟩ := Node.engineStep_queue h
  have hfree : m.ou.freePlaces ≤ 3 := by
    rw [hd, Ou.freePlaces_enqueue]
    unfold Ou.freePlaces
    omega
  have hsteps : n.runEngine c = m.engineSteps c 3 := Node.engineSteps_of_some h 3
  rw [hsteps, Node.runEngine, Node.engineSteps_succ c m hfree]

end engine

theorem Record.cause_of_complete {r : Record} (h : r.state = .complete) : r.cause = .complete := by
  simp only [Record.cause, h]

theorem Record.cause_of_expired {r : Record} (h : r.state = .expired) : r.cause = .expired := by
  simp only [Record.cause, h]

/-- Settles O44: the stray run, and the engine's next step by its state, its line and its head record. -/
theorem straysAndFlush : Obligations.StraysAndFlush := by
  refine fun n c => ⟨fun d f hf hj => ?_, Node.runEngine_of_none, fun m => Node.runEngine_of_some,
    fun h => h.elim Node.engineStep_of_full Node.engineStep_of_idle, fun f hp hf => ?_, fun f hp hf => ?_⟩
  · rw [Node.deliver_of_stray hf hj]
    have hjudge : n.judge d.plane d.frame d.line = .stray := (Node.judge_of_run hf).trans hj
    refine ⟨?_, rfl, Node.raiseStray_of_few hf, fun h => ?_⟩
    · rw [Node.present, hjudge, if_pos rfl]
    · obtain ⟨hframe, hresync, hloss⟩ :=
        Node.enterFlushing_spec f { n with se := { n.se with resyncStray := Counter.bump n.se.resyncStray } }
      exact ⟨n.strayFlush f, _, Node.raiseStray_of_eighth hf h, rfl, hframe, hresync, hloss⟩
  · rw [Node.engineStep_of_flushing hp hf]
    refine ⟨fun h => ?_, fun h => ?_⟩
    · rw [Node.flushStep_of_line h]
      exact ⟨_, n.emptyLine f .flush, rfl, rfl, rfl, rfl, rfl⟩
    · rw [Node.flushStep_of_end h]
  · rw [Node.engineStep_of_run hp hf]
    refine ⟨Node.releaseStep_of_end, fun h => ⟨Node.releaseStep_of_none h, fun r hr =>
      ⟨Node.releaseStep_of_opened h hr, fun hs hframe hline => ?_, fun hs hframe hline => ?_, fun hs hkey => ?_⟩⟩⟩
    · rw [Node.releaseStep_of_here h hr (by rw [hs]; nofun) hframe hline, Record.cause_of_complete hs]
    · rw [Node.releaseStep_of_here h hr (by rw [hs]; nofun) hframe hline, Record.cause_of_expired hs]
    · rw [Node.releaseStep_of_later h hr hs hkey, Node.releaseGap_eq]
      exact ⟨_, n.emptyLine f .gap, rfl, rfl, rfl, rfl, rfl⟩

end Sys2Proof.Machine
end

section
/-! SUPPORT. Runs of gap lines, the head record, and what the engine forces on a full table (R128, R132 to R134). -/

namespace Sys2Proof.Machine

/-! ## Forced lines are counted by forced releases alone -/

theorem Node.releaseLine_forced (n : Node) (f : FrameCtx) (q : Four (Option Contribution)) (tc : Option Timecode)
    (skew : Nat) {cause : Cause} (h : cause ≠ .forced) :
    (n.releaseLine f q tc skew cause).se.forcedLines = n.se.forcedLines := if_neg h

theorem Node.advanceFrame_forced (n : Node) (f : FrameCtx) :
    (n.advanceFrame f).se.forcedLines = n.se.forcedLines := by
  by_cases h : n.nextJoined = 0
  · rw [Node.advanceFrame_of_none n f h]
    show (n.frameEnded f).discardTable.se.forcedLines = _
    rw [Node.discardTable_se, Node.frameEnded_se]
  · rw [Node.advanceFrame_of_some n f h]
    show (n.frameEnded f).se.forcedLines = _
    rw [Node.frameEnded_se]

theorem Record.cause_of_releasable {r : Record} (h : r.releasable = true) : r.cause ≠ .forced := by
  unfold Record.releasable at h
  unfold Record.cause
  split at h
  · cases h
  · nofun
  · nofun

theorem Node.engineStep_forced {n m : Node} {c : Settled} (h : n.engineStep c = some m) :
    m.se.forcedLines = n.se.forcedLines := by
  unfold Node.engineStep at h
  split at h
  · cases h
  · split at h
    · cases h
    · next f _ =>
      unfold Node.releaseStep at h
      split at h
      · cases h
        exact n.advanceFrame_forced f
      · split at h
        · cases h
        · split at h
          · next hr =>
            split at h <;> cases h
            · exact Node.releaseLine_forced _ _ _ _ _ (Record.cause_of_releasable hr)
            · exact Node.releaseLine_forced _ _ _ _ _ nofun
          · cases h
    · next f _ =>
      cases h
      by_cases hline : f.nNext < c.aLines
      · rw [Node.flushStep_of_line hline]
      · rw [Node.flushStep_of_end (Nat.not_lt.1 hline)]

theorem Node.engineSteps_forced (c : Settled) (k : Nat) (n : Node) :
    (n.engineSteps c k).se.forcedLines = n.se.forcedLines := by
  induction k generalizing n with
  | zero => rfl
  | succ k ih =>
    rcases hstep : n.engineStep c with _ | m
    · rw [Node.engineSteps_of_none hstep]
    · rw [Node.engineSteps_of_some hstep, ih, Node.engineStep_forced hstep]

theorem Node.accept_forced (n : Node) (c : Settled) (f : FrameCtx) (d : Delivery) :
    (n.accept c f d).se.forcedLines = n.se.forcedLines := Node.engineSteps_forced c 4 _

/-! ## Runs of gap lines -/

/-- Gap lines of a frame. -/
def GapsOf (frame : BitVec 8) (l : List Descriptor) : Prop :=
  ∀ x ∈ l, ∃ d, x = .line d ∧ d.cause = .gap ∧ d.frame = frame

theorem GapsOf.nil (frame : BitVec 8) : GapsOf frame [] := nofun

/-- From `n` in RUN with context `f`, `k` gap lines lead to `t` with context `g`. -/
structure Gapped (f : FrameCtx) (k : Nat) (n : Node) (g : FrameCtx) (t : Node) : Prop where
  frame : t = { n with ou := t.ou, se := { n.se with state := .run g } }
  fCur : g.fCur = f.fCur
  nNext : g.nNext = f.nNext + k
  queue : ∃ gaps, t.ou.queue = n.ou.queue ++ gaps ∧ gaps.length = k ∧ GapsOf f.fCur gaps

namespace Gapped

variable {f g : FrameCtx} {k : Nat} {n t : Node}

theorem zero (h : n.se.state = .run f) : Gapped f 0 n f n :=
  ⟨by rw [← h], rfl, rfl, [], by simp, rfl, GapsOf.nil _⟩

theorem gap (h : Gapped (f.took (n.emptyLine f .gap)) k (n.releaseGap f) g t) : Gapped f (k + 1) n g t := by
  obtain ⟨gaps, hqueue, hlen, hgaps⟩ := h.queue
  refine ⟨?_, h.fCur, ?_, .line (n.emptyLine f .gap) :: gaps, ?_, by simp [hlen], ?_⟩
  · have hframe := h.frame
    rw [Node.releaseGap_eq] at hframe
    exact hframe
  · rw [h.nNext]
    show f.nNext + 1 + k = f.nNext + (k + 1)
    omega
  · rw [hqueue, Node.releaseGap_eq]
    show n.ou.queue ++ [_] ++ gaps = _
    rw [List.append_assoc]
    rfl
  · intro x hx
    obtain rfl | hx := List.mem_cons.1 hx
    · exact ⟨_, rfl, rfl, rfl⟩
    · exact hgaps x hx

variable (h : Gapped f k n g t)
include h

theorem state : t.se.state = .run g := by rw [h.frame]

theorem table : t.se.table = n.se.table := by rw [h.frame]

theorem rh : t.rh = n.rh := by rw [h.frame]

theorem forced : t.se.forcedLines = n.se.forcedLines := by rw [h.frame]

theorem joined : t.nextJoined = n.nextJoined := by
  unfold Node.nextJoined
  rw [h.frame]

theorem places : t.ou.freePlaces = n.ou.freePlaces - k := by
  obtain ⟨gaps, hqueue, hlen, -⟩ := h.queue
  simp only [Ou.freePlaces, hqueue, List.length_append, hlen]
  omega

end Gapped

theorem Node.releaseGap_places (n : Node) (f : FrameCtx) :
    (n.releaseGap f).ou.freePlaces = n.ou.freePlaces - 1 := by
  rw [Node.releaseGap_eq]
  exact Ou.freePlaces_enqueue _ _

theorem Node.releaseGap_state (n : Node) (f : FrameCtx) :
    (n.releaseGap f).se.state = .run (f.took (n.emptyLine f .gap)) := by rw [Node.releaseGap_eq]

theorem Node.releaseGap_table (n : Node) (f : FrameCtx) : (n.releaseGap f).se.table = n.se.table := by
  rw [Node.releaseGap_eq]

/-! ## The walk to a line of its own -/

section walk
variable {c : Settled} {frame : BitVec 8} {line : Nat} {n : Node} {f : FrameCtx}

theorem Node.walkTo_of_here (hf : n.se.state = .run f) (hframe : f.fCur = frame) (hline : f.nNext = line) (k : Nat) :
    n.walkTo c frame line k = n := by
  cases k with
  | zero => rfl
  | succ k =>
    unfold Node.walkTo
    rw [hf]
    exact if_pos (by simp [hframe, hline])

theorem Node.walkTo_of_idle (hi : n.se.state = .idle) (k : Nat) : n.walkTo c frame line k = n := by
  cases k with
  | zero => rfl
  | succ k =>
    unfold Node.walkTo
    rw [hi]

section step
variable (hf : n.se.state = .run f) (hkey : f.fCur ≠ frame ∨ f.nNext ≠ line) (hp : 2 ≤ n.ou.freePlaces)
include hf hkey hp

theorem Node.walkTo_of_elsewhere (k : Nat) :
    n.walkTo c frame line (k + 1) =
      if c.aLines ≤ f.nNext then Node.walkTo c frame line k (n.advanceFrame f)
      else Node.walkTo c frame line k (n.releaseGap f) := by
  rw [Node.walkTo.eq_def]
  dsimp only
  rw [hf]
  refine if_neg ?_
  simp only [Bool.or_eq_true, Bool.and_eq_true, decide_eq_true_eq]
  rintro (⟨h1, h2⟩ | h)
  · exact hkey.elim (fun hne => hne h1) fun hne => hne h2
  · omega

end step

/-- As far as the frame and the walk go, gap lines. -/
theorem Node.walkTo_gaps (j k : Nat) (hf : n.se.state = .run f) (hend : f.nNext + j ≤ c.aLines)
    (hkey : f.fCur ≠ frame ∨ f.nNext + j ≤ line) (hp : j + 1 ≤ n.ou.freePlaces) :
    ∃ g t, Gapped f j n g t ∧ n.walkTo c frame line (k + j) = t.walkTo c frame line k := by
  induction j generalizing n f with
  | zero => exact ⟨f, n, .zero hf, rfl⟩
  | succ j ih =>
    have hplaces := n.releaseGap_places f
    obtain ⟨g, t, hgap, hwalk⟩ := ih (n := n.releaseGap f) (f := f.took (n.emptyLine f .gap)) (n.releaseGap_state f)
      (show f.nNext + 1 + j ≤ c.aLines by omega)
      (hkey.imp_right fun hle => show f.nNext + 1 + j ≤ line by omega) (by omega)
    refine ⟨g, t, hgap.gap, ?_⟩
    rw [← Nat.add_assoc, Node.walkTo_of_elsewhere hf (hkey.imp_right fun hle => by omega) (by omega), if_neg (by omega)]
    exact hwalk

end walk

/-! ## The force -/

section force
variable {c : Settled} {n : Node} {f : FrameCtx} {r : Record}

theorem Node.force_of_room (h : n.se.table.length < 16) (k : Nat) : n.force c k = n := by
  cases k with
  | zero => rfl
  | succ k =>
    unfold Node.force
    split
    · exact if_pos (by simp [h])
    · rfl

theorem Node.force_of_idle (h : n.se.state = .idle) (k : Nat) : n.force c k = n := by
  cases k with
  | zero => rfl
  | succ k =>
    unfold Node.force
    rw [h]

section step
variable (hf : n.se.state = .run f) (hfull : 16 ≤ n.se.table.length) (hr : headRecord f.fCur n.se.table = some r)
  (hp : 1 ≤ n.ou.freePlaces)
include hf hfull hr hp

theorem Node.force_of_head (k : Nat) : n.force c (k + 1) = (n.forceStep c f r).force c k := by
  rw [Node.force.eq_def]
  dsimp only
  rw [hf]
  dsimp only
  rw [if_neg (by
    simp only [Bool.or_eq_true, decide_eq_true_eq]
    omega), hr]

end step

theorem Node.forceStep_of_here (hend : f.nNext < c.aLines) (hframe : r.frame = f.fCur) (hline : r.line = f.nNext) :
    n.forceStep c f r = n.releaseRecord f r .forced := by
  unfold Node.forceStep
  rw [if_neg (Nat.not_le.2 hend), if_pos (by simp [Record.isAt, hframe, hline])]

theorem Node.forceStep_of_later (hend : f.nNext < c.aLines) (hkey : r.frame ≠ f.fCur ∨ r.line ≠ f.nNext) :
    n.forceStep c f r = n.releaseGap f := by
  unfold Node.forceStep
  rw [if_neg (Nat.not_le.2 hend), if_neg]
  simp only [Record.isAt, Bool.and_eq_true, beq_iff_eq]
  tauto

theorem Node.forceStep_of_end (hend : c.aLines ≤ f.nNext) : n.forceStep c f r = n.advanceFrame f := if_pos hend

/-- As far as the frame and the head record's line go, gap lines. -/
theorem Node.force_gaps (j k : Nat) (hf : n.se.state = .run f) (hfull : 16 ≤ n.se.table.length)
    (hr : headRecord f.fCur n.se.table = some r) (hend : f.nNext + j ≤ c.aLines)
    (hkey : r.frame ≠ f.fCur ∨ f.nNext + j ≤ r.line) (hp : j ≤ n.ou.freePlaces) :
    ∃ g t, Gapped f j n g t ∧ n.force c (k + j) = t.force c k := by
  induction j generalizing n f with
  | zero => exact ⟨f, n, .zero hf, rfl⟩
  | succ j ih =>
    have hplaces := n.releaseGap_places f
    have htable := n.releaseGap_table f
    obtain ⟨g, t, hgap, hforce⟩ := ih (n := n.releaseGap f) (f := f.took (n.emptyLine f .gap)) (n.releaseGap_state f)
      (by rw [htable]; exact hfull) (by rw [htable]; exact hr) (show f.nNext + 1 + j ≤ c.aLines by omega)
      (hkey.imp_right fun hle => show f.nNext + 1 + j ≤ r.line by omega) (by omega)
    refine ⟨g, t, hgap.gap, ?_⟩
    rw [← Nat.add_assoc, Node.force_of_head hf hfull hr (by omega),
      Node.forceStep_of_later (by omega) (hkey.imp_right fun hle => by omega)]
    exact hforce

end force

/-! ## The head record is the first of the lowest -/

/-- `r` is the first of the lowest keys of a list. -/
def IsFirstLowest (fCur : BitVec 8) (l : List Record) (r : Record) : Prop :=
  ∃ l1 l2, l = l1 ++ r :: l2 ∧ (∀ x ∈ l1, r.rank fCur < x.rank fCur) ∧ ∀ x ∈ l2, r.rank fCur ≤ x.rank fCur

theorem lowerRecord_cases (fCur : BitVec 8) (best : Option Record) (x : Record) :
    (lowerRecord fCur best x = some x ∧ ∀ b, best = some b → x.rank fCur < b.rank fCur)
    ∨ ∃ b, best = some b ∧ lowerRecord fCur best x = some b ∧ b.rank fCur ≤ x.rank fCur := by
  rcases best with _ | b
  · exact .inl ⟨rfl, nofun⟩
  · by_cases h : x.rank fCur < b.rank fCur
    · refine .inl ⟨if_pos h, fun y hy => ?_⟩
      cases hy
      exact h
    · exact .inr ⟨b, rfl, if_neg h, Nat.not_lt.1 h⟩

theorem foldl_lowerRecord_first {fCur : BitVec 8} {l : List Record} {best : Option Record} {r : Record}
    (h : l.foldl (lowerRecord fCur) best = some r) :
    (best = some r ∧ ∀ x ∈ l, r.rank fCur ≤ x.rank fCur)
    ∨ IsFirstLowest fCur l r ∧ ∀ b, best = some b → r.rank fCur < b.rank fCur := by
  induction l generalizing best with
  | nil => exact .inl ⟨h, nofun⟩
  | cons x l ih =>
    obtain ⟨hx, hlow⟩ | ⟨b, hb, hkeep, hle⟩ := lowerRecord_cases fCur best x
    · obtain ⟨heq, hall⟩ | ⟨⟨l1, l2, rfl, h1, h2⟩, hbest⟩ := ih h
      · rw [hx] at heq
        cases heq
        exact .inr ⟨⟨[], l, rfl, nofun, hall⟩, hlow⟩
      · have hrx := hbest x hx
        refine .inr ⟨⟨x :: l1, l2, rfl, fun y hy => ?_, h2⟩, fun b hb => hrx.trans (hlow b hb)⟩
        obtain rfl | hy := List.mem_cons.1 hy
        · exact hrx
        · exact h1 y hy
    · obtain ⟨heq, hall⟩ | ⟨⟨l1, l2, rfl, h1, h2⟩, hbest⟩ := ih h
      · rw [hkeep] at heq
        cases heq
        refine .inl ⟨hb, fun y hy => ?_⟩
        obtain rfl | hy := List.mem_cons.1 hy
        · exact hle
        · exact hall y hy
      · have hrb := hbest b hkeep
        refine .inr ⟨⟨x :: l1, l2, rfl, fun y hy => ?_, h2⟩, fun b' hb' => ?_⟩
        · obtain rfl | hy := List.mem_cons.1 hy
          · omega
          · exact h1 y hy
        · rw [hb] at hb'
          cases hb'
          exact hrb

theorem headRecord_first {fCur : BitVec 8} {l : List Record} {r : Record} (h : headRecord fCur l = some r) :
    IsFirstLowest fCur l r := by
  obtain ⟨hnone, -⟩ | ⟨hfirst, -⟩ := foldl_lowerRecord_first h
  · cases hnone
  · exact hfirst

theorem foldl_lowerRecord_some (fCur : BitVec 8) (l : List Record) (b : Record) :
    ∃ r, l.foldl (lowerRecord fCur) (some b) = some r := by
  induction l generalizing b with
  | nil => exact ⟨b, rfl⟩
  | cons x l ih =>
    obtain ⟨hx, -⟩ | ⟨y, -, hkeep, -⟩ := lowerRecord_cases fCur (some b) x
    · rw [List.foldl_cons, hx]
      exact ih x
    · rw [List.foldl_cons, hkeep]
      exact ih y

/-- The first of the lowest keys is unique up to its place. -/
theorem headRecord_of_first {fCur : BitVec 8} {l : List Record} {r : Record} (h : IsFirstLowest fCur l r) :
    headRecord fCur l = some r := by
  obtain ⟨l1, l2, rfl, h1, h2⟩ := h
  have hbefore : ∀ b, l1.foldl (lowerRecord fCur) none = some b → r.rank fCur < b.rank fCur := by
    intro b hb
    obtain ⟨m1, m2, rfl, -, -⟩ := headRecord_first hb
    exact h1 b (by simp)
  have hhere : lowerRecord fCur (l1.foldl (lowerRecord fCur) none) r = some r := by
    obtain ⟨hr, -⟩ | ⟨b, hb, -, hle⟩ := lowerRecord_cases fCur (l1.foldl (lowerRecord fCur) none) r
    · exact hr
    · exact absurd (hbefore b hb) (Nat.not_lt.2 hle)
  have hafter : ∀ l : List Record, (∀ x ∈ l, r.rank fCur ≤ x.rank fCur) →
      l.foldl (lowerRecord fCur) (some r) = some r := by
    intro l
    induction l with
    | nil => exact fun _ => rfl
    | cons x l ih =>
      intro hl
      have hx : lowerRecord fCur (some r) x = some r := if_neg (Nat.not_lt.2 (hl x (by simp)))
      rw [List.foldl_cons, hx]
      exact ih fun y hy => hl y (by simp [hy])
  unfold headRecord
  rw [List.foldl_append, List.foldl_cons, hhere]
  exact hafter l2 h2

/-- The distance to the next frame is one less, but for the frame left behind. -/
theorem frameDistance_next (f g : BitVec 8) :
    frameDistance (f + 1) g = if frameDistance f g = 0 then 255 else frameDistance f g - 1 := by
  have hsub : g - (f + 1) = (g - f) - 1 := by abel
  unfold frameDistance
  rw [hsub]
  generalize g - f = x
  have hx := x.isLt
  rw [BitVec.toNat_sub]
  split
  · next h => simp [h]
  · next h =>
    have hone : (1 : BitVec 8).toNat = 1 := rfl
    rw [hone]
    omega

/-- A record of the next frame keeps its place before the others at a frame's end. -/
theorem rank_next {f : BitVec 8} {r x : Record} (hr : r.frame = f + 1) :
    (r.rank f < x.rank f → r.rank (f + 1) < x.rank (f + 1))
    ∧ (r.rank f ≤ x.rank f → r.rank (f + 1) ≤ x.rank (f + 1)) := by
  have hdist : frameDistance f r.frame = 1 := by rw [hr, frameDistance_succ]
  have hzero : frameDistance (f + 1) r.frame = 0 := by rw [hr, frameDistance_self]
  simp only [Record.rank, keyRank, hdist, hzero, frameDistance_next f x.frame]
  split <;> constructor <;> omega

/-- The head record of the next frame's table, whose records keep their keys. -/
theorem headRecord_next {f : BitVec 8} {l : List Record} {r : Record} {g : Record → Record}
    (hg : ∀ x, (g x).frame = x.frame ∧ (g x).line = x.line) (h : headRecord f l = some r) (hr : r.frame = f + 1) :
    headRecord (f + 1) (l.map g) = some (g r) := by
  have hrank (x : Record) (fr : BitVec 8) : (g x).rank fr = x.rank fr := by
    simp only [Record.rank, (hg x).1, (hg x).2]
  obtain ⟨l1, l2, rfl, h1, h2⟩ := headRecord_first h
  refine headRecord_of_first ⟨l1.map g, l2.map g, by simp, fun y hy => ?_, fun y hy => ?_⟩
  · obtain ⟨x, hx, rfl⟩ := List.mem_map.1 hy
    rw [hrank, hrank]
    exact (rank_next hr).1 (h1 x hx)
  · obtain ⟨x, hx, rfl⟩ := List.mem_map.1 hy
    rw [hrank, hrank]
    exact (rank_next hr).2 (h2 x hx)

end Sys2Proof.Machine
end

section
/-! SUPPORT. A delivery that needs a new record on a full table (R132 to R134). -/

namespace Sys2Proof.Machine

/-! ## What a delivery on a full table comes to -/

section full
variable {n t : Node} {c : Settled} {f : FrameCtx} {r : Record} {d : Delivery}

/-- A delivery that needs a record, in RUN with a full table and this head record. -/
structure Node.FullFor (f : FrameCtx) (r : Record) (d : Delivery) (n : Node) : Prop where
  state : n.se.state = .run f
  accepts : n.judgeRun f d.plane d.frame d.line = .accept
  new : findRecord d.frame d.line n.se.table = none
  length : n.se.table.length = 16
  head : headRecord f.fCur n.se.table = some r

theorem Node.FullFor.deliver_eq (h : n.FullFor f r d) (c : Settled) : n.deliver c d = n.deliverFull c f r d := by
  rw [Node.deliver_of_accept h.state h.accepts]
  unfold Node.deliverRun
  rw [h.new, h.head]
  exact if_pos h.length.ge

theorem placesTo_of_frame (c : Settled) (f : FrameCtx) {frame : BitVec 8} (line : Nat) (h : frame = f.fCur) :
    placesTo c f frame line = line - f.nNext + 1 := if_pos h

theorem placesTo_of_next (c : Settled) (f : FrameCtx) {frame : BitVec 8} (line : Nat) (h : frame ≠ f.fCur) :
    placesTo c f frame line = (c.aLines - f.nNext) + line + 2 := by
  refine (if_neg h).trans ?_
  omega

section below
variable (hkey : keyRank f.fCur d.frame d.line < r.rank f.fCur)
include hkey

theorem Node.deliverFull_of_few_below (hp : n.ou.freePlaces < placesTo c f d.frame d.line) :
    n.deliverFull c f r d = (n, .tableFull) := by
  unfold Node.deliverFull
  rw [if_pos hkey, if_pos hp]

variable (hp : placesTo c f d.frame d.line ≤ n.ou.freePlaces) (ht : n.walkTo c d.frame d.line 4 = t)
include hp ht

theorem Node.deliverFull_of_walk {g : FrameCtx} (hg : t.se.state = .run g) :
    n.deliverFull c f r d = (t.ownLine c g d, .accept) := by
  unfold Node.deliverFull
  rw [if_pos hkey, if_neg (Nat.not_lt.2 hp), ht]
  dsimp only
  rw [hg]

theorem Node.deliverFull_of_walk_idle (hi : t.se.state = .idle) : n.deliverFull c f r d = t.deliver c d := by
  unfold Node.deliverFull
  rw [if_pos hkey, if_neg (Nat.not_lt.2 hp), ht, Node.deliver_of_idle hi]
  dsimp only
  rw [hi]

end below

section above
variable (hkey : r.rank f.fCur ≤ keyRank f.fCur d.frame d.line)
include hkey

theorem Node.deliverFull_of_few_above (hp : n.ou.freePlaces < placesTo c f r.frame r.line) :
    n.deliverFull c f r d = (n, .tableFull) := by
  unfold Node.deliverFull
  rw [if_neg (Nat.not_lt.2 hkey), if_pos hp]

variable (hp : placesTo c f r.frame r.line ≤ n.ou.freePlaces) (ht : n.force c 4 = t)
include hp ht

theorem Node.deliverFull_of_force {g : FrameCtx} (hg : t.se.state = .run g) (hroom : t.se.table.length < 16) :
    n.deliverFull c f r d = (t.accept c g d, .accept) := by
  unfold Node.deliverFull
  rw [if_neg (Nat.not_lt.2 hkey), if_neg (Nat.not_lt.2 hp), ht]
  dsimp only
  rw [hg]
  exact if_pos hroom

theorem Node.deliverFull_of_force_idle (hi : t.se.state = .idle) : n.deliverFull c f r d = t.deliver c d := by
  unfold Node.deliverFull
  rw [if_neg (Nat.not_lt.2 hkey), if_neg (Nat.not_lt.2 hp), ht, Node.deliver_of_idle hi]
  dsimp only
  rw [hi]

end above

/-- The state of the buffer of a delivery that is accepted. -/
theorem Node.deliver_buf (h : (n.deliver c d).2 = .accept) :
    ((n.deliver c d).1.ss.buf d.buf).state = ((n.ss.mark d.buf (.referenced 1)).buf d.buf).state := by
  rw [(n.deliver_delivered c d).ss, if_pos h]

end full

/-! ## A line of its own -/

/-- The descriptor of a delivery's own line. -/
def Node.ownDesc (g : FrameCtx) (d : Delivery) (t : Node) : LineDesc := t.lineDesc g d.contribs d.timecode 0 .forced

theorem Node.ownDesc_present (t : Node) (g : FrameCtx) (d : Delivery) :
    (t.ownDesc g d).planes.get d.plane = .present d.buf d.length := by
  have hown : d.contribs.get d.plane = some ⟨d.buf, d.length⟩ := Four.get_set_self _ _ _
  exact (Four.get_build _ _).trans (planeOut_of_some hown)

theorem Node.ownDesc_others (t : Node) (g : FrameCtx) (d : Delivery) {p : Fin 4} (h : p ≠ d.plane) :
    ((t.ownDesc g d).planes.get p).isPresent = false := by
  have hnone : d.contribs.get p = none := (Four.get_set_of_ne _ _ h).trans (Four.get_const _ _)
  have hget : (t.ownDesc g d).planes.get p = planeOut t.rh.runtime.mode g.mask t.se.holds d.contribs p :=
    Four.get_build _ _
  rw [hget, planeOut_isPresent, hnone]
  rfl

theorem Node.ownLine_queue (t : Node) (c : Settled) (g : FrameCtx) (d : Delivery) :
    ∃ more, (t.ownLine c g d).ou.queue = t.ou.queue ++ [.line (t.ownDesc g d)] ++ more := by
  unfold Node.ownLine
  exact (Node.runEngine_frame c _).queue

theorem Node.ownLine_forced (t : Node) (c : Settled) (g : FrameCtx) (d : Delivery) :
    (t.ownLine c g d).se.forcedLines = Counter.bump t.se.forcedLines := Node.engineSteps_forced c 4 _

theorem Node.accept_queue (t : Node) (c : Settled) (g : FrameCtx) (d : Delivery) :
    ∃ more, (t.accept c g d).ou.queue = t.ou.queue ++ more := (Node.accept_hand c t g d).queue

/-! ## The head record forced out -/

/-- The descriptor of a forced head record. -/
def Node.forcedDesc (g : FrameCtx) (r : Record) (t : Node) : LineDesc :=
  t.lineDesc g r.contribs r.timecode r.skew .forced

theorem Node.forcedDesc_present {t : Node} {g : FrameCtx} {r : Record} {p : Fin 4} {k : Contribution}
    (h : r.contribs.get p = some k) : (t.forcedDesc g r).planes.get p = .present k.buf k.length :=
  (Four.get_build _ _).trans (planeOut_of_some h)

theorem Node.releaseRecord_forced (t : Node) (g : FrameCtx) (r : Record) :
    (t.releaseRecord g r .forced).ou.queue = t.ou.queue ++ [.line (t.forcedDesc g r)]
    ∧ (t.releaseRecord g r .forced).se.forcedLines = Counter.bump t.se.forcedLines
    ∧ (t.releaseRecord g r .forced).se.table = t.se.table.erase r
    ∧ ∃ h, (t.releaseRecord g r .forced).se.state = .run h := ⟨rfl, rfl, rfl, _, rfl⟩

/-! ## The end of the frame in progress -/

/-- What the end of a frame leaves, as the walk and the force go on from it. -/
theorem Node.advanceFrame_joined {t : Node} {g : FrameCtx} (h : t.nextJoined ≠ 0) :
    (t.advanceFrame g).se.state = .run (t.nextFrame g)
    ∧ (t.advanceFrame g).se.table =
      (keptTable t.rh.runtime.mask t.se.table).map (Record.evaluate t.nextJoined t.tb.e) := by
  rw [Node.advanceFrame_of_some t g h]
  refine ⟨rfl, ?_⟩
  show (t.frameEnded g).se.table = _
  rw [Node.frameEnded_se]

theorem Node.advanceFrame_empty {t : Node} {g : FrameCtx} (h : t.nextJoined = 0) :
    (t.advanceFrame g).se.state = .idle ∧ (t.advanceFrame g).se.table = []
    ∧ (t.advanceFrame g).se.resyncEmpty = Counter.bump t.se.resyncEmpty
    ∧ (t.advanceFrame g).rh.isPending 10 = true := by
  rw [Node.advanceFrame_of_none t g h]
  refine ⟨rfl, rfl, ?_, Node.raise_pending _ .stitchResync⟩
  show Counter.bump (t.frameEnded g).discardTable.se.resyncEmpty = _
  rw [Node.discardTable_se, Node.frameEnded_se]

/-- A record within a mask has contributions exactly where the mask lets some through. -/
theorem withdraw_count_pos {mask : PlaneSet} {x : Record} :
    0 < contribCount (x.withdraw mask).contribs ↔ ∃ p, PlaneSet.has mask p = true ∧ (x.contribs.get p).isSome = true := by
  have hget (p : Fin 4) : (x.withdraw mask).contribs.get p = if PlaneSet.has mask p then x.contribs.get p else none :=
    Four.get_build _ p
  rw [contribCount, Four.countP_pos]
  simp only [hget]
  refine exists_congr fun p => ?_
  cases PlaneSet.has mask p <;> simp

/-- Where the mask lets something of every record through, each stays. -/
theorem keptTable_of_all {mask : PlaneSet} {l : List Record}
    (h : ∀ x ∈ l, ∃ p, PlaneSet.has mask p = true ∧ (x.contribs.get p).isSome = true) :
    keptTable mask l = l.map (Record.withdraw mask) := by
  refine List.filter_eq_self.2 fun y hy => ?_
  obtain ⟨x, hx, rfl⟩ := List.mem_map.1 hy
  exact bne_iff_ne.2 (Nat.pos_iff_ne_zero.1 (withdraw_count_pos.2 (h x hx)))

theorem keptTable_of_some {mask : PlaneSet} {l : List Record}
    (h : ∃ x ∈ l, ∀ p, PlaneSet.has mask p = true → x.contribs.get p = none) :
    (keptTable mask l).length < l.length := by
  obtain ⟨x, hx, hnone⟩ := h
  have hzero : ¬0 < contribCount (x.withdraw mask).contribs := by
    rw [withdraw_count_pos]
    rintro ⟨p, hp, hsome⟩
    rw [hnone p hp] at hsome
    cases hsome
  have hlt : (keptTable mask l).length < (l.map (Record.withdraw mask)).length := by
    refine List.length_filter_lt_length_iff_exists.2 ⟨x.withdraw mask, List.mem_map_of_mem hx, ?_⟩
    rw [bne_iff_ne, not_not]
    omega
  rwa [List.length_map] at hlt

/-! ## The walk and the force to their line -/

section reach
variable {n : Node} {c : Settled} {f : FrameCtx} {r : Record} {frame : BitVec 8} {line : Nat}

/-- The walk to a line of the frame in progress. -/
theorem Node.walkTo_reaches (hf : n.se.state = .run f) (hframe : f.fCur = frame) (hle : f.nNext ≤ line)
    (hend : line < c.aLines) (hp : line - f.nNext < n.ou.freePlaces) {k : Nat} (hk : line - f.nNext ≤ k) :
    ∃ g t, Gapped f (line - f.nNext) n g t ∧ g.nNext = line ∧ n.walkTo c frame line k = t := by
  obtain ⟨i, rfl⟩ := Nat.exists_eq_add_of_le' hk
  obtain ⟨g, t, hgap, hwalk⟩ :=
    Node.walkTo_gaps (c := c) (frame := frame) (line := line) (line - f.nNext) i hf (by omega) (.inr (by omega))
      (by omega)
  have hline : g.nNext = line := by rw [hgap.nNext]; omega
  exact ⟨g, t, hgap, hline, hwalk.trans (Node.walkTo_of_here hgap.state (hgap.fCur.trans hframe) hline i)⟩

/-- The walk beyond the frame in progress. -/
theorem Node.walkTo_ends (hf : n.se.state = .run f) (hframe : f.fCur ≠ frame) (k : Nat)
    (hp : (c.aLines - f.nNext) + 2 ≤ n.ou.freePlaces) :
    ∃ g t, Gapped f (c.aLines - f.nNext) n g t
      ∧ n.walkTo c frame line (k + 1 + (c.aLines - f.nNext)) = (t.advanceFrame g).walkTo c frame line k := by
  have hover : c.aLines ≤ f.nNext → c.aLines - f.nNext = 0 := Nat.sub_eq_zero_of_le
  by_cases hend : f.nNext ≤ c.aLines
  · obtain ⟨g, t, hgap, hwalk⟩ :=
      Node.walkTo_gaps (c := c) (frame := frame) (line := line) (c.aLines - f.nNext) (k + 1) hf (by omega)
        (.inl hframe) (by omega)
    have hplaces := hgap.places
    refine ⟨g, t, hgap, hwalk.trans ?_⟩
    rw [Node.walkTo_of_elsewhere hgap.state (.inl (by rw [hgap.fCur]; exact hframe)) (by omega), if_pos]
    rw [hgap.nNext]
    omega
  · have hzero := hover (by omega)
    rw [hzero] at hp ⊢
    refine ⟨f, n, .zero hf, ?_⟩
    rw [Nat.add_zero, Node.walkTo_of_elsewhere hf (.inl hframe) (by omega), if_pos (by omega)]

/-- The force to a head record of the frame in progress. -/
theorem Node.force_reaches (hf : n.se.state = .run f) (hlen : n.se.table.length = 16)
    (hr : headRecord f.fCur n.se.table = some r) (hframe : r.frame = f.fCur) (hle : f.nNext ≤ r.line)
    (hend : r.line < c.aLines) (hp : r.line - f.nNext < n.ou.freePlaces) {k : Nat} (hk : r.line - f.nNext < k) :
    ∃ g t, Gapped f (r.line - f.nNext) n g t ∧ g.nNext = r.line
      ∧ n.force c k = t.releaseRecord g r .forced := by
  obtain ⟨i, hi⟩ := Nat.exists_eq_add_of_lt hk
  obtain rfl : k = i + 1 + (r.line - f.nNext) := by omega
  obtain ⟨g, t, hgap, hforce⟩ :=
      Node.force_gaps (c := c) (r.line - f.nNext) (i + 1) hf hlen.ge hr (by omega) (.inr (by omega)) hp.le
  have hplaces := hgap.places
  have hline : g.nNext = r.line := by rw [hgap.nNext]; omega
  have hhead : headRecord g.fCur t.se.table = some r := by rw [hgap.fCur, hgap.table]; exact hr
  refine ⟨g, t, hgap, hline, hforce.trans ?_⟩
  rw [Node.force_of_head hgap.state (by rw [hgap.table]; exact hlen.ge) hhead (by omega),
    Node.forceStep_of_here (by omega) (by rw [hgap.fCur]; exact hframe) hline.symm]
  refine Node.force_of_room ?_ i
  rw [(t.releaseRecord_forced g r).2.2.1, List.length_erase_of_mem (headRecord_mem hhead), hgap.table, hlen]
  exact Nat.lt_succ_self 15

/-- The force beyond the frame in progress. -/
theorem Node.force_ends (hf : n.se.state = .run f) (hlen : n.se.table.length = 16)
    (hr : headRecord f.fCur n.se.table = some r) (hframe : r.frame ≠ f.fCur) (k : Nat)
    (hp : (c.aLines - f.nNext) + 1 ≤ n.ou.freePlaces) :
    ∃ g t, Gapped f (c.aLines - f.nNext) n g t
      ∧ n.force c (k + 1 + (c.aLines - f.nNext)) = (t.advanceFrame g).force c k := by
  by_cases hend : f.nNext ≤ c.aLines
  · obtain ⟨g, t, hgap, hforce⟩ :=
      Node.force_gaps (c := c) (c.aLines - f.nNext) (k + 1) hf hlen.ge hr (by omega) (.inl hframe) (by omega)
    have hplaces := hgap.places
    refine ⟨g, t, hgap, hforce.trans ?_⟩
    rw [Node.force_of_head hgap.state (by rw [hgap.table]; exact hlen.ge) (by rw [hgap.fCur, hgap.table]; exact hr)
      (by omega), Node.forceStep_of_end]
    rw [hgap.nNext]
    omega
  · have hzero : c.aLines - f.nNext = 0 := by omega
    rw [hzero] at hp ⊢
    refine ⟨f, n, .zero hf, ?_⟩
    rw [Nat.add_zero, Node.force_of_head hf hlen.ge hr (by omega), Node.forceStep_of_end (by omega)]

end reach

end Sys2Proof.Machine
end

section
/-! SUPPORT. The statement about a full table (R132 to R134). -/

namespace Sys2Proof.Machine

theorem Ou.freePlaces_le (ou : Ou) : ou.freePlaces ≤ 4 := Nat.sub_le _ _

namespace Gapped

variable {f g : FrameCtx} {k : Nat} {n t : Node} (h : Gapped f k n g t)
include h

/-- The frame's end behind its gap lines. -/
theorem ended : ∃ gaps ended, (t.advanceFrame g).ou.queue = n.ou.queue ++ gaps ++ [.frameEnd ended]
    ∧ gaps.length = k ∧ GapsOf f.fCur gaps ∧ ended.frame = f.fCur ∧ ended.cause = .normal := by
  obtain ⟨gaps, hqueue, hlen, hgaps⟩ := h.queue
  refine ⟨gaps, ⟨g.fCur, .normal, g.tallies⟩, ?_, hlen, hgaps, h.fCur, rfl⟩
  rw [Node.advanceFrame_ou, ← hqueue]
  rfl

theorem ended_places : (t.advanceFrame g).ou.freePlaces = n.ou.freePlaces - k - 1 := by
  rw [Node.advanceFrame_ou, Ou.freePlaces_enqueue, h.places]

theorem ended_forced : (t.advanceFrame g).se.forcedLines = n.se.forcedLines := by
  rw [Node.advanceFrame_forced, h.forced]

theorem ended_joined (hj : n.nextJoined ≠ 0) :
    (t.advanceFrame g).se.state = .run (t.nextFrame g) ∧ (t.nextFrame g).fCur = f.fCur + 1 ∧ (t.nextFrame g).nNext = 0
    ∧ (t.advanceFrame g).se.table =
      (keptTable n.rh.runtime.mask n.se.table).map (Record.evaluate n.nextJoined t.tb.e) := by
  have hjoined : t.nextJoined ≠ 0 := by rwa [h.joined]
  obtain ⟨hstate, htable⟩ := Node.advanceFrame_joined (g := g) hjoined
  refine ⟨hstate, congrArg (· + 1) h.fCur, rfl, ?_⟩
  rw [htable, h.rh, h.table, h.joined]

theorem ended_empty (hj : n.nextJoined = 0) :
    (t.advanceFrame g).se.state = .idle ∧ (t.advanceFrame g).se.table = []
    ∧ (t.advanceFrame g).se.resyncEmpty = Counter.bump n.se.resyncEmpty
    ∧ (t.advanceFrame g).rh.isPending 10 = true := by
  have hjoined : t.nextJoined = 0 := by rwa [h.joined]
  obtain ⟨hstate, htable, hresync, hpending⟩ := Node.advanceFrame_empty (g := g) hjoined
  have hkept : t.se.resyncEmpty = n.se.resyncEmpty := by rw [h.frame]
  exact ⟨hstate, htable, by rw [hresync, hkept], hpending⟩

end Gapped

section clauses
variable {n : Node} {c : Settled} {f : FrameCtx} {r : Record} {d : Delivery} (h : n.FullFor f r d)
include h

/-- A delivery below the head, in the frame in progress. -/
theorem Node.FullFor.own (hkey : keyRank f.fCur d.frame d.line < r.rank f.fCur) (hframe : d.frame = f.fCur)
    (hend : d.line < c.aLines) (hp : d.line - f.nNext < n.ou.freePlaces) :
    ∃ g t more, Gapped f (d.line - f.nNext) n g t ∧ g.nNext = d.line ∧ n.deliver c d = (t.ownLine c g d, .accept)
      ∧ (t.ownLine c g d).ou.queue = t.ou.queue ++ [.line (t.ownDesc g d)] ++ more := by
  have hle : f.nNext ≤ d.line := by
    by_contra hlate
    have hmask : PlaneSet.has (if d.frame = f.fCur then f.mask else n.rh.runtime.mask) d.plane = true := by
      by_contra hno
      have hun := Node.judgeRun_of_unmasked (n := n) (line := d.line) (Bool.eq_false_iff.2 hno)
      cases h.accepts.symm.trans hun
    cases h.accepts.symm.trans (Node.judgeRun_of_late hmask hframe (Nat.lt_of_not_le hlate))
  obtain ⟨g, t, hgap, hline, hwalk⟩ :=
    Node.walkTo_reaches (c := c) h.state hframe.symm hle hend hp (k := 4) (by have := n.ou.freePlaces_le; omega)
  obtain ⟨more, hmore⟩ := t.ownLine_queue c g d
  refine ⟨g, t, more, hgap, hline, ?_, hmore⟩
  rw [h.deliver_eq, Node.deliverFull_of_walk hkey ?_ hwalk hgap.state]
  rw [placesTo_of_frame c f d.line hframe]
  omega

/-- A head record of the frame in progress forced out. -/
theorem Node.FullFor.forced (hkey : r.rank f.fCur ≤ keyRank f.fCur d.frame d.line) (hframe : r.frame = f.fCur)
    (hle : f.nNext ≤ r.line) (hend : r.line < c.aLines) (hp : r.line - f.nNext < n.ou.freePlaces) :
    ∃ g t x y more, Gapped f (r.line - f.nNext) n g t ∧ g.nNext = r.line ∧ n.deliver c d = (y, .accept)
      ∧ y = (t.releaseRecord g r .forced).accept c x d
      ∧ y.ou.queue = (t.releaseRecord g r .forced).ou.queue ++ more := by
  obtain ⟨g, t, hgap, hline, hforce⟩ :=
    Node.force_reaches (c := c) h.state h.length h.head hframe hle hend hp (k := 4)
      (by have := n.ou.freePlaces_le; omega)
  obtain ⟨-, -, htable, x, hx⟩ := t.releaseRecord_forced g r
  have hroom : (t.releaseRecord g r .forced).se.table.length < 16 := by
    rw [htable, List.length_erase_of_mem (by rw [hgap.table]; exact headRecord_mem h.head), hgap.table, h.length]
    exact Nat.lt_succ_self 15
  obtain ⟨more, hmore⟩ := (t.releaseRecord g r .forced).accept_queue c x d
  refine ⟨g, t, x, _, more, hgap, hline, ?_, rfl, hmore⟩
  rw [h.deliver_eq, Node.deliverFull_of_force hkey ?_ hforce hx hroom]
  rw [placesTo_of_frame c f r.line hframe]
  omega

/-- A delivery below the head, in the next frame. -/
theorem Node.FullFor.ownNext (hkey : keyRank f.fCur d.frame d.line < r.rank f.fCur) (hframe : d.frame = f.fCur + 1)
    (hend : d.line < c.aLines) (hp : (c.aLines - f.nNext) + d.line + 2 ≤ n.ou.freePlaces) (hj : n.nextJoined ≠ 0) :
    ∃ g t x y more, Gapped f (c.aLines - f.nNext) n g t ∧ Gapped (t.nextFrame g) d.line (t.advanceFrame g) x y
      ∧ x.nNext = d.line ∧ n.deliver c d = (y.ownLine c x d, .accept)
      ∧ (y.ownLine c x d).ou.queue = y.ou.queue ++ [.line (y.ownDesc x d)] ++ more := by
  have hfour := n.ou.freePlaces_le
  have hne : f.fCur ≠ d.frame := by rw [hframe]; exact (succ_ne_self _).symm
  obtain ⟨g, t, hgap, hwalk⟩ :=
    Node.walkTo_ends (c := c) (line := d.line) h.state hne (3 - (c.aLines - f.nNext)) (by omega)
  obtain ⟨hstate, hcur, hnext, -⟩ := hgap.ended_joined hj
  have hplaces := hgap.ended_places
  obtain ⟨x, y, hgap2, hline, hreach⟩ := Node.walkTo_reaches (c := c) hstate (hcur.trans hframe.symm)
    (by rw [hnext]; exact Nat.zero_le _) hend (by rw [hnext]; omega) (k := 3 - (c.aLines - f.nNext))
    (by rw [hnext]; omega)
  rw [hnext, Nat.sub_zero] at hgap2
  have hfuel : 3 - (c.aLines - f.nNext) + 1 + (c.aLines - f.nNext) = 4 := by omega
  rw [hfuel, hreach] at hwalk
  obtain ⟨more, hmore⟩ := y.ownLine_queue c x d
  refine ⟨g, t, x, y, more, hgap, hgap2, hline, ?_, hmore⟩
  rw [h.deliver_eq, Node.deliverFull_of_walk hkey ?_ hwalk hgap2.state]
  rw [placesTo_of_next c f d.line hne.symm]
  exact hp

/-- The force of a head record of the next frame goes through the end of the frame in progress. -/
theorem Node.FullFor.forceEnds (hframe : r.frame = f.fCur + 1)
    (hp : (c.aLines - f.nNext) + r.line + 2 ≤ n.ou.freePlaces) :
    ∃ g t, Gapped f (c.aLines - f.nNext) n g t
      ∧ n.force c 4 = (t.advanceFrame g).force c (3 - (c.aLines - f.nNext)) := by
  have hfour := n.ou.freePlaces_le
  have hne : r.frame ≠ f.fCur := by rw [hframe]; exact succ_ne_self _
  obtain ⟨g, t, hgap, hforce⟩ :=
    Node.force_ends (c := c) h.state h.length h.head hne (3 - (c.aLines - f.nNext)) (by omega)
  have hfuel : 3 - (c.aLines - f.nNext) + 1 + (c.aLines - f.nNext) = 4 := by omega
  rw [hfuel] at hforce
  exact ⟨g, t, hgap, hforce⟩

/-- A head record of the next frame forced out, every record of the table kept. -/
theorem Node.FullFor.forcedNext (hkey : r.rank f.fCur ≤ keyRank f.fCur d.frame d.line) (hframe : r.frame = f.fCur + 1)
    (hend : r.line < c.aLines) (hp : (c.aLines - f.nNext) + r.line + 2 ≤ n.ou.freePlaces) (hj : n.nextJoined ≠ 0)
    (hall : ∀ x ∈ n.se.table, ∃ p, PlaneSet.has n.rh.runtime.mask p = true ∧ (x.contribs.get p).isSome = true) :
    ∃ g t x y r2 z more, Gapped f (c.aLines - f.nNext) n g t
      ∧ Gapped (t.nextFrame g) r.line (t.advanceFrame g) x y ∧ x.nNext = r.line
      ∧ r2.contribs = keepPlanes n.rh.runtime.mask r.contribs ∧ n.deliver c d = (z, .accept)
      ∧ z.ou.queue = (y.releaseRecord x r2 .forced).ou.queue ++ more := by
  have hfour := n.ou.freePlaces_le
  have hne : r.frame ≠ f.fCur := by rw [hframe]; exact succ_ne_self _
  obtain ⟨g, t, hgap, hforce⟩ := h.forceEnds (c := c) hframe hp
  obtain ⟨hstate, hcur, hnext, htable⟩ := hgap.ended_joined hj
  have hplaces := hgap.ended_places
  rw [keptTable_of_all hall, List.map_map] at htable
  have hkeys (x : Record) :
      ((Record.evaluate n.nextJoined t.tb.e ∘ Record.withdraw n.rh.runtime.mask) x).frame = x.frame
      ∧ ((Record.evaluate n.nextJoined t.tb.e ∘ Record.withdraw n.rh.runtime.mask) x).line = x.line := by
    rw [Function.comp_apply, Record.evaluate_frame]
    exact ⟨rfl, rfl⟩
  have hlen : (t.advanceFrame g).se.table.length = 16 := by rw [htable, List.length_map, h.length]
  have hhead := headRecord_next hkeys h.head hframe
  rw [← htable, ← hcur] at hhead
  generalize hr2 : (Record.evaluate n.nextJoined t.tb.e ∘ Record.withdraw n.rh.runtime.mask) r = r2 at hhead
  have hframe2 : r2.frame = (t.nextFrame g).fCur := by rw [← hr2, (hkeys r).1, hframe, hcur]
  have hline2 : r2.line = r.line := by rw [← hr2, (hkeys r).2]
  have hcontribs : r2.contribs = keepPlanes n.rh.runtime.mask r.contribs := by
    rw [← hr2, Function.comp_apply, Record.evaluate_contribs]
    rfl
  obtain ⟨x, y, hgap2, hline, hreach⟩ := Node.force_reaches (c := c) hstate hlen hhead hframe2
    (by rw [hnext]; exact Nat.zero_le _) (by rw [hline2]; exact hend) (by rw [hline2, hnext]; omega)
    (k := 3 - (c.aLines - f.nNext)) (by rw [hline2, hnext]; omega)
  rw [hline2, hnext, Nat.sub_zero] at hgap2
  rw [hreach] at hforce
  obtain ⟨-, -, htable2, w, hw⟩ := y.releaseRecord_forced x r2
  have hroom : (y.releaseRecord x r2 .forced).se.table.length < 16 := by
    rw [htable2, List.length_erase_of_mem (by rw [hgap2.table]; exact headRecord_mem hhead), hgap2.table, hlen]
    exact Nat.lt_succ_self 15
  obtain ⟨more, hmore⟩ := (y.releaseRecord x r2 .forced).accept_queue c w d
  refine ⟨g, t, x, y, r2, _, more, hgap, hgap2, hline.trans hline2, hcontribs, ?_, hmore⟩
  rw [h.deliver_eq, Node.deliverFull_of_force hkey ?_ hforce hw hroom]
  rw [placesTo_of_next c f r.line hne]
  exact hp

/-- The end of the frame in progress withdraws a record, which ends the force. -/
theorem Node.FullFor.withdrawn (hkey : r.rank f.fCur ≤ keyRank f.fCur d.frame d.line) (hframe : r.frame = f.fCur + 1)
    (hp : (c.aLines - f.nNext) + r.line + 2 ≤ n.ou.freePlaces) (hj : n.nextJoined ≠ 0)
    (hsome : ∃ x ∈ n.se.table, ∀ p, PlaneSet.has n.rh.runtime.mask p = true → x.contribs.get p = none) :
    ∃ g t x, Gapped f (c.aLines - f.nNext) n g t
      ∧ n.deliver c d = ((t.advanceFrame g).accept c x d, .accept) := by
  have hne : r.frame ≠ f.fCur := by rw [hframe]; exact succ_ne_self _
  obtain ⟨g, t, hgap, hforce⟩ := h.forceEnds (c := c) hframe hp
  obtain ⟨hstate, -, -, htable⟩ := hgap.ended_joined hj
  have hroom : (t.advanceFrame g).se.table.length < 16 := by
    rw [htable, List.length_map, ← h.length]
    exact keptTable_of_some hsome
  rw [Node.force_of_room hroom] at hforce
  refine ⟨g, t, t.nextFrame g, hgap, ?_⟩
  rw [h.deliver_eq, Node.deliverFull_of_force hkey ?_ hforce hstate hroom]
  rw [placesTo_of_next c f r.line hne]
  exact hp

/-- With no plane to join the next frame, the engine judges the delivery afresh. -/
theorem Node.FullFor.afresh (hcase : (keyRank f.fCur d.frame d.line < r.rank f.fCur ∧ d.frame = f.fCur + 1
      ∧ d.line < c.aLines ∧ (c.aLines - f.nNext) + d.line + 2 ≤ n.ou.freePlaces)
      ∨ (r.rank f.fCur ≤ keyRank f.fCur d.frame d.line ∧ r.frame = f.fCur + 1 ∧ r.line < c.aLines
        ∧ (c.aLines - f.nNext) + r.line + 2 ≤ n.ou.freePlaces)) (hj : n.nextJoined = 0) :
    ∃ g t, Gapped f (c.aLines - f.nNext) n g t ∧ n.deliver c d = (t.advanceFrame g).deliver c d := by
  have hfour := n.ou.freePlaces_le
  obtain ⟨hkey, hframe, -, hp⟩ | ⟨hkey, hframe, -, hp⟩ := hcase
  · have hne : f.fCur ≠ d.frame := by rw [hframe]; exact (succ_ne_self _).symm
    obtain ⟨g, t, hgap, hwalk⟩ :=
      Node.walkTo_ends (c := c) (line := d.line) h.state hne (3 - (c.aLines - f.nNext)) (by omega)
    obtain ⟨hidle, -⟩ := hgap.ended_empty hj
    have hfuel : 3 - (c.aLines - f.nNext) + 1 + (c.aLines - f.nNext) = 4 := by omega
    rw [hfuel, Node.walkTo_of_idle hidle] at hwalk
    refine ⟨g, t, hgap, ?_⟩
    rw [h.deliver_eq, Node.deliverFull_of_walk_idle hkey ?_ hwalk hidle]
    rw [placesTo_of_next c f d.line hne.symm]
    exact hp
  · have hne : r.frame ≠ f.fCur := by rw [hframe]; exact succ_ne_self _
    obtain ⟨g, t, hgap, hforce⟩ := h.forceEnds (c := c) hframe hp
    obtain ⟨hidle, -⟩ := hgap.ended_empty hj
    rw [Node.force_of_idle hidle] at hforce
    refine ⟨g, t, hgap, ?_⟩
    rw [h.deliver_eq, Node.deliverFull_of_force_idle hkey ?_ hforce hidle]
    rw [placesTo_of_next c f r.line hne]
    exact hp

end clauses

/-- Settles O45: where the walk or the force comes to, by the keys, the frame and the planes that join the next. -/
theorem fullTable : Obligations.FullTable := by
  intro n c f r d hstate haccept hnew hlen hhead
  have hfull : n.FullFor f r d := ⟨hstate, haccept, hnew, hlen, hhead⟩
  refine ⟨fun hkey hp => ?_, fun hkey hp => ?_, fun frame line => placesTo_of_frame c f line,
    fun frame line => placesTo_of_next c f line, fun hkey hframe hend hp => ?_, fun hkey hframe hle hend hp => ?_,
    fun hkey hframe hend hp hj => ?_, fun hkey hframe hend hp hj => ⟨fun hall => ?_, fun hsome => ?_⟩,
    fun hcase hj => ?_⟩
  · rw [hfull.deliver_eq, Node.deliverFull_of_few_below hkey hp]
  · rw [hfull.deliver_eq, Node.deliverFull_of_few_above hkey hp]
  · obtain ⟨g, t, more, hgap, hline, hdeliver, hqueue⟩ := hfull.own hkey hframe hend hp
    obtain ⟨gaps, hgq, hgl, hgg⟩ := hgap.queue
    have hbuf := n.deliver_buf (c := c) (d := d) (by rw [hdeliver])
    refine ⟨gaps, t.ownDesc g d, more, by rw [hdeliver], ?_, hgl, hgg, hgap.fCur, hline, rfl, rfl,
      t.ownDesc_present g d, fun p hp => t.ownDesc_others g d hp, ?_, ?_, hbuf⟩
    · rw [hdeliver, hqueue, hgq]
    · rw [← hline]
      rfl
    · rw [hdeliver, Node.ownLine_forced, hgap.forced]
  · obtain ⟨g, t, x, y, more, hgap, hline, hdeliver, hy, hqueue⟩ := hfull.forced hkey hframe hle hend hp
    obtain ⟨gaps, hgq, hgl, hgg⟩ := hgap.queue
    obtain ⟨hrq, hrf, -, -⟩ := t.releaseRecord_forced g r
    have hbuf := n.deliver_buf (c := c) (d := d) (by rw [hdeliver])
    refine ⟨gaps, t.forcedDesc g r, more, by rw [hdeliver], ?_, hgl, hgg, hgap.fCur, hline, rfl,
      fun p k hk => Node.forcedDesc_present hk, ?_, hbuf⟩
    · rw [hdeliver, hqueue, hrq, hgq]
    · rw [hdeliver, hy, Node.accept_forced, hrf, hgap.forced]
  · obtain ⟨g, t, x, y, more, hgap, hgap2, hline, hdeliver, hqueue⟩ := hfull.ownNext hkey hframe hend hp hj
    obtain ⟨gaps, ended, heq, hgl, hgg, hef, hec⟩ := hgap.ended
    obtain ⟨next, hnq, hnl, hng⟩ := hgap2.queue
    have hcur := (hgap.ended_joined hj).2.1
    refine ⟨gaps, ended, next, y.ownDesc x d, more, by rw [hdeliver], ?_, hgl, hnl, hgg, hef, hec, ?_,
      hgap2.fCur.trans hcur, hline, rfl, rfl, y.ownDesc_present x d, fun p hp => y.ownDesc_others x d hp, ?_⟩
    · rw [hdeliver, hqueue, hnq, heq]
    · rw [← hcur]
      exact hng
    · rw [← hline]
      rfl
  · obtain ⟨g, t, x, y, r2, z, more, hgap, hgap2, hline, hcontribs, hdeliver, hqueue⟩ :=
      hfull.forcedNext hkey hframe hend hp hj hall
    obtain ⟨gaps, ended, heq, hgl, hgg, hef, hec⟩ := hgap.ended
    obtain ⟨next, hnq, hnl, hng⟩ := hgap2.queue
    have hcur := (hgap.ended_joined hj).2.1
    refine ⟨gaps, ended, next, y.forcedDesc x r2, more, by rw [hdeliver], ?_, hgl, hnl, hgg, hef, hec, ?_,
      hgap2.fCur.trans hcur, hline, rfl, fun p k hk hmask => Node.forcedDesc_present ?_⟩
    · rw [hdeliver, hqueue, (y.releaseRecord_forced x r2).1, hnq, heq]
    · rw [← hcur]
      exact hng
    · rw [hcontribs, keepPlanes, Four.get_build, if_pos hmask, hk]
  · obtain ⟨g, t, x, hgap, hdeliver⟩ := hfull.withdrawn hkey hframe hp hj hsome
    obtain ⟨gaps, ended, heq, hgl, -, hef, hec⟩ := hgap.ended
    obtain ⟨more, hmore⟩ := (t.advanceFrame g).accept_queue c x d
    refine ⟨gaps, ended, more, by rw [hdeliver], ?_, hgl, hef, hec, ?_⟩
    · rw [hdeliver, hmore, heq]
    · rw [hdeliver, Node.accept_forced, hgap.ended_forced]
  · obtain ⟨g, t, hgap, hdeliver⟩ := hfull.afresh hcase hj
    obtain ⟨gaps, ended, heq, hgl, hgg, hef, hec⟩ := hgap.ended
    obtain ⟨hidle, htable, hresync, hpending⟩ := hgap.ended_empty hj
    exact ⟨t.advanceFrame g, gaps, ended, hdeliver, hidle, htable, heq, hgl, hgg, hef, hec, hresync, hpending⟩

end Sys2Proof.Machine
end

section
/-! SUPPORT. RECORD_DEADLINE (R118) and the releases that it allows. -/

namespace Sys2Proof.Machine

/-! ## Gap lines that the engine takes of itself -/

section engine
variable {c : Settled} {n : Node} {f : FrameCtx} {r : Record}

/-- As far as a releasable head record's line goes, gap lines. -/
theorem Node.runEngine_gaps (j : Nat) (hf : n.se.state = .run f) (hr : headRecord f.fCur n.se.table = some r)
    (hs : r.state ≠ .opened) (hle : f.nNext + j ≤ r.line) (hend : r.line < c.aLines) (hp : j ≤ n.ou.freePlaces) :
    ∃ g t, Gapped f j n g t ∧ n.runEngine c = t.runEngine c := by
  induction j generalizing n f with
  | zero => exact ⟨f, n, .zero hf, rfl⟩
  | succ j ih =>
    have hplaces := n.releaseGap_places f
    obtain ⟨g, t, hgap, hrun⟩ := ih (n := n.releaseGap f) (f := f.took (n.emptyLine f .gap)) (n.releaseGap_state f)
      (by rw [n.releaseGap_table f]; exact hr) (show f.nNext + 1 + j ≤ r.line by omega) (by omega)
    have hstep : n.engineStep c = some (n.releaseGap f) := by
      rw [Node.engineStep_of_run (by omega) hf]
      exact Node.releaseStep_of_later (by omega) hr hs (.inr (by omega))
    exact ⟨g, t, hgap.gap, (Node.runEngine_of_some hstep).trans hrun⟩

/-- A releasable head record of the frame in progress goes out behind its gap lines. -/
theorem Node.runEngine_reaches (hf : n.se.state = .run f) (hr : headRecord f.fCur n.se.table = some r)
    (hs : r.state ≠ .opened) (hframe : r.frame = f.fCur) (hle : f.nNext ≤ r.line) (hend : r.line < c.aLines)
    (hp : r.line - f.nNext < n.ou.freePlaces) :
    ∃ g t, Gapped f (r.line - f.nNext) n g t ∧ g.nNext = r.line
      ∧ n.runEngine c = (t.releaseRecord g r r.cause).runEngine c := by
  obtain ⟨g, t, hgap, hrun⟩ := Node.runEngine_gaps (c := c) (r.line - f.nNext) hf hr hs (by omega) hend hp.le
  have hplaces := hgap.places
  have hline : g.nNext = r.line := by rw [hgap.nNext]; omega
  have hstep : t.engineStep c = some (t.releaseRecord g r r.cause) := by
    rw [Node.engineStep_of_run (by omega) hgap.state]
    exact Node.releaseStep_of_here (by omega) (by rw [hgap.fCur, hgap.table]; exact hr) hs
      (by rw [hgap.fCur]; exact hframe) hline.symm
  exact ⟨g, t, hgap, hline, hrun.trans (Node.runEngine_of_some hstep)⟩

theorem Node.runEngine_of_opened (hf : n.se.state = .run f) (hr : headRecord f.fCur n.se.table = some r)
    (hend : f.nNext < c.aLines) (hs : r.state = .opened) : n.runEngine c = n := by
  by_cases hp : n.ou.freePlaces = 0
  · exact Node.runEngine_of_full hp
  · exact Node.runEngine_of_none ((Node.engineStep_of_run hp hf).trans (Node.releaseStep_of_opened hend hr hs))

/-- With no record, an engine within its frame takes no step. -/
theorem Node.runEngine_of_empty (hf : n.se.state = .run f) (htable : n.se.table = []) (hend : f.nNext < c.aLines) :
    n.runEngine c = n := by
  by_cases hp : n.ou.freePlaces = 0
  · exact Node.runEngine_of_full hp
  · refine Node.runEngine_of_none ((Node.engineStep_of_run hp hf).trans (Node.releaseStep_of_none hend ?_))
    rw [htable]
    rfl

end engine

/-! ## A record's deadline -/

/-- The node with the records of a key that have passed their deadline EXPIRED. -/
def Node.keyExpired (frame : BitVec 8) (line : Nat) (n : Node) : Node :=
  { n with se := { n.se with table := n.se.table.map (expireAt frame line n.tb.e) } }

theorem expireAt_eq (frame : BitVec 8) (line : Nat) (e : Word32) :
    expireAt frame line e = fun x =>
      if x.frame = frame ∧ x.line = line ∧ x.state = .opened ∧ passed e x.deadline = true
      then { x with state := .expired } else x := by
  funext x
  simp only [expireAt, Record.isAt, Record.expires, Bool.and_eq_true, beq_iff_eq, and_assoc]

theorem yields_recordDeadline {s : State} {c : Settled} (hw : s.node.WorksBase c) {r : Record}
    (hmem : r ∈ s.node.se.table) (hs : r.state = .opened) (hpassed : passed s.node.tb.e r.deadline = true)
    {P : Node → Prop} :
    Yields (.recordDeadline r.frame r.line) s P ↔
      P (((s.node.keyExpired r.frame r.line).runEngine c).settleRefs) := by
  have hany : s.node.se.table.any (fun x => x.isAt r.frame r.line && x.expires s.node.tb.e) = true :=
    List.any_eq_true.2 ⟨r, hmem, by simp [Record.isAt, Record.expires, hs, hpassed]⟩
  rw [yields_iff_after, Node.after_recordDeadline, Node.awake_of_high hw.1, Node.asBase_of hw.2, Node.recordDeadline,
    if_pos hany]
  rfl

/-- Settles O46: the head record decides which steps follow; the one record of a table is spelled out. -/
theorem recordDeadline : Obligations.RecordDeadline := by
  refine ⟨fun s c r n hw hmem hs hpassed hn => ?_, fun s c f r hw hf htable hs hpassed => ?_⟩
  · have hexpired : s.node.keyExpired r.frame r.line = n := by
      rw [hn, Node.keyExpired, expireAt_eq]
    have hou : n.ou = s.node.ou := by rw [hn]
    have hstate : n.se.state = s.node.se.state := by rw [hn]
    rw [yields_recordDeadline hw hmem hs hpassed, hexpired]
    refine ⟨rfl, fun f h hf hh hend => ⟨fun hopened => ?_, fun hexp hframe hle hlt hp => ?_⟩⟩
    · rw [yields_recordDeadline hw hmem hs hpassed, hexpired,
        Node.runEngine_of_opened (hstate.trans hf) hh hend hopened]
      refine ⟨hou, rfl, ?_⟩
      rw [hn]
      rfl
    · rw [yields_recordDeadline hw hmem hs hpassed, hexpired]
      obtain ⟨g, t, hgap, hline, hrun⟩ := Node.runEngine_reaches (hstate.trans hf) hh (by rw [hexp]; nofun) hframe hle hlt
        (by rw [hou]; exact hp)
      obtain ⟨gaps, hgq, hgl, hgg⟩ := hgap.queue
      obtain ⟨more, hmore⟩ := (Node.runEngine_frame c (t.releaseRecord g h h.cause)).queue
      rw [hou] at hgq
      rw [hrun, Record.cause_of_expired hexp] at *
      refine ⟨gaps, t.lineDesc g h.contribs h.timecode h.skew .expired, more, ?_, hgl, hgg, hgap.fCur, hline, rfl,
        fun p k hk => (Four.get_build _ _).trans (planeOut_of_some hk)⟩
      rw [Node.settleRefs_ou, hmore, ← hgq]
      rfl
  · have hmem : r ∈ s.node.se.table := by rw [htable]; exact List.mem_singleton_self r
    have htable' : (s.node.keyExpired r.frame r.line).se.table = [{ r with state := .expired }] := by
      have hr : expireAt r.frame r.line s.node.tb.e r = { r with state := .expired } := by
        rw [expireAt_eq]
        exact if_pos ⟨rfl, rfl, hs, hpassed⟩
      simp only [Node.keyExpired, htable, List.map_cons, List.map_nil, hr]
    refine ⟨fun hframe hline hend hqueue => ?_, fun hqueue => ?_⟩
    · rw [yields_recordDeadline hw hmem hs hpassed]
      have hplaces : (s.node.keyExpired r.frame r.line).ou.freePlaces ≠ 0 := by
        show 4 - s.node.ou.queue.length ≠ 0
        omega
      have hhead : headRecord f.fCur (s.node.keyExpired r.frame r.line).se.table = some { r with state := .expired } := by
        rw [htable']
        rfl
      have hstep := Node.engineStep_of_run (c := c) hplaces (f := f) hf
      rw [Node.releaseStep_of_here (by omega) hhead nofun hframe hline] at hstep
      have hrun : (s.node.keyExpired r.frame r.line).runEngine c =
          ((s.node.keyExpired r.frame r.line).releaseRecord f { r with state := .expired } .expired).runEngine c :=
        Node.runEngine_of_some hstep
      have htable2 : ((s.node.keyExpired r.frame r.line).releaseRecord f { r with state := .expired } .expired).se.table
          = [] := by
        show (s.node.keyExpired r.frame r.line).se.table.erase { r with state := .expired } = []
        rw [htable']
        simp
      rw [hrun, Node.runEngine_of_empty (f := f.took _) rfl htable2 hend]
      exact ⟨rfl, htable2, rfl⟩
    · rw [yields_recordDeadline hw hmem hs hpassed, Node.runEngine_of_full (by
        show 4 - s.node.ou.queue.length = 0
        omega)]
      refine ⟨rfl, ?_, rfl⟩
      rw [← htable']
      rfl

end Sys2Proof.Machine
end

section
/-! SUPPORT. The output port: words taken, records ended, stalls (R140 to R147), and the words shown (R200). -/

namespace Sys2Proof.Machine

/-! ## With no word to take -/

section noWord
variable {ou : Ou} (h : ou.abort ≠ none ∨ ou.queue = [])
include h

theorem Ou.presented_not_word (d : Descriptor) (k : Nat) : ou.presented ≠ .word d k := by
  rcases habort : ou.abort with _ | w
  · rw [Ou.presented_of_empty habort (h.resolve_left fun hne => hne habort)]
    nofun
  · rw [Ou.presented_of_abort habort]
    nofun

theorem Ou.takeWord_of_no_word : ou.takeWord = ou := by
  unfold Ou.takeWord
  split
  · next hw => exact absurd hw (Ou.presented_not_word h _ _)
  · rfl

theorem Ou.atLastWord_of_no_word : ou.atLastWord = false := by
  unfold Ou.atLastWord
  split
  · next hw => exact absurd hw (Ou.presented_not_word h _ _)
  · rfl

theorem Ou.stall_of_no_word : ou.stall = ou := by
  unfold Ou.stall
  split
  · next hw => exact absurd hw (Ou.presented_not_word h _ _)
  · rfl

end noWord

theorem Ou.takeAbort_of_none {ou : Ou} (h : ou.abort = none) : ou.takeAbort = ou := by
  simp only [Ou.takeAbort, h]

theorem Ou.takeAbort_of_some {ou : Ou} {w : AbortWord} (h : ou.abort = some w) :
    ou.takeAbort = { ou with abort := none, abortsOut := Counter.bump ou.abortsOut } := by
  simp only [Ou.takeAbort, h]

/-! ## With a record at the head -/

section word
variable {ou : Ou} {d : Descriptor} {rest : List Descriptor} (habort : ou.abort = none) (hqueue : ou.queue = d :: rest)
include habort hqueue

theorem Ou.presented_of_head : ou.presented = .word d ou.taken := by
  simp only [Ou.presented, habort, hqueue]

theorem Ou.takeWord_of_inner (h : ou.taken + 1 < d.words) : ou.takeWord = { ou with taken := ou.taken + 1 } := by
  simp only [Ou.takeWord, Ou.presented_of_head habort hqueue, h, if_true]

theorem Ou.takeWord_of_last (h : d.words ≤ ou.taken + 1) : ou.takeWord = ou := by
  simp only [Ou.takeWord, Ou.presented_of_head habort hqueue, Nat.not_lt.2 h, if_false]

theorem Ou.atLastWord_of_head : ou.atLastWord = decide (d.words ≤ ou.taken + 1) := by
  simp only [Ou.atLastWord, Ou.presented_of_head habort hqueue]

theorem Ou.stall_of_head :
    ou.stall = { ou with
      stalled := true
      stalledRecords := if ou.stalled = true then ou.stalledRecords else Counter.bump ou.stalledRecords } := by
  unfold Ou.stall
  rw [Ou.presented_of_head habort hqueue]
  rcases h : ou.stalled with _ | _
  · simp
  · simp [← h]

end word

section endRecord
variable {ou : Ou} {rest : List Descriptor}

theorem Ou.endRecord_of_line {x : LineDesc} (h : ou.queue = .line x :: rest) :
    ou.endRecord = { ou with queue := rest, taken := 0, stalled := false, linesOut := Counter.bump ou.linesOut } := by
  simp only [Ou.endRecord, h]

theorem Ou.endRecord_of_frameEnd {x : FrameEndDesc} (h : ou.queue = .frameEnd x :: rest) :
    ou.endRecord =
      { ou with queue := rest, taken := 0, stalled := false, framesOut := Counter.bump ou.framesOut } := by
  simp only [Ou.endRecord, h]

theorem Ou.endRecord_of_head {d : Descriptor} (h : ou.queue = d :: rest) :
    ou.endRecord.queue = rest ∧ ou.endRecord.taken = 0 ∧ ou.endRecord.stalled = false := by
  cases d with
  | line x =>
    rw [Ou.endRecord_of_line h]
    exact ⟨rfl, rfl, rfl⟩
  | frameEnd x =>
    rw [Ou.endRecord_of_frameEnd h]
    exact ⟨rfl, rfl, rfl⟩

end endRecord

/-! ## The commands of the port -/

section works
variable {s : State} {c : Settled} (hc : s.node.baseCfg = some c) {P : Node → Prop}
include hc

theorem yields_abortTaken :
    Yields .abortTaken s P ↔ P (Node.seeReady true { s.node with ou := s.node.ou.takeAbort }) := by
  rw [yields_iff_after, Node.after_abortTaken, Node.asBase_of hc]

variable (hrst : s.node.rstLow = false)
include hrst

theorem yields_wordTaken :
    Yields .wordTaken s P ↔ P (Node.seeReady true { s.node with ou := s.node.ou.takeWord }) := by
  rw [yields_iff_after, Node.after_wordTaken, Node.awake_of_high hrst, Node.asBase_of hc]

theorem yields_recordEnd : Yields .recordEnd s P ↔ P ((s.node.recordEnd c).seeReady true) := by
  rw [yields_iff_after, Node.after_recordEnd, Node.awake_of_high hrst, Node.asBase_of hc]

theorem yields_stall : Yields .stall s P ↔ P (Node.seeReady false { s.node with ou := s.node.ou.stall }) := by
  rw [yields_iff_after, Node.after_stall, Node.awake_of_high hrst, Node.asBase_of hc]

end works

section recordEnd
variable {n : Node} {c : Settled}

/-- The node whose head record has left the queue, before the engine takes the freed place. -/
def Node.recordLeft (n : Node) : Node := { n with ou := n.ou.endRecord }

theorem Node.recordEnd_of_last (h : n.ou.atLastWord = true) :
    n.recordEnd c = (n.recordLeft.runEngine c).settleRefs := if_pos h

theorem Node.recordEnd_of_not_last (h : n.ou.atLastWord = false) : n.recordEnd c = n := if_neg (by simp [h])

/-- What the end of a record and the steps that follow it leave. -/
theorem Node.recordEnd_frame : (n.recordLeft.runEngine c).settleRefs = { n with
    ou := (n.recordLeft.runEngine c).settleRefs.ou, se := (n.recordLeft.runEngine c).settleRefs.se
    ss := (n.recordLeft.runEngine c).settleRefs.ss
    rh := { n.rh with notices := (n.recordLeft.runEngine c).settleRefs.rh.notices } } := by
  have hframe := (Node.runEngine_frame c n.recordLeft).frame
  rw [Node.settleRefs, hframe]
  rfl

theorem Node.recordEnd_buf (b : Nat) :
    (n.recordLeft.runEngine c).settleRefs.ss.buf b =
      (n.ss.buf b).recount (refCount (n.recordLeft.runEngine c).settleRefs.se
        (n.recordLeft.runEngine c).settleRefs.ou b) := by
  have hss : (n.recordLeft.runEngine c).ss = n.ss := by
    rw [(Node.runEngine_frame c n.recordLeft).frame]
    rfl
  rw [Node.settleRefs_buf, hss]
  rfl

end recordEnd

theorem Buf.recount_of_referenced {x : Buf} {k : Nat} (h : x.state = .referenced k) (j : Nat) :
    x.recount j = if j = 0 then Buf.free else ⟨.referenced j, x.bytes⟩ := by
  simp only [Buf.recount, h]

/-- Settles O47: what is presented decides which command acts. -/
theorem outputPort : Obligations.OutputPort := by
  refine ⟨fun ou d => rfl, fun s c hc hrst => ⟨fun hno => ⟨fun i hi => ?_, ?_⟩, fun d rest habort hqueue =>
    ⟨fun hlast => ?_, fun hinner => ?_, fun m x hlast hm hx => ?_⟩, fun habort => ?_⟩,
    fun s c hc => ⟨fun habort hqueue => ?_, fun w hw => ⟨?_, ?_⟩, fun d rest hrst habort hqueue =>
      ⟨fun hinner => ?_, fun hlast => ?_, ?_⟩⟩⟩
  · obtain rfl | hi := List.mem_cons.1 hi
    · rw [yields_wordTaken hc hrst, Ou.takeWord_of_no_word hno]
      rfl
    · obtain rfl := List.mem_singleton.1 hi
      rw [yields_recordEnd hc hrst, Node.recordEnd_of_not_last (Ou.atLastWord_of_no_word hno)]
      rfl
  · rw [yields_stall hc hrst, Ou.stall_of_no_word hno]
    rfl
  · rw [yields_wordTaken hc hrst, Ou.takeWord_of_last habort hqueue hlast]
    rfl
  · rw [yields_recordEnd hc hrst, Node.recordEnd_of_not_last]
    · rfl
    · rw [Ou.atLastWord_of_head habort hqueue]
      exact decide_eq_false (Nat.not_le.2 hinner)
  · have hm' : m = s.node.recordLeft := by
      rw [hm, Node.recordLeft]
      cases d with
      | line x => rw [Ou.endRecord_of_line hqueue]
      | frameEnd x => rw [Ou.endRecord_of_frameEnd hqueue]
    have hx' : s.node.recordEnd c = x := by
      rw [Node.recordEnd_of_last, hx, hm']
      rw [Ou.atLastWord_of_head habort hqueue]
      exact decide_eq_true hlast
    have hpins : x.pins = s.node.pins := by rw [hx, hm', Node.recordEnd_frame]
    rw [yields_recordEnd hc hrst, hx']
    refine ⟨by rw [← hpins]; rfl, ?_⟩
    have hframe := s.node.recordEnd_frame (c := c)
    rw [← hm', ← hx] at hframe
    rw [Node.seeReady, hframe]
  · rw [yields_abortTaken hc, Ou.takeAbort_of_none habort]
    rfl
  · rw [Node.port_of_base hc, Ou.presented_of_empty habort hqueue]
    rfl
  · rw [Node.port_of_base hc, Ou.presented_of_abort hw]
    rfl
  · rw [yields_abortTaken hc, Ou.takeAbort_of_some hw]
    exact ⟨rfl, rfl⟩
  · rw [yields_wordTaken hc hrst, Ou.takeWord_of_inner habort hqueue hinner]
    exact ⟨rfl, rfl⟩
  · have hend : s.node.ou.atLastWord = true := by
      rw [Ou.atLastWord_of_head habort hqueue]
      exact decide_eq_true hlast.le
    rw [yields_recordEnd hc hrst, Node.recordEnd_of_last hend]
    have hframe := Node.runEngine_frame c s.node.recordLeft
    obtain ⟨hleft, htaken, hstalled⟩ := Ou.endRecord_of_head hqueue
    have hport := hframe.port
    obtain ⟨more, hmore⟩ := hframe.queue
    have hidle (hi : s.node.se.state = .idle) : s.node.recordLeft.runEngine c = s.node.recordLeft :=
      Node.runEngine_of_idle hi
    have hqueue' : (s.node.recordLeft.runEngine c).ou.queue = rest ++ more := by
      rw [hmore, ← hleft]
      rfl
    refine ⟨⟨more, hqueue'⟩, fun hi => ?_, (congrArg Ou.taken hport :).trans htaken,
      (congrArg Ou.stalled hport :).trans hstalled, rfl, fun b hb => ?_, fun b k hk => ?_, fun hi => ?_, fun x hx => ?_,
      fun x hx => ?_⟩
    · rw [hidle hi]
      exact hleft
    · exact (Node.recordEnd_buf b).trans (Buf.recount_of_not_referenced hb _)
    · exact (Node.recordEnd_buf b).trans (Buf.recount_of_referenced hk _)
    · rw [hidle hi]
      rfl
    · subst hx
      have hend := Ou.endRecord_of_line hqueue
      exact ⟨(congrArg Ou.linesOut hport :).trans (congrArg Ou.linesOut hend :),
        (congrArg Ou.framesOut hport :).trans (congrArg Ou.framesOut hend :)⟩
    · subst hx
      have hend := Ou.endRecord_of_frameEnd hqueue
      exact ⟨(congrArg Ou.framesOut hport :).trans (congrArg Ou.framesOut hend :),
        (congrArg Ou.linesOut hport :).trans (congrArg Ou.linesOut hend :)⟩
  · rw [yields_stall hc hrst, Ou.stall_of_head habort hqueue]
    exact ⟨rfl, rfl, rfl, rfl⟩

/-! ## The words of a record -/

theorem Descriptor.pctl_first (d : Descriptor) (w : List Byte × Bool) : d.pctl 0 w = 1 := rfl

theorem Descriptor.pctl_inner {d : Descriptor} {k : Nat} {bs : List Byte} (hk : k ≠ 0) (hend : k + 1 ≠ d.words) :
    d.pctl k (bs, false) = 3 := by
  simp [Descriptor.pctl, hk, hend]

section port
variable {n : Node} {c : Settled} {d : Descriptor} {rest : List Descriptor} (hc : n.baseCfg = some c)
  (habort : n.ou.abort = none) (hqueue : n.ou.queue = d :: rest) {k : Nat} {bs : List Byte}
include hc habort hqueue

theorem Node.port_of_word (hk : n.ou.taken = k) :
    n.port = some (BitVec.ofNat 4 (d.pctl k (d.word n.ss k)), packWord (d.word n.ss k).1) := by
  rw [Node.port_of_base hc, Ou.presented_of_head habort hqueue, hk]
  rfl

theorem Node.port_of_first (hk : n.ou.taken = 0) (hw : d.word n.ss 0 = (bs, false)) : n.port = some (1, packWord bs) := by
  rw [Node.port_of_word hc habort hqueue hk, hw]
  rfl

/-- A word that begins no record, ends none and ends no plane. -/
theorem Node.port_of_inner (hk : n.ou.taken = k) (hw : d.word n.ss k = (bs, false)) (hpos : k ≠ 0)
    (hend : k + 1 ≠ d.words) : n.port = some (3, packWord bs) := by
  rw [Node.port_of_word hc habort hqueue hk, hw, Descriptor.pctl_inner hpos hend]
  rfl

/-- The last word of a record without a payload. -/
theorem Node.port_of_last (hk : n.ou.taken = k) (hw : d.word n.ss k = ([0, 0, 0, 0], false)) (hpos : k ≠ 0)
    (hend : k + 1 = d.words) : n.port = some (11, 0) := by
  have hpctl : d.pctl k ([0, 0, 0, 0], false) = 11 := by simp [Descriptor.pctl, hpos, hend]
  rw [Node.port_of_word hc habort hqueue hk, hw, hpctl]
  rfl

end port

theorem length_planes_words (q : Four PlaneOut) :
    (q.toList.map PlaneOut.words).sum =
      (q.p0.length + 3) / 4 + (q.p1.length + 3) / 4 + (q.p2.length + 3) / 4 + (q.p3.length + 3) / 4 := by
  simp only [Four.toList, List.map_cons, List.map_nil, List.sum_cons, List.sum_nil, PlaneOut.words]
  omega

theorem LineDesc.words_eq (d : LineDesc) :
    Descriptor.words (.line d) = 8 + (d.planes.p0.length + 3) / 4 + (d.planes.p1.length + 3) / 4
      + (d.planes.p2.length + 3) / 4 + (d.planes.p3.length + 3) / 4 := by
  show 8 + (d.planes.toList.map PlaneOut.words).sum = _
  rw [length_planes_words]
  omega

theorem LineDesc.total_eq (d : LineDesc) :
    d.total = d.planes.p0.length + d.planes.p1.length + d.planes.p2.length + d.planes.p3.length := by
  simp only [LineDesc.total, Four.toList, List.map_cons, List.map_nil, List.sum_cons, List.sum_nil]
  omega

/-- The payload word of a plane, found behind the words of the planes before it. -/
theorem planesWord_of_plane (ss : Ss) {l : List PlaneOut} {p : Nat} {q : PlaneOut} (hq : l[p]? = some q) {j : Nat}
    (hj : j < q.words) :
    planesWord ss l (((l.take p).map PlaneOut.words).sum + j) = payloadWord (ss.planeBytes q) j := by
  induction l generalizing p with
  | nil => simp at hq
  | cons x l ih =>
    cases p with
    | zero =>
      obtain rfl : x = q := by simpa using hq
      simp [planesWord, hj]
    | succ p =>
      have hrest : l[p]? = some q := by simpa using hq
      have hsum : ((((x :: l).take (p + 1)).map PlaneOut.words).sum + j)
          = x.words + (((l.take p).map PlaneOut.words).sum + j) := by
        simp only [List.take_succ_cons, List.map_cons, List.sum_cons]
        omega
      rw [hsum, planesWord, if_neg (by omega), Nat.add_sub_cancel_left]
      exact ih hrest

theorem Four.toList_getElem {α : Type} (q : Four α) (p : Fin 4) : q.toList[p.val]? = some (q.get p) := by
  fin_cases p <;> rfl

/-- A payload word that a plane's buffer holds. -/
theorem payloadWord_of_held {bs : List Byte} {len j : Nat} (hlen : len ≤ bs.length) (hj : j < (len + 3) / 4) :
    payloadWord (bs.take len) j = (((bs.take len).drop (4 * j)).take 4, decide (j + 1 = (len + 3) / 4))
    ∧ (((bs.take len).drop (4 * j)).take 4).length = min 4 (len - 4 * j) := by
  have htake : (bs.take len).length = len := by rw [List.length_take]; omega
  refine ⟨?_, by rw [List.length_take, List.length_drop, htake]⟩
  unfold payloadWord
  rw [htake]
  congr 1
  exact decide_eq_decide.2 (by omega)

/-- A plane with a payload, PRESENT or REPEATED. -/
theorem PlaneOut.of_payload {q : PlaneOut} {b len : Nat} (h : q = .present b len ∨ q = .repeated b len) (ss : Ss) :
    q.words = (len + 3) / 4 ∧ ss.planeBytes q = (ss.buf b).bytes.take len := by
  obtain rfl | rfl := h <;> exact ⟨rfl, rfl⟩

/-- Settles O48: word by word. -/
theorem outputWords : Obligations.OutputWords := by
  refine fun n c rest hc habort => ⟨fun d hqueue => ?_, fun d hqueue => ?_⟩
  · have hinner {k : Nat} {bs : List Byte} := Node.port_of_inner (k := k) (bs := bs) hc habort hqueue
    have hsix : Descriptor.words (.frameEnd d) = 6 := rfl
    refine ⟨hsix, fun h => ?_, fun h => hinner h rfl (by decide) (by omega), fun h => hinner h rfl (by decide) (by omega),
      fun h => hinner h rfl (by decide) (by omega), fun h => hinner h rfl (by decide) (by omega),
      fun h => Node.port_of_last hc habort hqueue h rfl (by decide) hsix.symm⟩
    have hcause : u8 d.cause.code = [if d.cause = .normal then 0 else 1] := by cases d.cause <;> rfl
    have hfirst := Node.port_of_first hc habort hqueue h (bs := [2, d.frame] ++ u8 d.cause.code ++ [0]) rfl
    rwa [hcause] at hfirst
  · have hinner {k : Nat} {bs : List Byte} := Node.port_of_inner (k := k) (bs := bs) hc habort hqueue
    have hwords := d.words_eq
    have hzero : packWord [0, 0, 0, 0] = 0 := by decide
    refine ⟨hwords, fun h => Node.port_of_first hc habort hqueue h rfl, fun h => ?_,
      fun h => hinner h rfl (by decide) (by omega), fun h => hinner h rfl (by decide) (by omega),
      fun h => ⟨fun htc => ?_, fun t htc => ?_⟩, fun h => ?_, fun h => ?_, fun h => ?_,
      fun p b len j k hplane hlen hj htaken hk => ?_⟩
    · refine hinner h ?_ (by decide) (by omega)
      show (u8 d.statuses ++ u8 d.cause.code ++ flagByte d.timecode.isSome ++ [0], false) = _
      rw [List.append_assoc _ (flagByte _)]
      cases d.timecode <;> rfl
    · rw [← hzero]
      refine hinner h ?_ (by decide) (by omega)
      show (timecodeWord d.timecode, false) = _
      rw [htc]
      rfl
    · refine hinner h ?_ (by decide) (by omega)
      show (timecodeWord d.timecode, false) = _
      rw [htc]
      rfl
    · rw [← d.total_eq]
      exact hinner h rfl (by decide) (by omega)
    · rw [← hzero]
      exact hinner h rfl (by decide) (by omega)
    · by_cases hend : Descriptor.words (.line d) = 8
      · rw [if_pos hend]
        exact Node.port_of_last hc habort hqueue h rfl (by decide) hend.symm
      · rw [if_neg hend, ← hzero]
        exact hinner h rfl (by decide) (by omega)
    · obtain ⟨hpw, hpb⟩ := PlaneOut.of_payload hplane n.ss
      obtain ⟨hword, hwl⟩ := payloadWord_of_held hlen hj
      have hfound : Descriptor.word n.ss (.line d) n.ou.taken =
          ((((n.ss.buf b).bytes.take len).drop (4 * j)).take 4, decide (j + 1 = (len + 3) / 4)) := by
        have hplanes := planesWord_of_plane n.ss (d.planes.toList_getElem p) (j := j) (by rw [hpw]; exact hj)
        rw [hpb, hword] at hplanes
        rw [Descriptor.word, if_neg (by omega), ← hplanes, htaken]
        congr 1
        omega
      rw [Node.port_of_word hc habort hqueue rfl, hfound, Descriptor.pctl, if_neg (by omega)]
      dsimp only
      rw [hwl, ← hk]
      by_cases hend : n.ou.taken + 1 = Descriptor.words (.line d)
      · rw [if_pos hend, if_pos hend]
      · rw [if_neg hend, if_neg hend]
        by_cases hlast : j + 1 = (len + 3) / 4
        · rw [if_pos hlast, if_pos (decide_eq_true hlast)]
        · rw [if_neg hlast, if_neg (by simpa using hlast)]
          rfl

end Sys2Proof.Machine
end

section
/-! SUPPORT. The class in an ANNOUNCE's key (R170): two bits, which a class above 3 does not fit. -/

namespace Sys2Proof.Machine

/-- A running base of class 4, which no run reaches, with an ANNOUNCE pending. -/
def fourthClassNode : Node :=
  let n := Node.powerOn ⟨.base, 0, 0, 0⟩ ⟨Four.const false, true, []⟩ 0
  { n with
    tb := { n.tb with gen := some ⟨0, 0, 0, none⟩ }
    du := { n.du with cls := 4 }
    mh := { n.mh with announce := true }
    rh := { n.rh with lifecycle := .running } }

/-- The key that it offers is class 0's: the fifth class does not fit the key's two bits. -/
theorem fourthClassNode_key : fourthClassNode.announceOffer.map Offer.key = [0x100] := by decide

/-- Refutes O49: the key field of an ANNOUNCE holds two bits of the class, and the statement's number all of it; they
differ at a node of class 4. The clauses on the start of a message are not what fails. -/
theorem not_messageStart : ¬ Obligations.MessageStart := by
  intro h
  obtain ⟨-, -, -, hoffers⟩ := h
  obtain ⟨-, hannounce, -⟩ := hoffers fourthClassNode
  have hoffer := hannounce ⟨0, 0, 0, none⟩ rfl rfl rfl rfl rfl
  have hkey := congrArg (List.map Offer.key) hoffer
  rw [fourthClassNode_key] at hkey
  exact absurd hkey (by decide)

end Sys2Proof.Machine
end

section
/-! SUPPORT. The state that follows the counts (R163, R166), the ends of SI's waits (R163 to R165, R167) and the end of an
own message (R157, R158, R161). -/

namespace Sys2Proof.Machine

/-! ## Which notices are pending -/

theorem raiseBit_getLsbD_iff {set : BitVec 16} {j k : Nat} (hj : j < 16) :
    (raiseBit set j).getLsbD k = true ↔ set.getLsbD k = true ∨ k = j := by
  constructor
  · intro h
    simp only [raiseBit, BitVec.getLsbD_or, BitVec.getLsbD_shiftLeft, BitVec.getLsbD_one, Bool.or_eq_true,
      Bool.and_eq_true, decide_eq_true_eq] at h
    obtain h | ⟨⟨_, hle⟩, _, hzero⟩ := h
    · exact .inl h
    · have hlow : ¬k < j := by simpa using hle
      exact .inr (by omega)
  · rintro (h | rfl)
    · exact raiseBit_keeps _ _ _ h
    · exact raiseBit_self _ _ hj

theorem Source.num_lt (src : Source) : src.num < 16 := by
  cases src <;> decide

theorem Node.raise_isPending_iff (n : Node) (src : Source) (k : Nat) :
    (n.raise src).rh.isPending k = true ↔ n.rh.isPending k = true ∨ k = src.num :=
  raiseBit_getLsbD_iff src.num_lt

theorem Node.raiseIf_isPending_iff (n : Node) (c : Bool) (src : Source) (k : Nat) :
    (n.raiseIf c src).rh.isPending k = true ↔ n.rh.isPending k = true ∨ k = src.num ∧ c = true := by
  cases c
  · simp [Node.raiseIf]
  · simpa [Node.raiseIf] using n.raise_isPending_iff src k

theorem Node.raiseIf_frame (n : Node) (c : Bool) (src : Source) :
    n.raiseIf c src = { n with rh := { n.rh with notices := (n.raiseIf c src).rh.notices } } := by
  cases c <;> rfl

/-! ## The state that follows the counts -/

/-- From `n` to `t` SI's state has followed the counts, with its notices. -/
structure CountsFollowed (n t : Node) : Prop where
  frame : t = { n with
    si := { n.si with
      state := t.si.state, guardWait := t.si.guardWait, recovery := t.si.recovery, recoveryRun := t.si.recoveryRun }
    rh := { n.rh with notices := t.rh.notices } }
  follows : n.si.state = .active ∨ n.si.state = .guarded → t.si.state = n.si.countState
  stays : n.si.state ≠ .active → n.si.state ≠ .guarded → t.si.state = n.si.state
  run : t.si.state = n.si.state ∨ t.si.state ≠ .silenced →
    t.si.recovery = n.si.recovery ∧ t.si.recoveryRun = n.si.recoveryRun
  pending : ∀ k, t.rh.isPending k = true ↔ n.rh.isPending k = true ∨ k = 12 ∧ t.si.state ≠ n.si.state
    ∨ k = 15 ∧ t.si.state = .silenced ∧ n.si.state ≠ .silenced

theorem Node.followCounts_of_same {n : Node}
    (h : ¬((n.si.state = .active ∨ n.si.state = .guarded) ∧ n.si.countState ≠ n.si.state)) : n.followCounts = n := by
  unfold Node.followCounts
  exact if_neg (by simpa only [Bool.and_eq_true, Bool.or_eq_true, decide_eq_true_eq, bne_iff_ne] using h)

theorem Node.followCounts_of_move {n : Node} (hon : n.si.state = .active ∨ n.si.state = .guarded)
    (hmove : n.si.countState ≠ n.si.state) :
    n.followCounts = (Node.raise { n with si := n.si.moveTo n.si.countState } .serviceState).raiseIf
      (n.si.countState == .silenced) .silenced := by
  unfold Node.followCounts
  exact if_pos (by
    simpa only [Bool.and_eq_true, Bool.or_eq_true, decide_eq_true_eq, bne_iff_ne] using And.intro hon hmove)

theorem CountsFollowed.refl {n : Node} (h : n.si.state = .active ∨ n.si.state = .guarded → n.si.state = n.si.countState) :
    CountsFollowed n n :=
  ⟨rfl, h, fun _ _ => rfl, fun _ => ⟨rfl, rfl⟩, fun k => by simp⟩

theorem Node.followCounts_spec (n : Node) : CountsFollowed n n.followCounts := by
  by_cases h : (n.si.state = .active ∨ n.si.state = .guarded) ∧ n.si.countState ≠ n.si.state
  · obtain ⟨hon, hmove⟩ := h
    have hsi : n.followCounts.si = n.si.moveTo n.si.countState := by
      rw [Node.followCounts_of_move hon hmove, Node.raiseIf_si, Node.raise_si]
    have hstate : n.followCounts.si.state = n.si.countState := congrArg Si.state hsi
    refine ⟨?_, fun _ => hstate, fun ha hg => absurd hon (not_or_intro ha hg), fun hkept => ?_, fun k => ?_⟩
    · refine n.followCounts_frame.trans ?_
      rw [hsi]
      rfl
    · have hnot : n.si.countState ≠ .silenced := by
        rw [hstate] at hkept
        exact hkept.resolve_left hmove
      simp [hsi, Si.moveTo, hnot]
    · have hawake : n.si.state ≠ .silenced := by obtain h | h := hon <;> simp [h]
      rw [hstate, Node.followCounts_of_move hon hmove, Node.raiseIf_isPending_iff, Node.raise_isPending_iff, or_assoc,
        beq_iff_eq]
      simp [Source.num, hmove, hawake, Rh.isPending]
  · rw [Node.followCounts_of_same h]
    exact .refl fun hon => by_contra fun hne => h ⟨hon, Ne.symm hne⟩

theorem Si.countState_eq (si : Si) : si.countState =
    if 192 ≤ si.tec then .silenced else if 96 ≤ si.tec ∨ 96 ≤ si.recCount then .guarded else .active := by
  simp [Si.countState]

/-! ## The ends of SI's waits -/

theorem Node.emptyPlaces_of_none {n : Node} (h : n.si.onCarrier = none) :
    n.withdrawAnnounce.emptyProbe.mh = { n.mh with announce := false, probe := none } := by
  rw [Node.withdrawAnnounce_of_none h]
  simp [Node.emptyProbe, Node.started, h]

theorem Node.setListenOnly_mh_of_none {n : Node} (h : n.si.onCarrier = none) (v : Bool) :
    (n.setListenOnly v).mh =
      if (v || n.rh.straps.node == 15) = true then { n.mh with announce := false, probe := none } else n.mh := by
  simp only [Node.setListenOnly]
  split
  · exact Node.emptyPlaces_of_none h
  · rfl

theorem Node.isIdle_noCarrier {n : Node} (h : n.isIdle = true) : n.si.onCarrier = none := by
  simp only [Node.isIdle, Bool.and_eq_true, Option.isNone_iff_eq_none] at h
  exact h.1.2

theorem Node.recover_of_due {n : Node} (hstate : n.si.state = .silenced) (hrun : 48 ≤ n.si.recovery) :
    n.recover = Node.raise { n with si := { n.si with
      state := .active, tec := 0, recCount := 0, recovery := 0, recoveryRun := 0
      phase := .idle, spaces := 0, rxStamp := none, found := none } } .serviceState :=
  if_pos (by simpa using And.intro hstate hrun)

/-- Settles O52, each wait by the command that ends it. -/
theorem carrierWaits : Obligations.CarrierWaits := by
  intro s hlow
  refine ⟨fun hwait => ?_, fun hstate hrun => ?_, fun hstate hspaces => ?_, fun v hidle hv => ?_⟩
  · rw [yields_iff_after, Node.after_guardedWaitEnd, Node.awake_of_high hlow, Si.endGuard, if_pos hwait]
  · rw [yields_iff_after, Node.after_silencedRecovery, Node.awake_of_high hlow, Node.recover_of_due hstate hrun]
    exact ⟨rfl, Node.raise_pending _ .serviceState, rfl⟩
  · have hdue : s.node.si.endIntegration = { s.node.si with state := .active, phase := .idle, spaces := 0 } :=
      if_pos (by simpa using And.intro hstate hspaces)
    rw [yields_iff_after, Node.after_integrationEnd, Node.awake_of_high hlow, hdue]
  · have hmh := Node.setListenOnly_mh_of_none (Node.isIdle_noCarrier hidle) v
    rw [yields_iff_after, Node.after_listenOnlyEffect, Node.awake_of_high hlow, Node.atIdlePoint_of_idle hidle hv]
    have hsi := congrArg Node.si (s.node.setListenOnly_eq v)
    refine ⟨hsi, congrArg Node.rh (s.node.setListenOnly_eq v), fun hset => ?_, fun hclear => ?_, ?_⟩
    · rw [hsi] at hset
      exact hmh.trans (if_pos hset)
    · rw [hsi] at hclear
      exact hmh.trans (if_neg fun hset => Bool.false_ne_true (hclear.symm.trans hset))
    · rw [s.node.setListenOnly_eq v]

/-! ## The report of an own message's end -/

theorem Node.reportDu_frame (p : Place) (sent : Bool) (stamp : Word32) (n : Node) :
    n.reportDu p sent stamp = { n with du := (n.reportDu p sent stamp).du } := by
  cases p <;> rfl

theorem Node.report_frame (p : Place) (sent : Bool) (stamp : Word32) (n : Node) :
    n.report p sent stamp = { n with
      du := (n.reportDu p sent stamp).du, mh := n.mh.ended p sent
      rh := { n.rh with notices := (n.report p sent stamp).rh.notices } } := by
  unfold Node.report
  rw [Node.raiseIf_frame, Node.reportDu_frame]

theorem Node.report_isPending_iff (p : Place) (sent : Bool) (stamp : Word32) (n : Node) (k : Nat) :
    (n.report p sent stamp).rh.isPending k = true ↔ n.rh.isPending k = true ∨ k = 14 ∧ ∃ i, p = .slot i := by
  have hslot : p.isSlot = true ↔ ∃ i, p = .slot i := by cases p <;> simp [Place.isSlot]
  unfold Node.report
  rw [Node.raiseIf_isPending_iff, Node.reportDu_frame, hslot]
  rfl

theorem Node.reportDu_of_not_probe {p : Place} (h : p ≠ .probe) (sent : Bool) (stamp : Word32) (n : Node) :
    n.reportDu p sent stamp = n := by
  cases p
  case probe => exact absurd rfl h
  all_goals rfl

theorem Node.reportDu_sent_probe {n : Node} {x : BitVec 4} (h : n.mh.probe = some x) (stamp : Word32) :
    (n.reportDu .probe true stamp).du = { n.du with probe := some ⟨x, stamp, 4⟩ } := by
  simp [Node.reportDu, Du.recordProbe, h]

theorem Node.reportDu_sent_frame (p : Place) (stamp : Word32) (n : Node) :
    (n.reportDu p true stamp).du = { n.du with probe := (n.reportDu p true stamp).du.probe } := by
  cases p
  case probe =>
    simp only [Node.reportDu, Du.recordProbe, if_true]
    split <;> rfl
  all_goals rfl

theorem Node.reportDu_failed_frame (p : Place) (stamp : Word32) (n : Node) :
    (n.reportDu p false stamp).du = { n.du with probeAbandoned := (n.reportDu p false stamp).du.probeAbandoned } := by
  cases p <;> rfl

/-! ## Arbitration lost -/

theorem Node.loseArbitration_eq {n : Node} {o : OnCarrier} (ho : n.si.onCarrier = some o) (hclean : o.failed = false) :
    n.loseArbitration = { n with
      si := n.si.becomeReceiver o.stamp
      mh := { n.mh.giveUpOffer o.place with announce := n.mh.announce && n.du.state.isSelf } } := by
  have hkept : (n.mh.giveUpOffer o.place).announce = n.mh.announce := by
    unfold Mh.giveUpOffer
    split
    · split <;> rfl
    · rfl
  simp only [Node.loseArbitration, ho, hclean, Bool.false_eq_true, if_false]
  split
  · next hself => rw [hself, Bool.and_true, ← hkept]
  · next hself => rw [Node.withdrawAnnounce_of_none rfl, eq_false_of_ne_true hself, Bool.and_false]

theorem Mh.giveUpOffer_frame (p : Place) (mh : Mh) : mh.giveUpOffer p = { mh with slots := (mh.giveUpOffer p).slots } := by
  unfold Mh.giveUpOffer
  split
  · split <;> rfl
  · rfl

theorem Mh.giveUpOffer_of_sending {mh : Mh} {i : Nat} {m : TxMail} (h : (mh.slot i).state = .sending m) :
    mh.giveUpOffer (.slot i) = mh.setSlot i (.pending m) := by
  simp [Mh.giveUpOffer, h]

theorem Mh.giveUpOffer_of_internal {p : Place} (h : ∀ i, p ≠ .slot i) (mh : Mh) : mh.giveUpOffer p = mh := by
  cases p
  case slot i => exact absurd rfl (h i)
  all_goals rfl

end Sys2Proof.Machine
end

section
/-! SUPPORT. The three ends of an own message: ARBITRATION_LOST, MESSAGE_SENT and MESSAGE_FAILED (R157, R158, R161). -/

namespace Sys2Proof.Machine

/-! ## A message sent -/

/-- SI at the end of a sent message, before its state follows the counts (R158). -/
def Si.completed (c : Settled) (si : Si) : Si :=
  { si with
    onCarrier := none, tec := si.tec - 1, sentOk := Counter.bump si.sentOk
    phase := .interspace, spaces := 0, bitPos := c.sampleTicks, found := none }

/-- The block at the end of a sent message, its state following the counts, and its wait begun if GUARDED. -/
def Node.completed (c : Settled) (n : Node) : Node :=
  let t := Node.followCounts { n with si := n.si.completed c }
  { t with si := t.si.afterOwn }

section completed
variable (c : Settled) (n : Node)

/-- The state at the end of a sent message. -/
def Node.stateSent : SiState := (Node.followCounts { n with si := n.si.completed c }).si.state

theorem Node.completed_spec :
    CountsFollowed { n with si := n.si.completed c } (Node.followCounts { n with si := n.si.completed c }) :=
  Node.followCounts_spec _

theorem Node.completed_si : (n.completed c).si = { n.si with
    onCarrier := none, sentOk := Counter.bump n.si.sentOk, tec := n.si.tec - 1, state := n.stateSent c
    phase := .interspace, spaces := 0, bitPos := c.sampleTicks, found := none
    guardWait := if n.stateSent c = .guarded then some 8 else none
    recovery := (n.completed c).si.recovery, recoveryRun := (n.completed c).si.recoveryRun } :=
  (congrArg (fun t : Node => t.si.afterOwn) (n.completed_spec c).frame :)

theorem Node.completed_frame : n.completed c = { n with
    si := (n.completed c).si, rh := { n.rh with notices := (n.completed c).rh.notices } } := by
  unfold Node.completed
  simp only []
  rw [Node.followCounts_frame]

theorem Node.completed_mh : (n.completed c).mh = n.mh := (congrArg Node.mh (n.completed_frame c) :)

theorem Node.completed_du : (n.completed c).du = n.du := (congrArg Node.du (n.completed_frame c) :)

theorem Node.completed_pending (k : Nat) : (n.completed c).rh.isPending k = true ↔ n.rh.isPending k = true
    ∨ k = 12 ∧ n.stateSent c ≠ n.si.state ∨ k = 15 ∧ n.stateSent c = .silenced ∧ n.si.state ≠ .silenced :=
  (n.completed_spec c).pending k

end completed

section sent
variable {n : Node} {o : OnCarrier} (c : Settled) (ho : n.si.onCarrier = some o) (hclean : o.failed = false)
include ho hclean

theorem Node.messageSent_eq : n.messageSent c = (n.completed c).report o.place true o.stamp := by
  simp only [Node.messageSent, ho, hclean, Bool.false_eq_true, if_false]
  rfl

theorem Node.messageSent_si : (n.messageSent c).si = (n.completed c).si := by
  rw [Node.messageSent_eq c ho hclean, Node.report_frame]

theorem Node.messageSent_mh : (n.messageSent c).mh = n.mh.ended o.place true := by
  rw [Node.messageSent_eq c ho hclean, Node.report_frame, Node.completed_mh]

theorem Node.messageSent_du_of_not_probe (h : o.place ≠ .probe) : (n.messageSent c).du = n.du := by
  rw [Node.messageSent_eq c ho hclean, Node.report_frame, Node.reportDu_of_not_probe h, Node.completed_du]

theorem Node.messageSent_du_of_probe {x : BitVec 4} (h : o.place = .probe) (hx : n.mh.probe = some x) :
    (n.messageSent c).du = { n.du with probe := some ⟨x, o.stamp, 4⟩ } := by
  have hx' : (n.completed c).mh.probe = some x := (congrArg Mh.probe (n.completed_mh c)).trans hx
  rw [Node.messageSent_eq c ho hclean, Node.report_frame, h, Node.reportDu_sent_probe hx', Node.completed_du]

theorem Node.messageSent_pending (k : Nat) : (n.messageSent c).rh.isPending k = true ↔ n.rh.isPending k = true
    ∨ k = 12 ∧ n.stateSent c ≠ n.si.state ∨ k = 14 ∧ (∃ i, o.place = .slot i)
    ∨ k = 15 ∧ n.stateSent c = .silenced ∧ n.si.state ≠ .silenced := by
  rw [Node.messageSent_eq c ho hclean, Node.report_isPending_iff, Node.completed_pending]
  tauto

theorem Node.messageSent_frame : n.messageSent c = { n with
    si := (n.completed c).si, du := { n.du with probe := (n.messageSent c).du.probe }
    mh := (n.messageSent c).mh, rh := { n.rh with notices := (n.messageSent c).rh.notices } } := by
  have hdu : (n.messageSent c).du = { n.du with probe := (n.messageSent c).du.probe } := by
    rw [Node.messageSent_eq c ho hclean, Node.report_frame, Node.reportDu_sent_frame, Node.completed_du]
  rw [← hdu, Node.messageSent_eq c ho hclean, Node.report_frame, (n.completed_frame c)]

end sent

/-! ## A message that failed -/

/-- SI at the end of a message that failed (R161). -/
def Si.abandoned (o : OnCarrier) (si : Si) : Si :=
  Si.afterOwn { si with
    onCarrier := none, sendFailed := Counter.bump si.sendFailed, found := none
    phase := .recovering, spaces := if o.failed then si.spaces else 0 }

section failed
variable {n : Node} {o : OnCarrier} (ho : n.si.onCarrier = some o)
include ho

theorem Node.messageFailed_eq :
    n.messageFailed = Node.report o.place false o.stamp { n with si := n.si.abandoned o } := by
  simp only [Node.messageFailed, ho]
  rfl

theorem Node.messageFailed_si : n.messageFailed.si = n.si.abandoned o := by
  rw [Node.messageFailed_eq ho, Node.report_frame]

theorem Node.messageFailed_mh : n.messageFailed.mh = n.mh.ended o.place false := by
  rw [Node.messageFailed_eq ho, Node.report_frame]

theorem Node.messageFailed_du_of_not_probe (h : o.place ≠ .probe) : n.messageFailed.du = n.du := by
  rw [Node.messageFailed_eq ho, Node.report_frame, Node.reportDu_of_not_probe h]

theorem Node.messageFailed_du_of_probe (h : o.place = .probe) :
    n.messageFailed.du = { n.du with probeAbandoned := Counter.bump n.du.probeAbandoned } := by
  rw [Node.messageFailed_eq ho, Node.report_frame, h]
  rfl

theorem Node.messageFailed_pending (k : Nat) :
    n.messageFailed.rh.isPending k = true ↔ n.rh.isPending k = true ∨ k = 14 ∧ ∃ i, o.place = .slot i := by
  rw [Node.messageFailed_eq ho]
  exact Node.report_isPending_iff _ _ _ _ k

theorem Node.messageFailed_frame : n.messageFailed = { n with
    si := n.si.abandoned o, du := { n.du with probeAbandoned := n.messageFailed.du.probeAbandoned }
    mh := n.messageFailed.mh, rh := { n.rh with notices := n.messageFailed.rh.notices } } := by
  have hdu : n.messageFailed.du = { n.du with probeAbandoned := n.messageFailed.du.probeAbandoned } := by
    rw [Node.messageFailed_eq ho, Node.report_frame, Node.reportDu_failed_frame]
  rw [← hdu, Node.messageFailed_eq ho, Node.report_frame]

end failed

/-! ## The statement -/

section ends
variable {n : Node} {o : OnCarrier} (ho : n.si.onCarrier = some o)
include ho

theorem Node.loseArbitration_slots (hclean : o.failed = false) :
    n.loseArbitration.mh.slots = (n.mh.giveUpOffer o.place).slots :=
  congrArg (fun t : Node => t.mh.slots) (Node.loseArbitration_eq ho hclean)

theorem Node.loseArbitration_frame (hclean : o.failed = false) :
    n.loseArbitration = { n with
      si := n.si.becomeReceiver o.stamp
      mh := { n.mh with
        announce := n.mh.announce && n.du.state.isSelf, slots := n.loseArbitration.mh.slots } } := by
  rw [Node.loseArbitration_eq ho hclean, n.mh.giveUpOffer_frame]

end ends

/-- Settles O50: the end of an own message, each way, as the report to its place and SI's part make it. -/
theorem ownMessageEnds : Obligations.OwnMessageEnds := by
  intro s c o ⟨hlow, hc⟩ ho
  refine ⟨fun hclean => ?_, fun hclean => ?_, ?_⟩
  · rw [yields_iff_after, Node.after_arbitrationLost, Node.awake_of_high hlow]
    have hframe := Node.loseArbitration_frame ho hclean
    have hsi := congrArg Node.si hframe
    have hslots := Node.loseArbitration_slots ho hclean
    generalize s.node.loseArbitration = t at *
    refine ⟨by rw [hsi]; rfl, by rw [hsi]; rfl, by rw [hsi]; rfl, by rw [hsi]; rfl, by rw [hsi]; rfl, by rw [hsi]; rfl,
      by rw [hsi]; rfl, by rw [hframe], by rw [hframe], by rw [hsi]; rfl, fun i m hplace hm => ?_, fun hno => ?_, ?_⟩
    · rw [hslots, hplace, Mh.giveUpOffer_of_sending hm]
    · rw [hslots, Mh.giveUpOffer_of_internal hno]
    · rw [hframe]
      rfl
  · rw [yields_iff_after, Node.after_messageSent, Node.awake_of_high hlow, Node.withCfg_of hc]
    have hsi := (Node.messageSent_si c ho hclean).trans (s.node.completed_si c)
    have hmh := Node.messageSent_mh c ho hclean
    have hdu := Node.messageSent_du_of_not_probe c ho hclean
    have hpend := Node.messageSent_pending c ho hclean
    have hstate : (s.node.messageSent c).si.state = s.node.stateSent c := by rw [hsi]
    refine ⟨by rw [hsi], by rw [hsi], by rw [hsi], by rw [hsi], by rw [hsi], by rw [hsi], fun hon => ⟨?_, ?_⟩,
      fun hactive hguarded => ?_, ?_, fun h => ?_, fun x h hx => ?_, fun h => ?_, fun h => ?_, fun i h => ?_,
      fun k => ?_, fun hkept => ?_, ?_⟩
    · rw [hstate, hsi]
      exact ((s.node.completed_spec c).follows hon).trans (Si.countState_eq _)
    · rw [hstate]
      exact fun hmove => (hpend 12).2 (.inr (.inl ⟨rfl, hmove⟩))
    · rw [hstate]
      exact (s.node.completed_spec c).stays hactive hguarded
    · rw [hstate, hsi]
    · exact ⟨by rw [hmh, h]; rfl, hdu (by rw [h]; nofun)⟩
    · exact ⟨by rw [hmh, h]; rfl, Node.messageSent_du_of_probe c ho hclean h hx⟩
    · exact ⟨by rw [hmh, h]; rfl, hdu (by rw [h]; nofun)⟩
    · exact ⟨by rw [hmh, h]; rfl, hdu (by rw [h]; nofun)⟩
    · exact ⟨by rw [hmh, h]; rfl, (hpend 14).2 (.inr (.inr (.inl ⟨rfl, i, h⟩))), hdu (by rw [h]; nofun)⟩
    · rw [hstate]
      exact hpend k
    · rw [hstate] at hkept
      rw [hsi]
      exact (s.node.completed_spec c).run hkept
    · refine (Node.messageSent_frame c ho hclean).trans ?_
      rw [hsi, s.node.completed_si c]
  · rw [yields_iff_after, Node.after_messageFailed, Node.awake_of_high hlow]
    have hsi := Node.messageFailed_si ho
    have hmh := Node.messageFailed_mh ho
    have hdu := Node.messageFailed_du_of_not_probe ho
    have hpend := Node.messageFailed_pending ho
    refine ⟨by rw [hsi]; rfl, by rw [hsi]; rfl, by rw [hsi]; rfl, by rw [hsi]; rfl, by rw [hsi]; rfl, by rw [hsi]; rfl,
      by rw [hsi]; rfl, fun h => ?_, fun h => ?_, fun h => ?_, fun h => ?_, fun i h => ?_, hpend, ?_⟩
    · exact ⟨by rw [hmh, h]; rfl, hdu (by rw [h]; nofun)⟩
    · exact ⟨by rw [hmh, h]; rfl, Node.messageFailed_du_of_probe ho h⟩
    · exact ⟨by rw [hmh, h]; rfl, hdu (by rw [h]; nofun)⟩
    · exact ⟨by rw [hmh, h]; rfl, hdu (by rw [h]; nofun)⟩
    · exact ⟨by rw [hmh, h]; rfl, (hpend 14).2 (.inr ⟨rfl, i, h⟩), hdu (by rw [h]; nofun)⟩
    · refine (Node.messageFailed_frame ho).trans ?_
      rw [hsi]
      rfl

end Sys2Proof.Machine
end

section
/-! SUPPORT. SERVICE_ERROR: its counts, the message voided and the burst (R159, R160, R162, R163). -/

namespace Sys2Proof.Machine

/-! ## SI after an error -/

section afterError
variable (c : Settled) (k : CarrierError) (wasActive : Bool) (si : Si)

theorem Si.afterError_of_ended (h : si.bitEnded c = true) :
    si.afterError c k wasActive = (si.voidMessage c k wasActive).newBit := if_pos h

theorem Si.afterError_of_whole (h : si.bitEnded c = false) : si.afterError c k wasActive = si.voidMessage c k wasActive :=
  if_neg (by simp [h])

/-- The bit that an error begins changes the bit clock's fields alone. -/
theorem Si.afterError_frame : si.afterError c k wasActive = { si.voidMessage c k wasActive with
    bitNo := (si.afterError c k wasActive).bitNo, resynced := (si.afterError c k wasActive).resynced
    burst := (si.afterError c k wasActive).burst, burstWait := (si.afterError c k wasActive).burstWait
    tx := (si.afterError c k wasActive).tx, acked := (si.afterError c k wasActive).acked } := by
  unfold Si.afterError
  split <;> rfl



theorem Si.afterError_recCount : (si.afterError c k wasActive).recCount = si.recCount := by
  rw [Si.afterError_frame]; rfl



theorem Si.afterError_echoErrors : (si.afterError c k wasActive).echoErrors = si.echoErrors := by
  rw [Si.afterError_frame]; rfl

theorem Si.afterError_symbolErrors : (si.afterError c k wasActive).symbolErrors = si.symbolErrors := by
  rw [Si.afterError_frame]; rfl

theorem Si.afterError_checkErrors : (si.afterError c k wasActive).checkErrors = si.checkErrors := by
  rw [Si.afterError_frame]; rfl

theorem Si.afterError_noAckErrors : (si.afterError c k wasActive).noAckErrors = si.noAckErrors := by
  rw [Si.afterError_frame]; rfl

theorem Si.afterError_onCarrier :
    (si.afterError c k wasActive).onCarrier = si.onCarrier.map fun o => { o with failed := true } := by
  rw [Si.afterError_frame]; rfl

theorem Si.afterError_wait : (si.afterError c k wasActive).phase = .recovering
    ∧ (si.afterError c k wasActive).spaces = 0 ∧ (si.afterError c k wasActive).rxStamp = none := by
  rw [Si.afterError_frame]; exact ⟨rfl, rfl, rfl⟩

theorem Si.afterError_bitPos :
    (si.afterError c k wasActive).bitPos = if si.found = none then c.sampleTicks else si.bitPos := by
  rw [Si.afterError_frame]
  cases h : si.found <;> simp [Si.voidMessage, h]

theorem Si.afterError_tx_of_whole (h : si.bitEnded c = false) : (si.afterError c k wasActive).tx = si.tx := by
  rw [Si.afterError_of_whole c k wasActive si h]
  rfl

/-- A bit that begins after an error is a space but in a burst: the own message has failed, and none is received. -/
theorem Si.nextLevel_of_void {si : Si} (hphase : si.phase = .recovering) (hfailed : ∀ o, si.onCarrier = some o → o.failed = true)
    (hburst : si.burst = 0 ∨ si.burstWait ≠ 0) : si.nextLevel = true := by
  have hquiet : ¬((si.burst != 0 && si.burstWait == 0) = true) := by
    rw [Bool.and_eq_true, bne_iff_ne, beq_iff_eq]
    rintro ⟨hb, hw⟩
    exact hburst.elim hb (· hw)
  refine (if_neg hquiet).trans ?_
  rcases ho : si.onCarrier with _ | o
  · simp [Si.marksSlot, hphase]
  · simp [hfailed o ho]

theorem Si.nextLevel_of_burst {si : Si} (hburst : si.burst ≠ 0) (hwait : si.burstWait = 0) : si.nextLevel = false := by
  simp [Si.nextLevel, hburst, hwait]

theorem Si.voidMessage_failed (o : OnCarrier) (h : (si.voidMessage c k wasActive).onCarrier = some o) :
    o.failed = true := by
  obtain ⟨o', _, rfl⟩ := Option.map_eq_some_iff.1 h
  rfl

/-- SI sends a burst after the error (R160). -/
def Si.bursts (wasActive : Bool) (si : Si) : Prop := wasActive = true ∧ si.listenOnly = false ∧ si.state ≠ .silenced

variable {wasActive si}

theorem Si.voidMessage_burst (h : si.bursts wasActive) : (si.voidMessage c k wasActive).burst = 8
    ∧ (si.voidMessage c k wasActive).burstWait = if k = .check then 3 else 1 := by
  obtain ⟨hactive, hlisten, hstate⟩ := h
  simp [Si.voidMessage, hactive, hlisten, hstate]

theorem Si.voidMessage_no_burst (h : ¬si.bursts wasActive) : (si.voidMessage c k wasActive).burst = si.burst := by
  refine if_neg ?_
  simpa [Si.bursts, and_assoc] using h

theorem Si.afterError_burst (h : si.bursts wasActive) : (si.afterError c k wasActive).burst = 8
    ∧ (si.afterError c k wasActive).burstWait = (if k = .check then 3 else 1) - (if si.bitEnded c = true then 1 else 0)
    ∧ (si.bitEnded c = true → (si.afterError c k wasActive).tx = decide (k = .check)) := by
  obtain ⟨hburst, hwait⟩ := Si.voidMessage_burst c k h
  by_cases hended : si.bitEnded c = true
  · have hpos : (si.voidMessage c k wasActive).burstWait ≠ 0 := by rw [hwait]; split <;> decide
    have hkept : (si.voidMessage c k wasActive).newBit.burst = 8 := (if_neg hpos).trans hburst
    have hless : (si.voidMessage c k wasActive).newBit.burstWait = (if k = .check then 3 else 1) - 1 :=
      congrArg (· - 1) hwait
    rw [Si.afterError_of_ended c k wasActive si hended, if_pos hended]
    refine ⟨hkept, hless, fun _ => ?_⟩
    by_cases hk : k = .check
    · rw [decide_eq_true hk]
      rw [if_pos hk] at hless
      exact Si.nextLevel_of_void rfl (si.voidMessage_failed c k wasActive) (.inr (hless.trans_ne (by decide)))
    · rw [decide_eq_false hk]
      rw [if_neg hk] at hless
      exact Si.nextLevel_of_burst (hkept.trans_ne (by decide)) hless
  · rw [Si.afterError_of_whole c k wasActive si (eq_false_of_ne_true hended), if_neg hended]
    exact ⟨hburst, hwait, fun h => absurd h hended⟩

theorem Si.afterError_no_burst (hburst : si.burst = 0) (h : ¬si.bursts wasActive) :
    (si.afterError c k wasActive).burst = 0
    ∧ (si.bitEnded c = true → (si.afterError c k wasActive).tx = true) := by
  have hvoid := (Si.voidMessage_no_burst c k h).trans hburst
  by_cases hended : si.bitEnded c = true
  · have hnone : (si.voidMessage c k wasActive).newBit.burst = 0 := by
      simp [Si.newBit, hvoid]
    rw [Si.afterError_of_ended c k wasActive si hended]
    exact ⟨hnone, fun _ => Si.nextLevel_of_void rfl (si.voidMessage_failed c k wasActive) (.inl hnone)⟩
  · rw [Si.afterError_of_whole c k wasActive si (eq_false_of_ne_true hended)]
    exact ⟨hvoid, fun h => absurd h hended⟩

end afterError

/-! ## The counts after an error -/

/-- The block with an error counted and its state following the counts. -/
def Node.errorCounted (k : CarrierError) (n : Node) : Node := Node.followCounts { n with si := n.si.countError k }

section counted
variable (c : Settled) (k : CarrierError) (n : Node)

theorem Node.errorCounted_spec : CountsFollowed { n with si := n.si.countError k } (n.errorCounted k) :=
  Node.followCounts_spec _

theorem Node.errorCounted_si : (n.errorCounted k).si = { n.si.countError k with
    state := (n.errorCounted k).si.state, guardWait := (n.errorCounted k).si.guardWait
    recovery := (n.errorCounted k).si.recovery, recoveryRun := (n.errorCounted k).si.recoveryRun } :=
  (congrArg Node.si (n.errorCounted_spec k).frame :)

theorem Node.errorCounted_frame : n.errorCounted k = { n with
    si := (n.errorCounted k).si, rh := { n.rh with notices := (n.errorCounted k).rh.notices } } :=
  Node.followCounts_frame _

theorem Node.errorCounted_bitEnded : (n.errorCounted k).si.bitEnded c = n.si.bitEnded c := by
  rw [Node.errorCounted_si]
  rfl

theorem Node.serviceError_eq {n : Node} {k : CarrierError} (h : n.si.canErr k = true) :
    n.serviceError c k =
      { n.errorCounted k with si := (n.errorCounted k).si.afterError c k (n.si.state == .active) } :=
  if_pos h

theorem Node.serviceError_si {n : Node} {k : CarrierError} (h : n.si.canErr k = true) :
    (n.serviceError c k).si = (n.errorCounted k).si.afterError c k (n.si.state == .active) := by
  rw [Node.serviceError_eq c h]

theorem Node.serviceError_frame {n : Node} {k : CarrierError} (h : n.si.canErr k = true) : n.serviceError c k = { n with
    si := (n.serviceError c k).si, rh := { n.rh with notices := (n.serviceError c k).rh.notices } } := by
  rw [Node.serviceError_eq c h, Node.errorCounted_frame]

theorem Node.serviceError_pending {n : Node} {k : CarrierError} (h : n.si.canErr k = true) (j : Nat) :
    (n.serviceError c k).rh.isPending j = true ↔ n.rh.isPending j = true
      ∨ j = 12 ∧ (n.errorCounted k).si.state ≠ n.si.state
      ∨ j = 15 ∧ (n.errorCounted k).si.state = .silenced ∧ n.si.state ≠ .silenced := by
  rw [Node.serviceError_eq c h]
  exact (n.errorCounted_spec k).pending j

end counted

theorem Si.countError_tec (k : CarrierError) (si : Si) : (si.countError k).tec =
    if si.onCarrier = none ∨ (k = .noAck ∧ 96 ≤ si.tec) then si.tec else min 255 (si.tec + 4) := by
  rcases ho : si.onCarrier with _ | o <;> simp [Si.countError, tecAfter, ho]

theorem Si.countError_recCount (k : CarrierError) (si : Si) : (si.countError k).recCount =
    if si.onCarrier ≠ none ∨ si.state = .silenced then si.recCount else min 255 (si.recCount + 1) := by
  rcases ho : si.onCarrier with _ | o <;> simp [Si.countError, ho]

theorem Si.canErr_on {si : Si} {k : CarrierError} (h : si.canErr k = true) :
    si.state = .active ∨ si.state = .guarded ∨ si.state = .silenced := by
  simp only [Si.canErr, Bool.and_eq_true] at h
  obtain ⟨⟨hon, _⟩, _⟩ := h
  cases hstate : si.state
  case off | integrating => rw [hstate] at hon; exact absurd hon (by decide)
  case active => exact .inl rfl
  case guarded => exact .inr (.inl rfl)
  case silenced => exact .inr (.inr rfl)

/-- Settles O51: the counts, then what an error leaves of SI. -/
theorem serviceError : Obligations.ServiceError := by
  intro s c k ⟨hlow, hc⟩ hcan
  rw [yields_iff_after, Node.after_serviceError, Node.awake_of_high hlow, Node.withCfg_of hc]
  have hsi := Node.serviceError_si c hcan
  have hcounted := s.node.errorCounted_si k
  have hended := s.node.errorCounted_bitEnded c k
  have hstate : (s.node.serviceError c k).si.state = (s.node.errorCounted k).si.state := by
    rw [hsi, (Si.afterError_state _ _ _ _).1]
  have htec : (s.node.serviceError c k).si.tec = (s.node.si.countError k).tec := by
    rw [hsi, (Si.afterError_state _ _ _ _).2, hcounted]
  have hrec : (s.node.serviceError c k).si.recCount = (s.node.si.countError k).recCount := by
    rw [hsi, Si.afterError_recCount, hcounted]
  have hburst : (s.node.errorCounted k).si.bursts (s.node.si.state == .active) ↔
      s.node.si.state = .active ∧ s.node.si.listenOnly = false ∧ (s.node.serviceError c k).si.state ≠ .silenced := by
    rw [Si.bursts, hstate, beq_iff_eq, hcounted]
    rfl
  refine ⟨htec.trans (Si.countError_tec k _), hrec.trans (Si.countError_recCount k _), ?_, ?_, ?_, ?_, fun o ho => ?_,
    ?_, ?_, ?_, fun hactive hlisten hsil => ?_, fun hnone hno => ?_, fun hwhole => ?_, ?_, fun hsil => ?_,
    fun hsil => ⟨?_, fun hmove => ?_, fun hnow => ?_⟩, Node.serviceError_frame c hcan⟩
  · rw [hsi, Si.afterError_echoErrors, hcounted]
    rfl
  · rw [hsi, Si.afterError_symbolErrors, hcounted]
    rfl
  · rw [hsi, Si.afterError_checkErrors, hcounted]
    rfl
  · rw [hsi, Si.afterError_noAckErrors, hcounted]
    rfl
  · rw [hsi, Si.afterError_onCarrier, hcounted]
    exact congrArg (Option.map _) ho
  · rw [hsi]
    exact (Si.afterError_wait c k _ _).1
  · rw [hsi]
    exact (Si.afterError_wait c k _ _).2.1
  · rw [hsi]
    exact (Si.afterError_wait c k _ _).2.2
  · rw [hsi, ← hended]
    exact Si.afterError_burst c k (hburst.2 ⟨hactive, hlisten, hsil⟩)
  · rw [hsi, ← hended]
    refine Si.afterError_no_burst c k (by rw [hcounted]; exact hnone) fun h => ?_
    obtain ⟨hactive, hlisten, hnot⟩ := hburst.1 h
    obtain h | h | h := hno
    · exact h hactive
    · exact Bool.false_ne_true (hlisten.symm.trans h)
    · exact hnot h
  · rw [hsi, Si.afterError_tx_of_whole c k _ _ (hended.trans hwhole), hcounted]
    rfl
  · rw [hsi, Si.afterError_bitPos, hcounted]
    rfl
  · rw [hstate]
    have hstays := (s.node.errorCounted_spec k).stays
      (hsil.trans_ne (by decide)) (hsil.trans_ne (by decide))
    exact hstays.trans hsil
  · have hon : s.node.si.state = .active ∨ s.node.si.state = .guarded := by
      obtain h | h | h := Si.canErr_on hcan
      · exact .inl h
      · exact .inr h
      · exact absurd h hsil
    rw [hstate, htec, hrec]
    exact ((s.node.errorCounted_spec k).follows hon).trans (Si.countState_eq _)
  · rw [hstate] at hmove
    exact (Node.serviceError_pending c hcan 12).2 (.inr (.inl ⟨rfl, hmove⟩))
  · rw [hstate] at hnow
    exact (Node.serviceError_pending c hcan 15).2 (.inr (.inr ⟨rfl, hnow, hsil⟩))

end Sys2Proof.Machine
end

section
/-! SUPPORT. The messages that SI counts and MH files or discards (R158, R162, R170, R171, R179). -/

namespace Sys2Proof.Machine

/-! ## A correct message counted -/

theorem Node.followCounts_recCount (n : Node) : n.followCounts.si.recCount = n.si.recCount :=
  (congrArg (fun t : Node => t.si.recCount) n.followCounts_spec.frame :)

theorem Node.received_recCount (c : Settled) (key : Key) (payload : List Byte) (marked : Bool) (n : Node) :
    (n.received c key payload marked).si.recCount =
      if n.si.state = .silenced then n.si.recCount else n.si.recCount - 1 := by
  have hclock := n.si.countSpaces_frame key payload marked
  refine (Node.followCounts_recCount _).trans ?_
  rw [← hclock.state, ← hclock.recCount]
  rfl

/-- From `n` to `t` SI counts a correct message, and nothing else changes but MH and the notices. -/
def Node.Counted (n t : Node) : Prop :=
  t.si.receivedOk = Counter.bump n.si.receivedOk
  ∧ t.si.recCount = (if n.si.state = .silenced then n.si.recCount else n.si.recCount - 1)
  ∧ t = { n with si := t.si, mh := t.mh, rh := { n.rh with notices := t.rh.notices } }

/-- From `n` to `t` nothing changes but MH and the notices. -/
def Node.OnlyFiled (n t : Node) : Prop := t = { n with mh := t.mh, rh := { n.rh with notices := t.rh.notices } }

theorem Node.counted_of_filed {c : Settled} {key : Key} {payload : List Byte} {marked : Bool} {n t : Node}
    (h : (n.received c key payload marked).OnlyFiled t) : n.Counted t := by
  have hsi : t.si = (n.received c key payload marked).si := (congrArg Node.si h :)
  refine ⟨?_, ?_, ?_⟩
  · rw [hsi, Node.received_receivedOk]
  · rw [hsi, Node.received_recCount]
  · rw [hsi]
    refine h.trans ?_
    rw [Node.received_frame]

/-! ## The slots that match a key -/

section indices
variable {f : Slot → Bool} {d : Slot}

theorem indicesOf_head? (l : List Slot) : ∀ {i k : Nat}, i < l.length → f (l.getD i d) = true →
    (∀ j, j < i → f (l.getD j d) = false) → (indicesOf f k l).head? = some (k + i) := by
  induction l with
  | nil => intro i k hi; exact absurd hi (Nat.not_lt_zero i)
  | cons s rest ih =>
    intro i k hi hf hlow
    rcases i with _ | i
    · have hs : f s = true := hf
      simp [indicesOf, hs]
    · have hs : f s = false := hlow 0 (Nat.succ_pos i)
      have hrest := ih (k := k + 1) (Nat.lt_of_succ_lt_succ hi) hf fun j hj => hlow (j + 1) (Nat.succ_lt_succ hj)
      simp only [indicesOf, hs, Bool.false_eq_true, if_false]
      exact hrest.trans (congrArg some (by omega))

theorem indicesOf_eq_nil (l : List Slot) : ∀ {k : Nat}, (∀ j, j < l.length → f (l.getD j d) = false) →
    indicesOf f k l = [] := by
  induction l with
  | nil => exact fun _ => rfl
  | cons s rest ih =>
    intro k hnone
    have hs : f s = false := hnone 0 (Nat.succ_pos _)
    simp only [indicesOf, hs, Bool.false_eq_true, if_false]
    exact ih fun j hj => hnone (j + 1) (Nat.succ_lt_succ hj)

theorem indicesOf_getLast? (l : List Slot) : ∀ {i k : Nat}, i < l.length → f (l.getD i d) = true →
    (∀ j, i < j → f (l.getD j d) = false) → (indicesOf f k l).getLast? = some (k + i) := by
  induction l with
  | nil => intro i k hi; exact absurd hi (Nat.not_lt_zero i)
  | cons s rest ih =>
    intro i k hi hf hhigh
    rcases i with _ | i
    · have hs : f s = true := hf
      have hrest : indicesOf f (k + 1) rest = [] :=
        indicesOf_eq_nil rest (d := d) fun j _ => hhigh (j + 1) (Nat.succ_pos j)
      simp [indicesOf, hs, hrest]
    · have hrest := ih (k := k + 1) (Nat.lt_of_succ_lt_succ hi) hf fun j hj => hhigh (j + 1) (Nat.succ_lt_succ hj)
      have hlast : (k + 1) + i = k + (i + 1) := by omega
      rw [hlast] at hrest
      cases hs : f s
      · simpa [indicesOf, hs] using hrest
      · simp [indicesOf, hs, List.getLast?_cons, hrest]

end indices

/-! ## User mail filed -/

section mail
variable {n : Node} {key : Key} (payload : List Byte) (stamp : Word32)

theorem Node.fileMail_of_empty {i : Nat} (h : (n.mh.matchingEmpty key).head? = some i) :
    n.fileMail key payload stamp =
      Node.raise { n with mh := n.mh.setSlot i (.full ⟨key, payload, stamp⟩) } .mailReceived := by
  simp only [Node.fileMail, h]

theorem Node.fileMail_of_full {i : Nat} (hempty : (n.mh.matchingEmpty key).head? = none)
    (hlast : (n.mh.matching key).getLast? = some i) :
    n.fileMail key payload stamp = Node.raise { n with mh := { n.mh.setSlot i (.overrun ⟨key, payload, stamp⟩) with
      mailOverrun := Counter.bump n.mh.mailOverrun } } .mailReceived := by
  simp only [Node.fileMail, hempty, hlast]

theorem Node.fileMail_of_none (hempty : (n.mh.matchingEmpty key).head? = none)
    (hlast : (n.mh.matching key).getLast? = none) :
    n.fileMail key payload stamp = { n with mh := { n.mh with mailUnmatched := Counter.bump n.mh.mailUnmatched } } := by
  simp only [Node.fileMail, hempty, hlast]

theorem Node.fileMail_filed (n : Node) (key : Key) : n.OnlyFiled (n.fileMail key payload stamp) := by
  unfold Node.fileMail
  split <;> rfl

end mail

theorem Mh.matchingEmpty_eq_nil {mh : Mh} {key : Key}
    (h : ∀ j, (mh.slot j).defn.accepts key = true → (mh.slot j).state ≠ .empty) : mh.matchingEmpty key = [] := by
  refine indicesOf_eq_nil mh.slots (d := ⟨.unused, .unused⟩) fun j _ => ?_
  rw [Bool.and_eq_false_iff]
  rcases haccepts : (mh.slot j).defn.accepts key
  · exact .inl haccepts
  · exact .inr (beq_eq_false_iff_ne.2 (h j haccepts))

theorem Mh.matchingEmpty_head? {mh : Mh} {key : Key} {i : Nat} (hi : i < mh.slots.length)
    (haccepts : (mh.slot i).defn.accepts key = true) (hempty : (mh.slot i).state = .empty)
    (hlow : ∀ j, j < i → ¬((mh.slot j).defn.accepts key = true ∧ (mh.slot j).state = .empty)) :
    (mh.matchingEmpty key).head? = some i := by
  have hhead := indicesOf_head? (f := fun s => s.defn.accepts key && s.isEmpty) (d := ⟨.unused, .unused⟩) (k := 0)
    mh.slots hi (Bool.and_eq_true_iff.2 ⟨haccepts, beq_iff_eq.2 hempty⟩) fun j hj =>
      eq_false_of_ne_true fun hboth => by
        obtain ⟨ha, he⟩ := Bool.and_eq_true_iff.1 hboth
        exact hlow j hj ⟨ha, beq_iff_eq.1 he⟩
  exact hhead.trans (congrArg some (Nat.zero_add i))

theorem Mh.matching_getLast? {mh : Mh} {key : Key} {i : Nat} (hi : i < mh.slots.length)
    (haccepts : (mh.slot i).defn.accepts key = true) (hhigh : ∀ j, i < j → (mh.slot j).defn.accepts key = false) :
    (mh.matching key).getLast? = some i := by
  have hlast := indicesOf_getLast? (f := fun s => s.defn.accepts key) (d := ⟨.unused, .unused⟩) (k := 0) mh.slots hi
    haccepts hhigh
  exact hlast.trans (congrArg some (Nat.zero_add i))

/-! ## The commands -/

section commands
variable {s : State} {c : Settled} {key : Key} {payload : List Byte} (h : s.node.Receives c) (stamp : Word32)
  (marked : Bool)
include h

theorem yields_controlReplyReceived (hgood : isGood 5 key payload = true) :
    Yields (.controlReplyReceived key payload ⟨stamp, marked⟩) s fun t => t = s.node.received c key payload marked := by
  rw [yields_iff_after, Node.after_controlReplyReceived, Node.awake_of_high h.1.1, hgood, Node.receive_of h]

theorem yields_unusableKind (hkind : (Sys2Proof.Key.kind key == 0 && payloadFits payload) = true) :
    Yields (.unusableKind key payload ⟨stamp, marked⟩) s fun t => t = { s.node.received c key payload marked with
      mh := { s.node.mh with unusableKind := Counter.bump s.node.mh.unusableKind } } := by
  rw [yields_iff_after, Node.after_unusableKind, Node.awake_of_high h.1.1, hkind, Node.receive_of h, Node.received_mh]

theorem yields_badForm (hform : (decide (1 ≤ Sys2Proof.Key.kind key) && decide (Sys2Proof.Key.kind key ≤ 5)
      && payloadFits payload && !goodForm key payload) = true) :
    Yields (.badForm key payload ⟨stamp, marked⟩) s fun t => t = { s.node.received c key payload marked with
      mh := { s.node.mh with badForm := Counter.bump s.node.mh.badForm } } := by
  rw [yields_iff_after, Node.after_badForm, Node.awake_of_high h.1.1, hform, Node.receive_of h, Node.received_mh]

theorem yields_userMailFiled (hkind : (decide (6 ≤ Sys2Proof.Key.kind key) && payloadFits payload) = true) :
    Yields (.userMailFiled key payload ⟨stamp, marked⟩) s fun t =>
      t = (s.node.received c key payload marked).fileMail key payload (s.node.stampOf stamp) := by
  rw [yields_iff_after, Node.after_userMailFiled, Node.awake_of_high h.1.1, hkind, Node.receive_of h]

/-- Each of the four counts its message and files or discards it. -/
theorem yields_counted : ∀ i ∈ [Instr.controlReplyReceived key payload ⟨stamp, marked⟩,
    .unusableKind key payload ⟨stamp, marked⟩, .badForm key payload ⟨stamp, marked⟩,
    .userMailFiled key payload ⟨stamp, marked⟩], i.wellFormed = true → Yields i s s.node.Counted := by
  intro i hi hform
  have hfiled {i : Instr} {r : Node} (hy : Yields i s fun t => t = r)
      (hr : (s.node.received c key payload marked).OnlyFiled r) : Yields i s s.node.Counted := by
    refine hy.mono fun t ht => ?_
    rw [ht]
    exact Node.counted_of_filed hr
  simp only [List.mem_cons, List.not_mem_nil, or_false] at hi
  obtain rfl | rfl | rfl | rfl := hi
  · exact hfiled (yields_controlReplyReceived h stamp marked hform) rfl
  · exact hfiled (yields_unusableKind h stamp marked hform) rfl
  · exact hfiled (yields_badForm h stamp marked hform) rfl
  · exact hfiled (yields_userMailFiled h stamp marked hform) (Node.fileMail_filed _ _ _ _)

end commands

/-- Settles O55: SI's count of the message, then its place in MH. -/
theorem otherMessagesReceived : Obligations.OtherMessagesReceived := by
  intro s c key payload stamp marked hrec
  refine ⟨yields_counted hrec stamp marked, fun hgood => ?_, fun hkind hfits => ?_, fun hlow hhigh hfits hform => ?_,
    fun hkind hfits => ?_⟩
  · exact (yields_controlReplyReceived hrec stamp marked hgood).mono fun t ht => by rw [ht, Node.received_mh]
  · have hok : (Sys2Proof.Key.kind key == 0 && payloadFits payload) = true := by simpa [payloadFits, hkind] using hfits
    exact (yields_unusableKind hrec stamp marked hok).mono fun t ht => by rw [ht]
  · refine (yields_badForm hrec stamp marked ?_).mono fun t ht => by rw [ht]
    simp [payloadFits, hlow, hhigh, hfits, hform]
  · have hok : (decide (6 ≤ Sys2Proof.Key.kind key) && payloadFits payload) = true := by
      simpa [payloadFits, hkind] using hfits
    have hmh := Node.received_mh c key payload marked s.node
    have hfile := yields_userMailFiled hrec stamp marked hok
    refine ⟨fun i hi haccepts hempty hlow => hfile.mono fun t ht => ?_,
      fun i hi haccepts hhigh hfull => hfile.mono fun t ht => ?_, fun hnone => hfile.mono fun t ht => ?_⟩
    · have hhead := Mh.matchingEmpty_head? hi haccepts hempty hlow
      rw [← hmh] at hhead
      rw [ht, Node.fileMail_of_empty payload _ hhead, hmh]
      exact ⟨rfl, Node.raise_pending _ .mailReceived⟩
    · have hhead : (s.node.mh.matchingEmpty key).head? = none := by rw [Mh.matchingEmpty_eq_nil hfull]; rfl
      have hlast := Mh.matching_getLast? hi haccepts hhigh
      rw [← hmh] at hhead hlast
      rw [ht, Node.fileMail_of_full payload _ hhead hlast, hmh]
      exact ⟨rfl, Node.raise_pending _ .mailReceived⟩
    · have hnil : s.node.mh.matching key = [] := indicesOf_eq_nil s.node.mh.slots fun j _ => hnone j
      have hhead : (s.node.mh.matchingEmpty key).head? = none := by
        rw [Mh.matchingEmpty_eq_nil fun j hj => by cases (hnone j).symm.trans hj]
        rfl
      have hlast : (s.node.mh.matching key).getLast? = none := by rw [hnil]; rfl
      rw [← hmh] at hhead hlast
      rw [ht, Node.fileMail_of_none payload _ hhead hlast, hmh]

end Sys2Proof.Machine
end

section
/-! SUPPORT. CONTROL: its target, its place, the remote requests and their replies (R171, R176, R193, R194). -/

namespace Sys2Proof.Machine

/-! ## Remote STATUS -/

section remoteStatus
variable {n : Node} {body : List Byte}

theorem Node.remoteStatus_of_refused {r : ResultCode} (h : n.statusResult body = r) (hr : r ≠ .done) :
    n.remoteStatus body = (n, ⟨r, []⟩) := by
  subst h
  exact if_neg hr

theorem Node.remoteStatus_of_done (h : n.statusResult body = .done) :
    n.remoteStatus body =
      ({ n.statusClear body with freeIdx := n.freeIdx + n.summaryDraws (field body 0 1) },
        ⟨.done, n.summary (field body 0 1)⟩) := if_pos h

theorem Node.statusResult_of_badLength (h : body.length ≠ 2) : n.statusResult body = .badLength :=
  if_pos (bne_iff_ne.2 h)

end remoteStatus

theorem Node.counters_freeIdx (k d : Nat) (n : Node) : ({ n with freeIdx := d } : Node).counters k = n.counters k := rfl

theorem Node.OnlyCleared.freeIdx {n t : Node} (h : n.OnlyCleared t) (d : Nat) : n.OnlyCleared { t with freeIdx := d } :=
  { h with }

theorem Node.statusClear_of_flag {flag : Byte} (h : flag ≠ 0) (k : Byte) (n : Node) :
    n.statusClear [k, flag] = n.clearSection k.toNat := by
  have hflag : field [k, flag] 1 1 ≠ 0 := by
    rw [field_second_byte]
    exact fun hzero => h (BitVec.eq_of_toNat_eq hzero)
  rw [Node.statusClear, if_neg hflag, field_head_byte]

theorem Node.statusClear_counters_of_ne {j : Nat} {k : Byte} (h : j ≠ k.toNat) (flag : Byte) (n : Node) :
    (n.statusClear [k, flag]).counters j = n.counters j := by
  unfold Node.statusClear
  split
  · rfl
  · rw [field_head_byte]
    exact Node.clearSection_counters_of_ne h n

/-! ## A CONTROL taken -/

/-- The CONTROL is for this node or for every node (R176). -/
def Node.isTarget (key : Key) (n : Node) : Prop := Key.first key = n.rh.straps.node ∨ Key.first key = 15

section control
variable {n : Node} {key : Key}

theorem Node.control_of_other (h : ¬n.isTarget key) (payload : List Byte) : n.control key payload = n :=
  if_neg (by simpa [Node.isTarget] using h)

theorem Node.control_of_busy (h : n.isTarget key) (hplace : n.mh.controlReply ≠ none) (payload : List Byte) :
    n.control key payload = { n with mh := { n.mh with controlBusy := Counter.bump n.mh.controlBusy } } := by
  refine (if_pos (by simpa [Node.isTarget] using h)).trans (if_pos ?_)
  exact Option.isSome_iff_ne_none.2 hplace

theorem Node.control_of_free (h : n.isTarget key) (hplace : n.mh.controlReply = none) (kind : Byte) (body : List Byte) :
    n.control key (kind :: body) =
      (n.remote kind.toNat body).1.placeReply (Key.second key) (n.remote kind.toNat body).2 := by
  have hkind : field (kind :: body) 0 1 = kind.toNat := field_head_byte kind body
  refine (if_pos (by simpa [Node.isTarget] using h)).trans ((if_neg (by simp [hplace])).trans ?_)
  rw [hkind]
  rfl

/-- What a remote request of a kind is (R194). -/
theorem Node.remote_eq {m : Node} {r : Response} {kind : Byte} {body : List Byte}
    (h : (kind = 2 ∧ (m, r) = n.adjust body) ∨ (kind = 5 ∧ (m, r) = n.remoteStatus body)
      ∨ (kind = 7 ∧ (m, r) = n.softResetRequest body)
      ∨ (kind ≠ 2 ∧ kind ≠ 5 ∧ kind ≠ 7 ∧ (m, r) = (n, ⟨.unknownKind, []⟩))) :
    n.remote kind.toNat body = (m, r) := by
  obtain ⟨rfl, hr⟩ | ⟨rfl, hr⟩ | ⟨rfl, hr⟩ | ⟨htwo, hfive, hseven, hr⟩ := h
  · exact hr.symm
  · exact hr.symm
  · exact hr.symm
  · rw [hr]
    unfold Node.remote
    split
    · next hk => exact absurd (BitVec.eq_of_toNat_eq hk) htwo
    · next hk => exact absurd (BitVec.eq_of_toNat_eq hk) hfive
    · next hk => exact absurd (BitVec.eq_of_toNat_eq hk) hseven
    · rfl

theorem Node.placeReply_of_open (h : n.si.listenOnly = false) (requester : BitVec 4) (r : Response) :
    n.placeReply requester r = { n with mh := { n.mh with controlReply := some ⟨requester, r.code.byte :: r.body⟩ } } :=
  if_neg (by simp [h])

theorem Node.placeReply_of_listening (h : n.si.listenOnly = true) (requester : BitVec 4) (r : Response) :
    n.placeReply requester r = { n with mh := { n.mh with controlUnreplied := Counter.bump n.mh.controlUnreplied } } :=
  if_pos h

end control

theorem Node.started_of_none {n : Node} (h : n.si.onCarrier = none) (p : Place) : n.started p = false := by
  simp [Node.started, h]

theorem Node.started_of_own {n : Node} {o : OnCarrier} {p : Place} (h : n.si.onCarrier = some o) (hp : o.place = p) :
    n.started p = true := by
  simp [Node.started, h, hp]

theorem Si.canReceive_noCarrier {si : Si} (h : si.canReceive = true) : si.onCarrier = none := by
  simp only [Si.canReceive, Bool.and_eq_true, Option.isNone_iff_eq_none] at h
  exact h.1.2

theorem yields_controlReceived {s : State} {c : Settled} {key : Key} {payload : List Byte} (h : s.node.Receives c)
    (hgood : isGood 4 key payload = true) (stamp : Word32) (marked : Bool) :
    Yields (.controlReceived key payload ⟨stamp, marked⟩) s fun t =>
      t = (s.node.received c key payload marked).control key payload := by
  have hown := Node.started_of_none (Si.canReceive_noCarrier h.2) .controlReply
  rw [yields_iff_after, Node.after_controlReceived, Node.awake_of_high h.1.1, hgood, Node.controlReceived, hown,
    Bool.and_false, Bool.false_and, if_neg Bool.false_ne_true, Node.receive_of h]

/-! ## A CONTROL with the node's own reply on the carrier -/

/-- The block with a message counted while its own is on the carrier, the state following the counts. -/
def Node.countedOver (n : Node) : Node := Node.followCounts { n with si := n.si.countReceived }

theorem Node.countedOver_frame (n : Node) : n.countedOver = { n with
    si := n.countedOver.si, rh := { n.rh with notices := n.countedOver.rh.notices } } := Node.followCounts_frame _

theorem Node.countedOver_mh (n : Node) : n.countedOver.mh = n.mh := Node.followCounts_mh _

theorem Node.countedOver_recCount (n : Node) : n.countedOver.si.recCount =
    if n.si.state = .silenced then n.si.recCount else n.si.recCount - 1 := Node.followCounts_recCount _

theorem Node.countedOver_isTarget {n : Node} {key : Key} : n.countedOver.isTarget key ↔ n.isTarget key := by
  rw [Node.isTarget, n.countedOver_frame]
  rfl

theorem yields_controlReceived_over {s : State} {key : Key} {payload : List Byte} {o : OnCarrier}
    (hlow : s.node.rstLow = false) (hon : s.node.si.state.isOn = true) (ho : s.node.si.onCarrier = some o)
    (hplace : o.place = .controlReply) (hgood : isGood 4 key payload = true) (stamp : Word32) (marked : Bool) :
    Yields (.controlReceived key payload ⟨stamp, marked⟩) s fun t => t = s.node.countedOver.control key payload := by
  rw [yields_iff_after, Node.after_controlReceived, Node.awake_of_high hlow, hgood, Node.controlReceived,
    Node.started_of_own ho hplace, hon]
  rfl

/-! ## SOFT_RESET under the mailbox -/

theorem Node.softResetRequest_setMailbox (body : List Byte) (m w : Mailbox) (n : Node) :
    ((n.setMailbox m).softResetRequest body).1.setMailbox w = (n.softResetRequest body).1.setMailbox w
    ∧ ((n.setMailbox m).softResetRequest body).2 = (n.softResetRequest body).2 := by
  unfold Node.softResetRequest
  rw [show (n.setMailbox m).rh.settled = n.rh.settled from rfl]
  split
  · exact ⟨rfl, rfl⟩
  · split <;> exact ⟨rfl, rfl⟩

theorem yields_adjust {s : State} {addr : BitVec 7} {body : List Byte} (hears : s.node.Hears addr body) :
    Yields (.adjust addr body) s fun t =>
      t = (s.node.adjust body).1.setMailbox (.held (s.node.adjust body).2) := by
  rw [yields_request (Node.after_adjust addr body _) hears (Node.adjust_setMailbox body .taking s.node)]
  rfl

theorem yields_softReset {s : State} {addr : BitVec 7} {body : List Byte} (hears : s.node.Hears addr body) :
    Yields (.softReset addr body) s fun t =>
      t = (s.node.softResetRequest body).1.setMailbox (.held (s.node.softResetRequest body).2) := by
  have hreset := fun w => Node.softResetRequest_setMailbox body .taking w s.node
  rw [yields_request (Node.after_softReset addr body _) hears
    (n := ((s.node.setMailbox .taking).softResetRequest body).1)
    (r := ((s.node.setMailbox .taking).softResetRequest body).2) rfl, (hreset .taking).2]
  exact (hreset _).1

theorem remoteStatus_spec (b : Node) (k flag : Byte) (hlow : 1 ≤ k.toNat) (hhigh : k.toNat ≤ 6)
    (hlife : b.rh.lifecycle ≠ .unsettled ∨ k = 1) : ∃ t,
      b.remoteStatus [k, flag] = (t, ⟨.done, b.summary k.toNat⟩)
      ∧ (flag = 0 → t = { b with freeIdx := t.freeIdx })
      ∧ (flag ≠ 0 → ∀ x ∈ t.counters k.toNat, x = 0)
      ∧ (∀ j, j ≠ k.toNat → t.counters j = b.counters j)
      ∧ t.ss.lowWater = (if k = 3 ∧ flag ≠ 0 then b.ss.freeCount else b.ss.lowWater)
      ∧ b.OnlyCleared t := by
  have hdone := Node.remoteStatus_of_done (Node.statusResult_of_section (n := b) flag hlow hhigh hlife)
  rw [field_head_byte] at hdone
  refine ⟨_, hdone, ?_, fun hflag => ?_, fun j hj => ?_, Node.statusClear_lowWater k flag b,
    (b.statusClear_onlyCleared [k, flag]).freeIdx _⟩
  · rintro rfl
    rfl
  · rw [Node.counters_freeIdx, Node.statusClear_of_flag hflag]
    exact Node.clearSection_counters_self _ b
  · rw [Node.counters_freeIdx, Node.statusClear_counters_of_ne hj]

/-- Settles O54: CONTROL at its target, its request as from the mailbox, and the remote STATUS. -/
theorem controlReceived : Obligations.ControlReceived := by
  refine ⟨fun s c key kind body stamp marked hgood => ⟨fun hrec => ?_, fun o hlow hon ho hplace hfull htarget => ?_⟩,
    fun b body => ⟨fun hlen => ?_, fun k flag hbody => ?_⟩, fun s addr body hears => ⟨?_, ?_⟩⟩
  · have hmh := Node.received_mh c key (kind :: body) marked s.node
    have hnode := Node.received_straps c key (kind :: body) marked s.node
    have hy := yields_controlReceived hrec hgood stamp marked
    have htarget (h : Key.first key = s.node.rh.straps.node ∨ Key.first key = 15) :
        (s.node.received c key (kind :: body) marked).isTarget key := by
      rw [Node.isTarget, hnode]
      exact h
    refine ⟨fun hother hall => hy.mono fun t ht => ?_, Node.received_frame c key _ marked s.node,
      Node.received_receivedOk c key _ marked s.node,
      fun hfirst => ⟨fun hfull => hy.mono fun t ht => ?_, fun hfree n r hremote => hy.mono fun t ht => ?_⟩⟩
    · rw [ht, Node.control_of_other]
      rw [Node.isTarget, hnode]
      exact not_or_intro hother hall
    · rw [ht, Node.control_of_busy (htarget hfirst) (by rwa [hmh]), hmh]
    · rw [Node.control_of_free (htarget hfirst) (by rwa [hmh]), Node.remote_eq hremote] at ht
      subst ht
      exact ⟨fun hopen => Node.placeReply_of_open hopen _ _, fun hlisten => Node.placeReply_of_listening hlisten _ _⟩
  · refine (yields_controlReceived_over hlow hon ho hplace hgood stamp marked).mono fun t ht => ?_
    rw [Node.control_of_busy (Node.countedOver_isTarget.2 htarget) (by rwa [Node.countedOver_mh]),
      Node.countedOver_mh] at ht
    subst ht
    refine ⟨rfl, (Node.followCounts_onCarrier _).trans ho, Node.followCounts_receivedOk _,
      Node.countedOver_recCount _, ?_⟩
    rw [s.node.countedOver_frame]
  · exact Node.remoteStatus_of_refused (Node.statusResult_of_badLength hlen) (by decide)
  · subst hbody
    exact ⟨fun hrange => Node.remoteStatus_of_refused (Node.statusResult_of_range flag hrange) (by decide),
      fun hlow hhigh hlife =>
        Node.remoteStatus_of_refused (Node.statusResult_of_unsettled flag hlow hhigh hlife) (by decide),
      remoteStatus_spec b k flag⟩
  · exact yields_adjust hears
  · exact yields_softReset hears

end Sys2Proof.Machine
end

section
/-! SUPPORT. What is written is read back: numbers in bits and bytes, service messages (R152 to R154), the ANNOUNCE's
payload and the segment header (R199, R201). -/

namespace Sys2Proof.Machine

/-! ## Numbers in bits -/

theorem length_bitsMsb (w k : Nat) : (bitsMsb w k).length = w := by
  induction w with
  | zero => rfl
  | succ w ih => exact congrArg (· + 1) ih

theorem foldl_bitsMsb (w k : Nat) : ∀ a : Nat,
    (bitsMsb w k).foldl (fun a b => a * 2 + b.toNat) a = a * 2 ^ w + k % 2 ^ w := by
  induction w with
  | zero => simp [bitsMsb, Nat.mod_one]
  | succ w ih =>
    intro a
    rw [bitsMsb, List.foldl_cons, ih, Nat.toNat_testBit, Nat.mod_pow_succ]
    ring

theorem natOfBits_bitsMsb {w k : Nat} (h : k < 2 ^ w) : natOfBits (bitsMsb w k) = k := by
  rw [natOfBits, foldl_bitsMsb, Nat.zero_mul, Nat.zero_add, Nat.mod_eq_of_lt h]

/-- A number written in `w` bits is read back from the front of what follows. -/
theorem natOfBits_take {w k : Nat} (h : k < 2 ^ w) (rest : List Bool) :
    natOfBits ((bitsMsb w k ++ rest).take w) = k := by
  rw [List.take_left' (length_bitsMsb w k), natOfBits_bitsMsb h]

theorem drop_bitsMsb (w k : Nat) (rest : List Bool) : (bitsMsb w k ++ rest).drop w = rest :=
  List.drop_left' (length_bitsMsb w k)

theorem length_byteBits (bs : List Byte) : (byteBits bs).length = 8 * bs.length := by
  induction bs with
  | nil => rfl
  | cons b rest ih =>
    have hcons : byteBits (b :: rest) = bitsMsb 8 b.toNat ++ byteBits rest := rfl
    rw [hcons, List.length_append, length_bitsMsb, ih, List.length_cons]
    omega

theorem readBytes_byteBits (bs : List Byte) (rest : List Bool) : readBytes bs.length (byteBits bs ++ rest) = bs := by
  induction bs with
  | nil => rfl
  | cons b bs ih =>
    have hcons : byteBits (b :: bs) ++ rest = bitsMsb 8 b.toNat ++ (byteBits bs ++ rest) := List.append_assoc ..
    rw [hcons, List.length_cons, readBytes, natOfBits_take b.isLt, drop_bitsMsb, ih, BitVec.ofNat_toNat,
      BitVec.setWidth_eq]

/-! ## A message's content -/

section message
variable {key : Key} {payload : List Byte} (hfits : payload.length ≤ 16)

theorem length_contentBits (key : Key) (payload : List Byte) :
    (contentBits key payload).length = 17 + 8 * payload.length := by
  simp only [contentBits, List.length_append, length_bitsMsb, length_byteBits]

theorem length_stuffedPart (key : Key) (payload : List Byte) :
    (stuffedPart key payload).length = 34 + 8 * payload.length := by
  simp only [stuffedPart, List.length_cons, List.length_append, length_bitsMsb, length_contentBits]
  omega

/-- The data bits after the start mark, one after the other. -/
theorem stuffedPart_tail (key : Key) (payload : List Byte) : (stuffedPart key payload).drop 1 =
    bitsMsb 12 key.toNat ++ (bitsMsb 5 payload.length
      ++ (byteBits payload ++ bitsMsb 16 (crc16 (contentBits key payload)).toNat)) := by
  simp only [stuffedPart, List.drop_one, List.tail_cons]
  rw [contentBits, List.append_assoc, List.append_assoc]

include hfits

theorem length_field_bits (rest : List Bool) : natOfBits ((bitsMsb 5 payload.length ++ rest).take 5) = payload.length :=
  natOfBits_take (by omega) rest

theorem readContent_stuffedPart : readContent ((stuffedPart key payload).drop 1) = .ok (key, payload) := by
  have hlength : natOfBits ((((stuffedPart key payload).drop 1).drop 12).take 5) = payload.length := by
    rw [stuffedPart_tail, drop_bitsMsb, length_field_bits hfits]
  have hcontent : ((stuffedPart key payload).drop 1).take (17 + 8 * payload.length) = contentBits key payload :=
    List.take_left' (length_contentBits key payload)
  have hcheck : ((stuffedPart key payload).drop 1).drop (17 + 8 * payload.length) =
      bitsMsb 16 (crc16 (contentBits key payload)).toNat ++ [] := by
    rw [List.append_nil]
    exact List.drop_left' (length_contentBits key payload)
  have hkey : natOfBits (((stuffedPart key payload).drop 1).take 12) = key.toNat := by
    rw [stuffedPart_tail, natOfBits_take key.isLt]
  have hbytes : readBytes payload.length (((stuffedPart key payload).drop 1).drop 17) = payload := by
    have hsplit : ∀ l : List Bool, l.drop 17 = (l.drop 12).drop 5 := fun l => by rw [List.drop_drop]
    rw [hsplit, stuffedPart_tail, drop_bitsMsb, drop_bitsMsb, readBytes_byteBits]
  have hwhole : ((stuffedPart key payload).drop 1).length = 33 + 8 * payload.length := by
    rw [List.length_drop, length_stuffedPart]
    omega
  simp only [readContent, hlength, hcontent, hcheck, hkey, hbytes, hwhole, natOfBits_take (BitVec.isLt _),
    if_neg (Nat.not_lt.2 hfits), beq_self_eq_true, Bool.and_self, if_true, BitVec.ofNat_toNat, BitVec.setWidth_eq]

end message

/-! ## Stuffing -/

/-- The run of equal data bits with one more (R153). -/
def nextRun (run : Nat) (last b : Bool) : Nat := if run != 0 && b == last then run + 1 else 1

theorem stuff_cons (run : Nat) (last b : Bool) (rest : List Bool) : stuff run last (b :: rest) =
    if nextRun run last b = 4 then b :: (!b) :: stuff 0 b rest else b :: stuff (nextRun run last b) b rest := rfl

section unstuff
variable {run : Nat} {last b : Bool}

theorem unstuff_of_due (h : nextRun run last b = 4) (s : Bool) (rest : List Bool) :
    unstuff run last (b :: s :: rest) = if (s == b) = true then none else (unstuff 0 b rest).map (b :: ·) := by
  rw [unstuff]
  exact if_pos h

theorem unstuff_of_data (h : nextRun run last b ≠ 4) (rest : List Bool) :
    unstuff run last (b :: rest) = (unstuff (nextRun run last b) b rest).map (b :: ·) := by
  rw [unstuff.eq_def]
  exact if_neg h

end unstuff

theorem unstuff_stuff (bits : List Bool) : ∀ (run : Nat) (last : Bool), unstuff run last (stuff run last bits) = some bits := by
  induction bits with
  | nil => exact fun _ _ => rfl
  | cons b rest ih =>
    intro run last
    rw [stuff_cons]
    by_cases hfour : nextRun run last b = 4
    · rw [if_pos hfour, unstuff_of_due hfour, if_neg (by simp), ih, Option.map_some]
    · rw [if_neg hfour, unstuff_of_data hfour, ih, Option.map_some]

theorem receiveBits_stuff {key : Key} {payload : List Byte} (hfits : payload.length ≤ 16) :
    receiveBits (stuff 0 true (stuffedPart key payload)) = .ok (key, payload) := by
  have hread := readContent_stuffedPart (key := key) hfits
  simp only [receiveBits, unstuff_stuff]
  exact hread

/-! ## Sampling bit by bit -/

section sampling
variable {key : Key} {payload : List Byte}

/-- A reading whose data bits are the first of this message's. -/
def Reading.within (key : Key) (payload : List Byte) (r : Reading) : Prop := r.data <+: stuffedPart key payload

variable (hfits : payload.length ≤ 16) {r : Reading} (hr : r.within key payload)
include hfits hr

theorem Reading.payloadLength_of_within (hlen : 18 ≤ r.data.length) : r.payloadLength = payload.length := by
  obtain ⟨rest, hrest⟩ := hr
  have hdrop : (r.data.drop 13).take 5 = ((stuffedPart key payload).drop 13).take 5 := by
    rw [← hrest, List.drop_append_of_le_length (by omega), List.take_append_of_le_length]
    rw [List.length_drop]
    omega
  have hsplit : ∀ l : List Bool, l.drop 13 = (l.drop 1).drop 12 := fun l => by rw [List.drop_drop]
  rw [Reading.payloadLength, hdrop, hsplit, stuffedPart_tail, drop_bitsMsb, length_field_bits hfits]

theorem Reading.whole_iff_of_within : r.data.length = 34 + 8 * r.payloadLength ↔ r.data = stuffedPart key payload := by
  constructor
  · intro hlen
    rw [Reading.payloadLength_of_within hfits hr (by omega), ← length_stuffedPart key] at hlen
    exact hr.eq_of_length hlen
  · intro hdata
    have hlen := length_stuffedPart key payload
    rw [← hdata] at hlen
    rw [Reading.payloadLength_of_within hfits hr (by omega), hlen]

theorem Reading.judge_of_within : r.judge = .ok r := by
  have hlength : ¬(r.data.length = 18 && 16 < r.payloadLength) = true := by
    rw [Bool.and_eq_true, decide_eq_true_eq, decide_eq_true_eq]
    rintro ⟨hlen, hover⟩
    rw [Reading.payloadLength_of_within hfits hr hlen.ge] at hover
    omega
  refine (if_neg hlength).trans ?_
  split
  · next hwhole =>
    simp only [Reading.isWhole, Bool.and_eq_true, beq_iff_eq] at hwhole
    have hdata := (Reading.whole_iff_of_within hfits hr).1 hwhole.1
    rw [Reading.content, hdata, readContent_stuffedPart hfits]
    rfl
  · rfl

end sampling

end Sys2Proof.Machine
end

section
/-! SUPPORT. A message sampled bit by bit (R152, R153, R158), and the byte formats of ANNOUNCE and segment header. -/

namespace Sys2Proof.Machine

/-! ## The stuffed part sampled -/

section sampling
variable {key : Key} {payload : List Byte} (hfits : payload.length ≤ 16) {r : Reading}

theorem Reading.isWhole_of_due (h : r.run = 4) : r.isWhole = false := by
  simp [Reading.isWhole, Reading.stuffDue, h]

/-- A stuff bit of the opposite level is taken out. -/
theorem Reading.take_of_due (hrun : r.run = 4) {b : Bool} (hlast : r.data.getLast? = some b) :
    r.take (!b) = Reading.judge { r with run := 0 } := by
  have hopposite : r.data.getLast? ≠ some (!b) := by simp [hlast]
  refine (if_neg (by simp [Reading.isWhole_of_due hrun])).trans ((if_pos ?_).trans (if_neg hopposite))
  simp [Reading.stuffDue, hrun]

/-- A data bit within the stuffed part is added to those before it. -/
theorem Reading.take_of_data (hnotWhole : r.isWhole = false) (hrun : r.run < 4) {last : Bool}
    (hlast : r.run ≠ 0 → r.data.getLast? = some last) (b : Bool) :
    r.take b = Reading.judge { r with data := r.data ++ [b], run := nextRun r.run last b } := by
  have hnotDue : r.stuffDue = false := by simpa [Reading.stuffDue] using Nat.ne_of_lt hrun
  have hnext : (if (r.run != 0 && r.data.getLast? == some b) = true then r.run + 1 else 1) = nextRun r.run last b := by
    by_cases hzero : r.run = 0
    · simp [nextRun, hzero]
    · simp [nextRun, hlast hzero, Bool.beq_comm]
  refine (if_neg (by simp [hnotWhole])).trans ((if_neg (by simp [hnotDue])).trans ?_)
  rw [hnext]

theorem nextRun_le {run : Nat} (h : run < 4) (last b : Bool) : nextRun run last b ≤ 4 := by
  unfold nextRun
  split <;> omega

include hfits

theorem Reading.isWhole_iff (hr : r.within key payload) (hrun : r.run < 4) :
    r.isWhole = true ↔ r.data = stuffedPart key payload := by
  have hnotDue : r.stuffDue = false := by simpa [Reading.stuffDue] using Nat.ne_of_lt hrun
  rw [← Reading.whole_iff_of_within hfits hr]
  simp [Reading.isWhole, hnotDue]

/-- The stuffed bits of the rest of a message's data, sampled after its first data bits, complete the data. -/
theorem Reading.foldlM_stuff (rest : List Bool) : ∀ (pre : List Bool) (run : Nat) (last : Bool),
    pre ++ rest = stuffedPart key payload → run < 4 → (run ≠ 0 → pre.getLast? = some last) →
    ∃ run', run' < 4 ∧ (stuff run last rest).foldlM (fun r b => Reading.take b r) (⟨pre, run, 0, false⟩ : Reading)
      = .ok ⟨stuffedPart key payload, run', 0, false⟩ := by
  induction rest with
  | nil =>
    intro pre run last hpre hrun _
    rw [List.append_nil] at hpre
    exact ⟨run, hrun, by rw [hpre]; rfl⟩
  | cons b rest ih =>
    intro pre run last hpre hrun hlast
    have hdata : (pre ++ [b]) ++ rest = stuffedPart key payload := by rw [List.append_assoc]; exact hpre
    have hwithin : pre <+: stuffedPart key payload := ⟨_, hpre⟩
    have hwithin' : pre ++ [b] <+: stuffedPart key payload := ⟨_, hdata⟩
    have hlast' : (pre ++ [b]).getLast? = some b := List.getLast?_concat
    have hpart : Reading.isWhole ⟨pre, run, 0, false⟩ = false := by
      refine eq_false_of_ne_true fun hwhole => ?_
      have heq : pre = stuffedPart key payload :=
        (Reading.isWhole_iff (r := ⟨pre, run, 0, false⟩) hfits hwithin hrun).1 hwhole
      rw [← heq] at hpre
      simp at hpre
    have htake : Reading.take b ⟨pre, run, 0, false⟩ = .ok ⟨pre ++ [b], nextRun run last b, 0, false⟩ :=
      (Reading.take_of_data hpart hrun hlast b).trans
        (Reading.judge_of_within (r := ⟨pre ++ [b], nextRun run last b, 0, false⟩) hfits hwithin')
    rw [stuff_cons]
    by_cases hfour : nextRun run last b = 4
    · have hstuff : Reading.take (!b) ⟨pre ++ [b], nextRun run last b, 0, false⟩ = .ok ⟨pre ++ [b], 0, 0, false⟩ :=
        (Reading.take_of_due hfour hlast').trans
          (Reading.judge_of_within (r := ⟨pre ++ [b], 0, 0, false⟩) hfits hwithin')
      obtain ⟨run', hrun', hfold⟩ := ih (pre ++ [b]) 0 b hdata (by decide) fun h => absurd rfl h
      have hrest : ((!b) :: stuff 0 b rest).foldlM (fun r b => Reading.take b r)
          (⟨pre ++ [b], nextRun run last b, 0, false⟩ : Reading) = .ok ⟨stuffedPart key payload, run', 0, false⟩ := by
        rw [List.foldlM_cons, hstuff]
        exact hfold
      refine ⟨run', hrun', ?_⟩
      rw [if_pos hfour, List.foldlM_cons, htake]
      exact hrest
    · have hless : nextRun run last b < 4 := Nat.lt_of_le_of_ne (nextRun_le hrun last b) hfour
      obtain ⟨run', hrun', hfold⟩ := ih (pre ++ [b]) (nextRun run last b) b hdata hless fun _ => hlast'
      refine ⟨run', hrun', ?_⟩
      rw [if_neg hfour, List.foldlM_cons, htake]
      exact hfold

end sampling

/-! ## The bits after the stuffed part -/

theorem Reading.isWhole_tail (r : Reading) (tail : Nat) (marked : Bool) :
    Reading.isWhole { r with tail := tail, marked := marked } = r.isWhole := rfl

section tail
variable {r : Reading} (hwhole : r.isWhole = true)
include hwhole

theorem Reading.take_slot (htail : r.tail = 0) (b : Bool) : r.take b = .ok { r with tail := 1, marked := !b } :=
  (if_pos hwhole).trans (if_pos htail)

theorem Reading.foldlM_spaces (k : Nat) : ∀ t, t ≠ 0 →
    (List.replicate k true).foldlM (fun r b => Reading.take b r) { r with tail := t } = .ok { r with tail := t + k } := by
  induction k with
  | zero => exact fun _ _ => rfl
  | succ k ih =>
    intro t ht
    have htake : Reading.take true { r with tail := t } = .ok { r with tail := t + 1 } :=
      (if_pos (c := Reading.isWhole { r with tail := t } = true) hwhole).trans ((if_neg ht).trans (if_pos rfl))
    rw [List.replicate_succ, List.foldlM_cons, htake, Nat.add_comm k, ← Nat.add_assoc]
    exact ih (t + 1) (Nat.succ_ne_zero t)

end tail

/-- A sent message sampled bit by bit ends with its content and its acknowledge slot. -/
theorem foldlM_carrierBits {key : Key} {payload : List Byte} (hfits : payload.length ≤ 16) (marked : Bool) :
    ∃ r, (carrierBits key payload marked).foldlM (fun r b => Reading.take b r) Reading.empty = .ok r
      ∧ r.content = .ok (key, payload) ∧ r.tail = 9 ∧ r.marked = marked := by
  obtain ⟨run, hrun, hstuffed⟩ := Reading.foldlM_stuff (key := key) hfits (stuffedPart key payload) [] 0 true rfl
    (by decide) fun h => absurd rfl h
  have hwhole : Reading.isWhole ⟨stuffedPart key payload, run, 0, false⟩ = true :=
    (Reading.isWhole_iff (r := ⟨stuffedPart key payload, run, 0, false⟩) hfits (List.prefix_refl _) hrun).2 rfl
  have hmarked : Reading.isWhole ⟨stuffedPart key payload, run, 1, marked⟩ = true := hwhole
  refine ⟨⟨stuffedPart key payload, run, 9, marked⟩, ?_, readContent_stuffedPart hfits, rfl, rfl⟩
  have hslot : Reading.take (!marked) ⟨stuffedPart key payload, run, 0, false⟩ =
      .ok ⟨stuffedPart key payload, run, 1, marked⟩ := by
    rw [Reading.take_slot hwhole rfl, Bool.not_not]
  have hrest : ((!marked) :: List.replicate 8 true).foldlM (fun r b => Reading.take b r)
      (⟨stuffedPart key payload, run, 0, false⟩ : Reading) = .ok ⟨stuffedPart key payload, run, 9, marked⟩ := by
    rw [List.foldlM_cons, hslot]
    exact Reading.foldlM_spaces hmarked 8 1 (by decide)
  rw [carrierBits, List.foldlM_append, Reading.empty, hstuffed]
  exact hrest

/-! ## Byte formats -/

theorem Timecode.ofBytes_append {t : Timecode} (h : t.hours.toNat < 128) (rest : List Byte) :
    Timecode.ofBytes (t.bytes ++ rest) = t := Timecode.ofBytes_bytes h

theorem field_u32_append {k : Nat} (h : k < 4294967296) (rest : List Byte) : field (u32 k ++ rest) 0 4 = k :=
  beNat_u32 h

theorem announceBody_bytes {a : AnnounceBody} (h : a.timecode.hours.toNat < 128) :
    a.bytes.length = 14 ∧ AnnounceBody.ofBytes a.bytes = a := by
  have hfirst : field a.bytes 0 4 = a.t3.toNat := beNat_u32 a.t3.isLt
  have hsecond : field a.bytes 4 4 = a.s.toNat := beNat_u32 a.s.isLt
  have hnumber : field a.bytes 8 2 = a.nSrc.toNat := field_u16_append a.nSrc.isLt a.timecode.bytes
  have htime : Timecode.ofBytes (a.bytes.drop 10) = a.timecode := Timecode.ofBytes_bytes h
  refine ⟨rfl, ?_⟩
  simp only [AnnounceBody.ofBytes, hfirst, hsecond, hnumber, htime, BitVec.ofNat_toNat, BitVec.setWidth_eq]

/-- The header's first byte: the plane, and in bit 7 whether a timecode is there. -/
theorem plane_byte : ∀ (plane : BitVec 2) (timed : Bool),
    (((if timed = true then 0x80 else 0) ||| plane.setWidth 8 : Byte).setWidth 2 = plane)
    ∧ ((if timed = true then 0x80 else 0) ||| plane.setWidth 8 : Byte).getLsbD 7 = timed := by
  decide

theorem segHeader_bytes {h : SegHeader} (hline : h.line < 65536) (hlength : h.length < 65536)
    (htime : ∀ t, h.timecode = some t → t.hours.toNat < 128) :
    h.bytes.length = 16 ∧ SegHeader.ofBytes h.bytes = h := by
  obtain ⟨hplane, htimed⟩ := plane_byte h.plane h.timecode.isSome
  have hplaneField : (h.bytes.getD 0 0).setWidth 2 = h.plane := hplane
  have htimedBit : (h.bytes.getD 0 0).getLsbD 7 = h.timecode.isSome := htimed
  have hframe : h.bytes.getD 1 0 = h.frame := rfl
  have hlineField : field h.bytes 2 2 = h.line := field_u16_append hline _
  have hlengthField : field h.bytes 4 2 = h.length := field_u16_append hlength _
  obtain ⟨plane, frame, line, length, timecode⟩ := h
  refine ⟨by cases timecode <;> rfl, ?_⟩
  unfold SegHeader.ofBytes
  simp only [hplaneField, htimedBit, hframe, hlineField, hlengthField]
  rcases timecode with _ | t
  · rfl
  · have htc : Timecode.ofBytes ((SegHeader.bytes ⟨plane, frame, line, length, some t⟩).drop 6) = t :=
      Timecode.ofBytes_append (htime t rfl) (List.replicate 6 0)
    rw [htc]
    rfl

/-- Settles O56: each format read back. -/
theorem roundTrips : Obligations.RoundTrips :=
  ⟨fun _ _ hfits => receiveBits_stuff hfits, fun _ _ marked hfits => foldlM_carrierBits hfits marked,
    fun _ hline hlength htime => segHeader_bytes hline hlength htime, fun _ htime => announceBody_bytes htime⟩

end Sys2Proof.Machine
end
